-- ==== Sys2Proof/Word.lean ====
section
/-! DEFINITION. The words of the machine and the sparse table that holds everything numbered. -/
namespace Sys2Proof

/-- A byte; the machine is byte-addressed and little-endian (R7, R26). -/
abbrev Byte := BitVec 8

/-- A 32-bit word: scalar and address registers, lanes, ring counts. -/
abbrev Word := BitVec 32

/-- A sparse table: what is numbered (registers, lanes, bytes, cores) by its number. An entry that is not
listed holds the default its reader names. Canonical form: numbers strictly rising, no entry equal to the default. -/
abbrev Tab (α : Type) := List (Nat × α)

end Sys2Proof
end

