-- ==== Sys2Proof/Syntax.lean ====
section
/-! DEFINITION. The commands of the block: one constructor of `Instr` for each row of the opcode table, with
the operands the spec's rules give the step. What the spec leaves to a neighbour, a host, a partner, a sensor
or an instant (an answer, a measured value, a collision in one cycle) is an operand of the command it comes with. -/
namespace Sys2Proof

/-- The two PCIe ports, and the two reference clocks named after them (R29, R31). -/
inductive PciePort where
  | a
  | b
  deriving DecidableEq, Repr

/-- The engine queues of a core (R177), in the order of EMASK's bits (R189). -/
inductive Eng where
  | mxa
  | vxa
  | vxm
  | sfu
  | rsu
  | dmv
  deriving DecidableEq, Repr

/-- The second operand of a control instruction: a register-file code, or IMM32 when BI is 1 (R186). -/
inductive Src where
  | reg (code : BitVec 6)
  | imm (v : Word)
  deriving DecidableEq, Repr

/-- How a port answers a device read (R383, R511). -/
inductive HostResp where
  | ok
  | unsupported
  | abort
  | timeout
  | poisoned
  | down
  deriving DecidableEq, Repr

/-- Collisions of a command's shared-port writes with the owner's (R252, R254): the number of an access of the
command, counted from 0 in the order they are made, and how many of its attempts the owner's writes dropped. -/
abbrev Drops := List (Nat × Nat)

/-- What a peer answered to one read: a status code (R14) and the bytes. -/
structure PeerRow where
  status : BitVec 16
  data   : List Byte
  deriving DecidableEq, Repr

/-- What the twin partner answered (R433, R435, R441, R445, R447): whether it answered, the status of the
answer, its FEED_ID, whether it names this device and is pairing or paired, whether it refuses, the place and size of the area
it hosts, the headers of the two hosted slots (4 KiB each as read), the data it sends, how many of its answers to
the packets of a commit, the invalid header first, were OK before one that was not, and the status of that one. -/
structure PartnerAns where
  answered  : Bool
  status    : BitVec 16
  feedId    : BitVec 4
  namesUs   : Bool
  refuses   : Bool
  hostBase  : Nat
  hostSize  : Nat
  hdr0      : List Byte
  hdr1      : List Byte
  data      : List Byte
  okPackets : Nat
  failure   : BitVec 16
  dirty     : BitVec 16
  deriving DecidableEq, Repr

/-- One calibration measurement (R476): the item's number in R476's order and its value. -/
structure CalMeas where
  item  : Fin 26
  value : Int
  deriving DecidableEq, Repr

/-- What one link training finds (R341, R342): lanes with signal, whether FEC locks at 224 and at 112 Gb/s, whether the
neighbour allows 224 Gb/s, the neighbour's ID and credit grant, and the round trip. -/
structure TrainRes where
  lanes       : Nat
  fast        : Bool
  lock224     : Bool
  lock112     : Bool
  neighbourId : BitVec 16
  grant       : BitVec 16
  rttNs       : BitVec 16
  deriving DecidableEq, Repr

/-- The queue a held write belongs to (R407, R408): the device's own source queue, or a peer's. -/
inductive HeldSrc where
  | own  (sq : BitVec 16)
  | peer (src sq : BitVec 16)
  deriving DecidableEq, Repr

/-- The destinations of ordering (R409). -/
inductive Dest where
  | memory
  | host (port : PciePort)
  | keep
  | device (id : BitVec 16)
  deriving DecidableEq, Repr

/-- How a step of CAL_HOT goes (R475, R480): its load begins and goes on after this step, it ends, or PWR_WARN_N is asserted during it. -/
inductive HotStep where
  | begins
  | ends
  | sag
  deriving DecidableEq, Repr

/-- What befalls a write of the image area: the block during which the flash rail falls, the block that cannot be written, whether the
read-back is uncorrectable (R473, R489). -/
structure FlashRun where
  abortAt : Option Nat
  badAt   : Option Nat
  bad     : Bool
  deriving DecidableEq, Repr

/-- A descriptor by its count, and whether its work goes on after this step. -/
structure DescPart where
  count : Word
  split : Bool
  deriving DecidableEq, Repr

/-- A write of REC_GO through a port, and what befalls the image's write (R494). -/
structure RecRun where
  port : PciePort
  fl   : FlashRun
  deriving DecidableEq, Repr

/-- The non-volatile write that a set of NV_INHIBIT finds in progress beside FW_UPDATE's (R473): none, an event-log commit that has
committed a number of its records, or the commit of the oldest pending repair record. -/
inductive NvWrite where
  | idle
  | records (done : Nat)
  | repair
  deriving DecidableEq, Repr

/-- One millisecond's mean input power in W and the input voltage in units of 10 mV (R477, R483). -/
structure InputMean where
  watts   : BitVec 16
  inputCv : BitVec 16
  deriving DecidableEq, Repr

/-- What the scrub reads (R277): the line of a flat address, or a line of a spare pseudo-channel by its place there. -/
inductive ScrubLine where
  | flat (addr : Nat)
  | spare (pc line : Nat)
  deriving DecidableEq, Repr

/-- A flit as it arrives, with the numbers of codewords that FEC corrected and could not correct on its way (R343, R377). -/
structure RxFlit where
  bytes  : List Byte
  corr   : Nat
  uncorr : Nat
  deriving DecidableEq, Repr

/-- An offset in BAR0, or in the doorbell pages of BAR2 (R381). -/
structure BarPlace where
  bar2 : Bool
  off  : Nat
  deriving DecidableEq, Repr

/-- The commands of the block, one for each row of the opcode table. -/
inductive Instr where
  /-- INSTRUCTION_ISSUE (R176): The front end issues up to four instructions per cycle in program order. Each goes into its engine queue or is executed in place, and issue stops at the first instruction that cannot issue. -/
  | instructionIssue (core : Fin 96)
  /-- INSTRUCTION_FINISH (R195): An instruction finishes. It sets its CFLAGS bits and releases its scoreboard claims. -/
  | instructionFinish (core : Fin 96) (eng : Eng)
  /-- ICACHE_FILL (R202): An instruction-cache miss fill returns through the Ingot. It fills the whole line and prefetches the next two lines. -/
  | icacheFill (core : Fin 96) (off : Nat)
  /-- CORE_FAULT_STOP (R199): After a fault, the remaining instructions finish. The core then enters STOPPED and logs an Error record. -/
  | coreFaultStop (core : Fin 96)
  /-- CORE_STOP_CANCEL (R200): After an immediate CORE_STOP, any instruction still running after 65,536 core cycles is cancelled at its next step boundary. -/
  | coreStopCancel (core : Fin 96)
  /-- SLI (R186): Loads a 32-bit immediate into a scalar or address register. -/
  | sli (core : Fin 96) (d : BitVec 6) (imm : Word)
  /-- SMOV (R186): Copies one scalar or address register to another. -/
  | smov (core : Fin 96) (d a : BitVec 6)
  /-- SADD (R186): Adds in 32 bits: scalar add. -/
  | sadd (core : Fin 96) (d a : BitVec 6) (src : Src)
  /-- SSUB (R186): Subtracts in 32 bits: scalar subtract. -/
  | ssub (core : Fin 96) (d a : BitVec 6) (src : Src)
  /-- SMUL (R186): Scalar multiply that keeps the low 32 bits. -/
  | smul (core : Fin 96) (d a : BitVec 6) (src : Src)
  /-- SAND (R186): Scalar bitwise AND. -/
  | sand (core : Fin 96) (d a : BitVec 6) (src : Src)
  /-- SOR (R186): Scalar bitwise OR. -/
  | sor (core : Fin 96) (d a : BitVec 6) (src : Src)
  /-- SXOR (R186): Scalar bitwise XOR. -/
  | sxor (core : Fin 96) (d a : BitVec 6) (src : Src)
  /-- SSHL (R186): Scalar shift left, with the count taken modulo 32. -/
  | sshl (core : Fin 96) (d a : BitVec 6) (src : Src)
  /-- SSHR (R186): Scalar logical shift right. -/
  | sshr (core : Fin 96) (d a : BitVec 6) (src : Src)
  /-- SSRA (R186): Scalar arithmetic shift right. -/
  | ssra (core : Fin 96) (d a : BitVec 6) (src : Src)
  /-- SMIN (R186): Scalar signed minimum. -/
  | smin (core : Fin 96) (d a : BitVec 6) (src : Src)
  /-- SMAX (R186): Scalar signed maximum. -/
  | smax (core : Fin 96) (d a : BitVec 6) (src : Src)
  /-- B (R186): Unconditional PC-relative branch. -/
  | b (core : Fin 96) (dist : Word)
  /-- BEQ (R186): Branches if equal. -/
  | beq (core : Fin 96) (a : BitVec 6) (b : Option (BitVec 6)) (dist : Word)
  /-- BNE (R186): Branches if not equal. -/
  | bne (core : Fin 96) (a : BitVec 6) (b : Option (BitVec 6)) (dist : Word)
  /-- BLT (R186): Branches if less than, signed. -/
  | blt (core : Fin 96) (a : BitVec 6) (b : Option (BitVec 6)) (dist : Word)
  /-- BGE (R186): Branches if greater than or equal, signed. -/
  | bge (core : Fin 96) (a : BitVec 6) (b : Option (BitVec 6)) (dist : Word)
  /-- BLTU (R186): Branches if less than, unsigned. -/
  | bltu (core : Fin 96) (a : BitVec 6) (b : Option (BitVec 6)) (dist : Word)
  /-- BGEU (R186): Branches if greater than or equal, unsigned. -/
  | bgeu (core : Fin 96) (a : BitVec 6) (b : Option (BitVec 6)) (dist : Word)
  /-- LOOP (R187): Starts a hardware loop with a trip count read at issue. -/
  | loop (core : Fin 96) (a : BitVec 6) (bi : Bool) (imm : Word)
  /-- PBLK (R188): Skips the following block of instructions when the named scalar is zero. -/
  | pblk (core : Fin 96) (a : BitVec 6) (imm : Word)
  /-- PTAG (R332): Makes a phase tag current for the phase-timing counters. -/
  | ptag (core : Fin 96) (imm : Word)
  /-- CID (R186): Writes the core's logical core ID to a register. -/
  | cid (core : Fin 96) (d : BitVec 6)
  /-- YIELD (R201): Marks a yield point. When a CODE_LOAD or an at-yield CORE_STOP is pending, it stops issue and waits for the engines to drain. -/
  | yield (core : Fin 96)
  /-- END (R189): Ends the program once every engine has finished its earlier instructions. -/
  | endProg (core : Fin 96)
  /-- DRAIN (R189): Holds issue until the engines named in EMASK have finished their earlier instructions. -/
  | drain (core : Fin 96) (emask : BitVec 6)
  /-- WAITW (R189): Holds issue until a word in the core's own local store compares to a scalar as CMP names. -/
  | waitw (core : Fin 96) (s : BitVec 5) (a : BitVec 4) (cmp : BitVec 3) (imm : BitVec 21)
  /-- FLAGR (R189): Drains every engine, then reads CFLAGS into a scalar. -/
  | flagr (core : Fin 96) (s : BitVec 5)
  /-- FLAGC (R189): Drains every engine, then clears the CFLAGS bits named by a scalar. -/
  | flagc (core : Fin 96) (s : BitVec 5)
  /-- ENGINE_DRAIN_DONE (R189): The engine drain that END, DRAIN, FLAGR, FLAGC or a pending YIELD waited for completes. The waiting instruction then takes its action: it ends the program, releases issue, reads or clears flags, or takes the pending actions. -/
  | engineDrainDone (core : Fin 96)
  /-- WAITW_RELEASE (R189): The polled local-store word satisfies the comparison, and issue resumes. -/
  | waitwRelease (core : Fin 96)
  /-- MMA (R82): Matrix multiply-accumulate into an accumulator set. It covers clear, initial value C, ramp, sparsity, skipping and the SCALE_AXIS stop. -/
  | mma (core : Fin 96)
  /-- MXR (R106): Reads accumulator rows out through the epilogue and converts them to a local-store destination. -/
  | mxr (core : Fin 96)
  /-- MXS (R110): Saves or restores an accumulator set, with its tag, in raw form. -/
  | mxs (core : Fin 96)
  /-- MXD (R216): Loads a tensor descriptor, block-mask address or metadata address into an operand slot. -/
  | mxd (core : Fin 96)
  /-- MXSET (R191): Writes MXCTL.EW for later F64X clears. -/
  | mxset (core : Fin 96)
  /-- ADD (R120): Vector element-wise add. -/
  | vAdd (core : Fin 96)
  /-- SUB (R120): Vector element-wise subtract. -/
  | vSub (core : Fin 96)
  /-- MUL (R120): Vector element-wise multiply. -/
  | vMul (core : Fin 96)
  /-- FMA (R122): Vector fused multiply-add, rounded once. -/
  | vFma (core : Fin 96)
  /-- MIN (R123): Vector element-wise minimum. -/
  | vMin (core : Fin 96)
  /-- MAX (R123): Vector element-wise maximum. -/
  | vMax (core : Fin 96)
  /-- ABS (R120): Vector absolute value. -/
  | vAbs (core : Fin 96)
  /-- NEG (R120): Vector negation. -/
  | vNeg (core : Fin 96)
  /-- SATURATING_ADD (R124): Vector integer add that saturates to the signed range. -/
  | saturatingAdd (core : Fin 96)
  /-- SATURATING_SUB (R124): Vector integer subtract that saturates to the signed range. -/
  | saturatingSub (core : Fin 96)
  /-- AND (R120): Vector bitwise AND. -/
  | vAnd (core : Fin 96)
  /-- OR (R120): Vector bitwise OR. -/
  | vOr (core : Fin 96)
  /-- XOR (R120): Vector bitwise XOR. -/
  | vXor (core : Fin 96)
  /-- SHIFTS (R124): Vector integer shift, arithmetic or logical, with the count taken modulo the element width. -/
  | shifts (core : Fin 96)
  /-- CMP (R123): Vector compare into a mask register. -/
  | vCmp (core : Fin 96)
  /-- SEL (R120): Vector select under a mask. -/
  | vSel (core : Fin 96)
  /-- BCAST (R125): Broadcasts a scalar into a vector register. -/
  | bcast (core : Fin 96)
  /-- MAND (R120): Mask AND. -/
  | mand (core : Fin 96)
  /-- MOR (R120): Mask OR. -/
  | mor (core : Fin 96)
  /-- MXOR (R120): Mask XOR. -/
  | mxor (core : Fin 96)
  /-- MNOT (R120): Mask NOT. -/
  | mnot (core : Fin 96)
  /-- MPOP (R120): Counts the set mask bits into a scalar. -/
  | mpop (core : Fin 96)
  /-- CVT (R122): Converts between register formats with RM, SAT and a seed. -/
  | cvt (core : Fin 96)
  /-- ROTB (R130): Byte-lane rotate across two vector registers. -/
  | rotb (core : Fin 96)
  /-- PERM (R120): Vector lane permute. -/
  | perm (core : Fin 96)
  /-- RED (R135): Reduces a register to a scalar along a fixed pairwise tree. -/
  | red (core : Fin 96)
  /-- SCAN (R137): Segmented inclusive or exclusive scan with a carry. -/
  | scan (core : Fin 96)
  /-- SCAN_LR (R137): Segmented linear-recurrence scan. -/
  | scanLr (core : Fin 96)
  /-- TOPK (R300): Selects the K largest scores per segment into value and index registers. -/
  | topk (core : Fin 96)
  /-- LD (R127): Loads a vector register from the core's local store. -/
  | ld (core : Fin 96)
  /-- ST (R129): Stores a vector register to the local store and updates the finiteness bits. -/
  | st (core : Fin 96)
  /-- LDQ (R131): Quantising load that decodes MX or narrow formats into a register. -/
  | ldq (core : Fin 96)
  /-- STQ (R132): Quantising store of ordinary MX or narrow formats. -/
  | stq (core : Fin 96)
  /-- STQS (R133): Quantising store of square-block MX tiles. -/
  | stqs (core : Fin 96)
  /-- GATH (R140): Indexed gather under the index policy. -/
  | gath (core : Fin 96)
  /-- SCAT (R144): Indexed scatter; the highest lane wins. -/
  | scat (core : Fin 96)
  /-- SCADD (R145): Indexed scatter-add, in deterministic or free order. -/
  | scadd (core : Fin 96)
  /-- XACC (R148): Combines arrays of exact accumulators. -/
  | xacc (core : Fin 96)
  /-- SFN (R153): Evaluates a special function by function code. -/
  | sfn (core : Fin 96)
  /-- GACT (R165): Fused gate × activation pass. -/
  | gact (core : Fin 96)
  /-- SFMP (R167): Runs a micro-program on each active element. -/
  | sfmp (core : Fin 96)
  /-- SFTL (R162): Loads a table image into a slot's staged bank. -/
  | sftl (core : Fin 96)
  /-- SFML (R162): Loads a micro-program image into a staged bank. -/
  | sfml (core : Fin 96)
  /-- SFTB (R162): Copies the built-in images into the staged banks of the named slots. -/
  | sftb (core : Fin 96)
  /-- SFTS (R163): Requests the exchange of live and staged banks for the named slots. -/
  | sfts (core : Fin 96)
  /-- SFMODE (R168): Requests native or Pewter evaluation mode. -/
  | sfmode (core : Fin 96)
  /-- STAGED_BANK_WRITTEN (R162): A staging instruction's image lands in the staged bank after its fixed delay. -/
  | stagedBankWritten (core : Fin 96)
  /-- SFU_SWAP (R163): After its waits and hold, an SFTS exchanges the live and staged banks. Empty staged banks set SFU_STAGE_EMPTY. -/
  | sfuSwap (core : Fin 96)
  /-- PEWTER_CHANGE (R168): After the same waits as SFTS, the PEWTER bit takes its new value. -/
  | pewterChange (core : Fin 96)
  /-- RSQ (R171): Accumulates squares and sums of row blocks into row accumulators. -/
  | rsq (core : Fin 96)
  /-- RSF (R172): Produces row statistics from the accumulators, and clears the rows if asked. -/
  | rsf (core : Fin 96)
  /-- RSX (R174): Exports rows as 32 B partial records. -/
  | rsx (core : Fin 96)
  /-- RSM (R175): Starts merging partial records into rows. -/
  | rsm (core : Fin 96)
  /-- RSM_MERGE (R175): Merges partial records once their VALID bytes are found set. In deterministic mode it waits for every record. -/
  | rsmMerge (core : Fin 96)
  /-- DMV (R194): Starts a run of data-mover transfer descriptors on a source queue. -/
  | dmv (core : Fin 96)
  /-- TRANSFER_COMPLETE (R259): A DMV transfer finishes or stops, and writes its completion word when NOTIFY is set. -/
  | transferComplete (core : Fin 96) (q : Fin 4) (drops : Drops)
  /-- COLLISION_REISSUE (R254): A dropped shared-port write is reissued 8 core cycles later. After the ninth drop it is abandoned by source. -/
  | collisionReissue (dropped : Bool)
  /-- SQ_TAIL (R390): A doorbell write of the submission tail is checked and accepted, or refused with DB_OVERRUN. -/
  | sqTail (port : PciePort) (ring : Fin 64) (value : Word)
  /-- CQ_HEAD (R390): A doorbell write of the completion head is checked and accepted, or refused with DB_OVERRUN. -/
  | cqHead (port : PciePort) (ring : Fin 64) (value : Word)
  /-- DESCRIPTOR_FETCH (R391): The device reads eligible submission slots and starts descriptors in count order and by priority. -/
  | descriptorFetch (ring : Fin 64) (bytes : List Byte)
  /-- DESC_READ_FAIL (R394): A descriptor read is answered with an error or poisoned data. The ring halts with no record posted. -/
  | descReadFail (ring : Fin 64) (resp : HostResp)
  /-- DESCRIPTOR_FINISH (R426): A started descriptor finishes with its status. A halting status halts the ring, and later descriptors report ABORTED_AFTER_ERROR. -/
  | descriptorFinish (ring : Fin 64) (count : Word)
  /-- COMPLETION_POST (R403): A completion record is posted in count order, and the MSI-X vector is raised where due. -/
  | completionPost (ring : Fin 64)
  /-- IRQ_HOLDOFF_END (R405): A ring's interrupt holdoff expires, and the merged causes are sent as one message. -/
  | irqHoldoffEnd (ring : Fin 64)
  /-- ENABLE (R393): A write of 1 to a ring's ENABLE puts a DISABLED ring in RUNNING with its counts cleared, or is held. -/
  | enable (port : PciePort) (ring : Fin 64)
  /-- ENABLE_CLEAR (R393): A write of 0 to ENABLE moves the ring to DRAINING or DISABLED and withdraws any held enable. -/
  | enableClear (port : PciePort) (ring : Fin 64)
  /-- RING_DRAINED (R393): A DRAINING ring reaches P equal to S and enters DISABLED. -/
  | ringDrained (ring : Fin 64)
  /-- HELD_ENABLE_APPLIED (R384): A held enable takes effect once the earlier descriptors have ended. The ring enters RUNNING with its counts at 0. -/
  | heldEnableApplied (ring : Fin 64)
  /-- RESUME (R429): A write of 1 to RESUME on a HALTED ring, held until P equals S. -/
  | resume (port : PciePort) (ring : Fin 64)
  /-- RESUME_APPLIED (R429): A held RESUME takes effect once every started descriptor has posted its record. The ring returns to RUNNING. -/
  | resumeApplied (ring : Fin 64)
  /-- NOP (R399): Completes OK at once. -/
  | nop (ring : Fin 64) (count : Word)
  /-- FENCE (R418): Starts a fence that holds later descriptors of its ring. -/
  | fence (ring : Fin 64) (count : Word)
  /-- FENCE_RELEASE (R418): The descriptors a FENCE waits for have finished. Any cross-port flush is done and the FENCE finishes. -/
  | fenceRelease (ring : Fin 64) (count : Word)
  /-- CROSS_PORT_FLUSH (R420): A zero-length read on the other port completes before the record is posted. -/
  | crossPortFlush (ring : Fin 64) (count : Word) (port : PciePort) (resp : HostResp)
  /-- COPY (R400): Copies bytes between flat addresses in 8 KiB pieces. -/
  | copy (ring : Fin 64) (count : Word) (drops : Drops)
  /-- APO_TRANSLATE (R207): The loader translates an APO into SNC. -/
  | apoTranslate (ring : Fin 64) (count : Word) (drops : Drops)
  /-- CODE_LOAD (R203): Sets the code region of a core range at each core's next yield point, or at once. -/
  | codeLoad (ring : Fin 64) (count : Word)
  /-- CORE_RUN (R198): Starts a core range at an entry offset and completes when every core has ended or stopped. -/
  | coreRun (ring : Fin 64) (count : Word)
  /-- CORE_STOP (R200): Stops a core range immediately or at its next yield. -/
  | coreStop (ring : Fin 64) (count : Word)
  /-- STEP_REPORT (R335): Snapshots the phase tags of a core range into a report, and clears them unless KEEP is set. -/
  | stepReport (ring : Fin 64) (count : Word) (drops : Drops)
  /-- LAYOUT_COPY (R228): Converts a tensor from one layout into another, piece by piece. -/
  | layoutCopy (ring : Fin 64) (count : Word) (drops : Drops)
  /-- DISPATCH (R305): Sends token rows to expert buffers and writes POS entries and count words. -/
  | dispatch (ring : Fin 64) (count : Word) (drops : Drops)
  /-- COMBINE (R314): Forms each token's output as the weighted sum of its kept expert outputs. -/
  | combine (ring : Fin 64) (count : Word) (rows : List PeerRow) (drops : Drops)
  /-- PHASE_MAP (R319): Loads a device-ID table into a CXE mapping slot. -/
  | phaseMap (ring : Fin 64) (count : Word)
  /-- KEEP_READ (R280): Moves keep-tier blocks to a flat address range. -/
  | keepRead (ring : Fin 64) (count : Word) (drops : Drops)
  /-- KEEP_WRITE (R280): Commits blocks from a flat range to the keep tier. -/
  | keepWrite (ring : Fin 64) (count : Word) (abortAt : Option Nat)
  /-- PC_RETIRE (R297): Retires a named physical pseudo-channel and starts its rebuild. -/
  | pcRetire (ring : Fin 64) (count : Word)
  /-- LINK_WRITE (R365): Writes local data to a peer in 8 KiB packets. -/
  | linkWrite (ring : Fin 64) (count : Word) (drops : Drops)
  /-- LINK_READ (R365): Reads peer data into a local address. -/
  | linkRead (ring : Fin 64) (count : Word) (drops : Drops)
  /-- COLLECTIVE (R368): Starts a collective over the devices of a mapping's axes. -/
  | collective (ring : Fin 64) (count : Word) (drops : Drops)
  /-- TWIN_PAIR (R433): Pairs the device with a partner that hosts its twin area. -/
  | twinPair (ring : Fin 64) (count : Word)
  /-- TWIN_UNPAIR (R436): Ends the pairing. -/
  | twinUnpair (ring : Fin 64) (count : Word)
  /-- TWIN_REG (R437): Registers the near-tier ranges that make up the training state. -/
  | twinReg (ring : Fin 64) (count : Word)
  /-- TWIN_COMMIT (R441): Copies the registered ranges into the partner's older slot as a new generation. -/
  | twinCommit (ring : Fin 64) (count : Word) (ans : PartnerAns)
  /-- TWIN_FILL (R445): Fills the registered ranges from a generation hosted by the partner. -/
  | twinFill (ring : Fin 64) (count : Word) (ans : PartnerAns)
  /-- TWIN_VERIFY (R447): Hashes the registered ranges and compares them with a generation or snapshot record. -/
  | twinVerify (ring : Fin 64) (count : Word) (ans : PartnerAns)
  /-- SNAP_WRITE (R449): Writes the registered ranges into a keep-tier snapshot slot. -/
  | snapWrite (ring : Fin 64) (count : Word) (abortAt : Option Nat)
  /-- SNAP_READ (R450): Restores the registered ranges from a snapshot slot. -/
  | snapRead (ring : Fin 64) (count : Word)
  /-- CAL_WINDOW (R482): Re-trims the due calibration items within a granted window. -/
  | calWindow (ring : Fin 64) (count : Word) (meas : List CalMeas) (abortAt : Option Nat)
  /-- CAL_HOT (R480): Measures a hot calibration set under a built-in load. -/
  | calHot (ring : Fin 64) (count : Word) (meas hot : List CalMeas) (load : BitVec 8) (step : HotStep)
  /-- FW_UPDATE (R489): Checks a new firmware image and writes it in place. -/
  | fwUpdate (ring : Fin 64) (count : Word) (fl : FlashRun) (upto : Option Nat)
  /-- FW_ACTIVATE (R491): Activates the named components of the stored image. -/
  | fwActivate (ring : Fin 64) (part : DescPart)
  /-- CORE_SPARE (R495): Replaces a logical core by a spare of its die. -/
  | coreSpare (ring : Fin 64) (count : Word)
  /-- SVN_COMMIT (R497): Raises the anti-rollback fuse counter to the running SVN. -/
  | svnCommit (ring : Fin 64) (count : Word)
  /-- KEY_ADMIN (R499): Programs an owner key slot, or revokes an owner or vendor key slot. -/
  | keyAdmin (ring : Fin 64) (count : Word)
  /-- ATTEST (R500): Writes a signed attestation report and the identity certificate. -/
  | attest (ring : Fin 64) (count : Word) (drops : Drops)
  /-- UNKNOWN_OPCODE (R398): A descriptor with an unknown opcode completes BAD_OPCODE without side effects. -/
  | unknownOpcode (ring : Fin 64) (count : Word)
  /-- BAR4_READ (R382): A host read through the BAR4 window into device space. -/
  | bar4Read (port : PciePort) (off len : Nat)
  /-- BAR4_WRITE (R382): A host write through the BAR4 window into device space. -/
  | bar4Write (port : PciePort) (off : Nat) (bytes : List Byte)
  /-- REGISTER_WRITE (R10): A BAR0 write to a field with no behaviour of its own. It stores RW fields and clears W1C bits. -/
  | registerWrite (port : PciePort) (off size value : Nat)
  /-- PERST_ASSERTION (R384): Assertion of PERST_A_N or PERST_B_N resets that port alone and disables its rings. -/
  | perstAssertion (port : PciePort)
  /-- PERST_DEASSERTION (R470): Deassertion of a port's PERST starts PCIe link training on that port. -/
  | perstDeassertion (port : PciePort) (speed : BitVec 3) (width : BitVec 4)
  /-- D3HOT_ENTRY (R385): The host places a port in D3hot. The port's rings and host-window traffic are held. -/
  | d3hotEntry (port : PciePort)
  /-- D0_RETURN (R385): A port returns to D0. Held writes, then held records and messages, are issued, and the rings resume. -/
  | d0Return (port : PciePort)
  /-- PWR_REQ_RETAIN (R468): A write of 2 to PWR_REQ requests Retain. -/
  | pwrReqRetain (port : PciePort)
  /-- PWR_REQ_SLEEP (R469): A write of 3 to PWR_REQ starts Sleep entry. -/
  | pwrReqSleep (port : PciePort)
  /-- PWR_REQ_RUN (R468): A write of 0 to PWR_REQ wakes the device from Retain. -/
  | pwrReqRun (port : PciePort)
  /-- RETAIN_ENTRY (R468): Once rings and cores are quiet, the device enters Retain. -/
  | retainEntry
  /-- SLEEP_DRAIN_END (R469): The Sleep drain ends. Running descriptors are abandoned, cores are stopped, the recorder is flushed and the rails are removed. -/
  | sleepDrainEnd
  /-- KZ_WAKE_N (R470): KZ_WAKE_N held low for 10 µs in Sleep starts the wake sequence. -/
  | kzWakeN
  /-- POWER_UP (R523): P54V enters its rated range with P3V3_AUX present, and power-up starts. -/
  | powerUp
  /-- P3V3_AUX_LOSS (R523): P3V3_AUX is lost in Run or Retain, and the sideband stops answering. -/
  | p3v3AuxLoss
  /-- OVERVOLTAGE (R521): P54V stays above 60.0 V for 10 µs, and every rail except the wake domain is removed. -/
  | overvoltage
  /-- REF_SEL_WRITE (R458): A write of REF_SEL switches to the other present reference, and the link ports are lost. -/
  | refSelWrite (port : PciePort) (sel : PciePort)
  /-- REFERENCE_LOSS (R459): The selected reference becomes absent. The loops coast at 400 MHz, and CLK_COAST and COASTING are set. -/
  | referenceLoss
  /-- REFERENCE_RELOCK (R460): The reference has been present for 1 ms. The loops relock and COASTING clears. -/
  | referenceRelock
  /-- MULTIPLE_UPDATE (R462): Every 250 ns, each die's effective multiple is worked out again and stepped under R463. -/
  | multipleUpdate
  /-- DIE_POWER_MEASURE (R464): Every 10 µs, die power is measured against DIE_PWR_CAP and pcap_limit is adjusted. -/
  | diePowerMeasure (die : Fin 4) (watts : BitVec 16) (below : Bool)
  /-- THERMAL_STEP (R465): A junction-temperature interval expires, and therm_limit falls or rises by one step. -/
  | thermalStep (die : Fin 4) (celsius : BitVec 8)
  /-- PWR_WARN_N_ASSERT (R472): Assertion of PWR_WARN_N clamps the core islands, sets SAG_SEEN and starts a flush. -/
  | pwrWarnNAssert (inputCv : BitVec 16)
  /-- PWR_WARN_N_RELEASE (R472): Release of PWR_WARN_N lifts the clamp and raises a device event. -/
  | pwrWarnNRelease
  /-- NV_INHIBIT_SET (R473): The flash-rail voltage falls below 44.0 V. Non-volatile writes are refused or aborted. -/
  | nvInhibitSet (writing : NvWrite)
  /-- NV_INHIBIT_CLEAR (R473): The flash-rail voltage rises above 45.0 V. Pending records and repairs are then committed. -/
  | nvInhibitClear
  /-- RAIL_REMOVAL (R474): The input falls below 42.0 V, and every rail is removed as a loss of power. -/
  | railRemoval
  /-- THERMAL_TRIP (R524): A sensor reaches its trip threshold. THERM_TRIP_N is asserted, a Fatal record is flushed and the rails are removed after 1 ms. -/
  | thermalTrip (sensor celsius : BitVec 8)
  /-- GUARDBAND_UPDATE (R477): Every 1 ms, the droop guardbands are updated from LOAD_NOW. -/
  | guardbandUpdate (input : InputMean)
  /-- RETRIM_DUE_CHECK (R481): A calibration item falls due by period or temperature, or becomes overdue, and is counted or logged. -/
  | retrimDueCheck (item : Fin 26) (periods : Nat) (moved : Bool)
  /-- HOLDBACK_RELEASE (R244): A held write passes its checks and is released in source-queue order to its destination. -/
  | holdbackRelease (src : HeldSrc) (dest : Dest) (dropped : Bool)
  /-- BGT_INGOT_REGION (R263): The background test period expires, and an Ingot slice saves, tests and restores one 4 KiB region. -/
  | bgtIngotRegion (slice : Fin 4) (fails : List Nat)
  /-- BGT_LS_REGION (R265): The background test period expires, and an idle core's local store tests one region. -/
  | bgtLsRegion (core : Fin 96) (region : Nat) (fails : List Nat)
  /-- LS_RETENTION_ENTRY (R262): An idle core with its LS_RET bit set has been quiet for 1 µs, and its local store enters retention. -/
  | lsRetentionEntry (core : Fin 96)
  /-- SCRUB_READ (R277): The scrub interval expires, and a tier controller reads and corrects or poisons one line. -/
  | scrubRead (line : ScrubLine)
  /-- PC_FAILED (R285): A near-tier pseudo-channel reaches a failure limit and is declared failed. A spare is assigned, or the top of the near tier is unmapped. -/
  | pcFailed (pc : Nat) (cause : BitVec 8)
  /-- REBUILD_SWEEP (R290): The background sweep rebuilds the next line of an assigned spare, and the next queued sweep starts at the end. -/
  | rebuildSweep (twin : PeerRow)
  /-- FAR_FAIL (R286): A far-tier package meets the failure conditions and is declared failed. -/
  | farFail (pkg : Fin 20)
  /-- REPAIR_RECORD_COMMIT (R296): A pending repair record is committed to the firmware store. -/
  | repairRecordCommit
  /-- LINK_TRAINING (R341): Signal is detected on a port's four lanes. The port trains and comes up, or stays down. -/
  | linkTraining (link : Fin 18) (res : TrainRes)
  /-- TRAINING_RETRY (R341): 100 ms after failed training, the port starts training again. -/
  | trainingRetry (link : Fin 18)
  /-- AUTO_RETRAIN (R376): With AUTO_RETRAIN set, a lost port starts training 1 ms after the loss, and every 100 ms after that. -/
  | autoRetrain (link : Fin 18)
  /-- FLIT_RECEIVE (R350): A received flit is checked by CRC. It updates STOP, credits and ACK or NACK, and is accepted in sequence, put in the skid reserve or dropped. -/
  | flitReceive (link : Fin 18) (flit : RxFlit)
  /-- FLIT_SEND (R343): The port sends its next flit: a new or resent DATA flit, or an IDLE flit. -/
  | flitSend (link : Fin 18)
  /-- REPLAY_TIMER (R351): The replay timer expires, and the sender resends from the oldest unacknowledged flit. -/
  | replayTimer (link : Fin 18)
  /-- LINK_LOSS (R374): A port is declared lost. Its replay and partial packets are discarded, and outstanding packets fail. -/
  | linkLoss (link : Fin 18) (cause : BitVec 8)
  /-- RETRAIN (R377): A write of 1 to RETRAIN declares the port lost with cause 5. -/
  | retrain (port : PciePort) (link : Fin 18)
  /-- PORT_EN (R374): A write of PORT_EN enables a port, or clears it and declares the port lost with cause 4. -/
  | portEn (port : PciePort) (link : Fin 18) (on : Bool)
  /-- WRITE (R358): A released WRITE packet is applied at its address and answered with WRITE_ACK. -/
  | pktWrite (drops : Drops)
  /-- WRITE_ACK (R366): A WRITE_ACK reports its status to the sending packet's descriptor. -/
  | pktWriteAck
  /-- READ_REQ (R357): A READ_REQ packet is served and answered with one READ_RESP. -/
  | pktReadReq
  /-- READ_RESP (R366): A READ_RESP delivers data and status to its request. -/
  | pktReadResp (drops : Drops)
  /-- COLL (R369): A COLL packet brings collective data, which is combined or placed. -/
  | pktColl (drops : Drops)
  /-- READY (R371): A READY notice shows that a participant has started a collective, or is held for one not yet started. -/
  | pktReady
  /-- PACKET_FORWARD (R362): A transit packet is forwarded by table or source route, or dropped and answered. -/
  | packetForward
  /-- ACK_TIMEOUT (R366): A packet has no answer within ACK_TIMEOUT_US and fails with LINK_LOST. -/
  | ackTimeout (tag : Word)
  /-- READY_RESEND (R371): An unanswered READY notice is resent every 10 µs. -/
  | readyResend (collId : Word)
  /-- COLL_TIMEOUT (R372): A collective is not complete within COLL_TIMEOUT_MS and completes LINK_LOST. -/
  | collTimeout (collId : Word)
  /-- HEARTBEAT (R435): Every HEARTBEAT_MS the twin engine reads the partner's status block. It pairs, counts a miss or declares the partner lost. -/
  | heartbeat (ans : PartnerAns)
  /-- PAIRING_TIMEOUT (R433): Pairing has not succeeded within 10 s, and TWIN_PAIR completes unpaired. -/
  | pairingTimeout (ans : PartnerAns)
  /-- RECORD_COMMIT (R506): The Bronze core commits an uncommitted record to the event log within 10 ms of acceptance. -/
  | recordCommit
  /-- EVT_HOLDOFF_END (R514): The device-event holdoff expires, and the merged causes are sent. -/
  | evtHoldoffEnd
  /-- OP_TIME_SAVE (R504): Every 60 s, POWER_CYCLES and OP_TIME_MS are saved to the firmware store. -/
  | opTimeSave
  /-- HOST_CURSOR (R509): A write of HOST_CURSOR clears WIN_READY and loads the host window. -/
  | hostCursor (port : PciePort) (value : Word)
  /-- WIN_READY (R509): A window load completes and its ready bit is set. -/
  | winReady (sideband : Bool)
  /-- OFFSET (R528): Sideband command that sets the BAR0 offset for READ. -/
  | sbOffset (value : Word) (pec : Bool)
  /-- READ (R528): Sideband command that returns 32 B of BAR0 and advances the offset. -/
  | sbRead
  /-- CURSOR (R528): Sideband command that writes SB_CURSOR and loads the sideband window. -/
  | sbCursor (value : Word) (pec : Bool)
  /-- ALERT_RESPONSE_ADDRESS (R529): A sideband Alert Response Address read, which the device answers with its address, releasing SMB_ALERT_N. -/
  | alertResponseAddress
  /-- REC_GO (R494): A write of 1 to REC_GO checks and writes the recovery image, then restarts boot. -/
  | recGo (run : RecRun)
  /-- RECOVER_NEXT (R488): A write of RECOVER_NEXT, committed to the firmware store. -/
  | recoverNext (port : PciePort) (on : Bool)
  /-- REFERENCE_ARRIVAL (R455): A reference clock becomes present at power-up or Sleep exit. The sequencer selects it, the loops lock and boot continues. -/
  | referenceArrival (ref : PciePort)
  /-- OTHER_REFERENCE_LOSS (R456): The reference that is not selected becomes absent. Its REF_x_OK clears and its PCIe port's SerDes loses its reference. -/
  | otherReferenceLoss
  /-- PCIE_LINK_DOWN (R383): A PCIe port's link goes down without PERST. Host-window reads and writes on that port then report ACCESS_OUT_OF_MAP, and flush bookkeeping restarts when the link comes up. -/
  | pcieLinkDown (port : PciePort)
  /-- CORE_CLOCK_GATED (R467): 64 cycles after a core becomes IDLE or STOPPED with empty queues and no transfer running, its front end and engines are clock gated. -/
  | coreClockGated (core : Fin 96)
  /-- FILL_SERVE (R445): A partner's request to send a hosted slot arrives, and this device sends the slot's data in 8 KiB WRITE packets from source queue 0x0310. -/
  | fillServe (genSel : Bool)
  /-- LOW_WORD_READ (R534): A 4 B BAR0 read of the low word of a 64-bit RO field latches the high word for the reading port, and any other BAR0 access by that port drops the latch. -/
  | lowWordRead (port : PciePort) (place : BarPlace) (size : Nat)
  /-- P3V3_AUX_RESTORE (R527): P3V3_AUX returns. The wake detector, pull-ups and sideband are powered again, and the sideband answers its address. -/
  | p3v3AuxRestore
  /-- MSIX_UNMASK (R404): The host unmasks an MSI-X vector, or enables MSI-X, while the vector's pending bit is set, and the pending message is sent. -/
  | msixUnmask (port : PciePort) (vector : Option (Fin 64))
  deriving DecidableEq, Repr

end Sys2Proof
end

