-- ==== Sys2Proof/Decode.lean ====
section
/-! DEFINITION. Commands spelled by words. The opcode table gives no row any bits, so no word spells a command; the words the
spec itself decodes are the cores' instructions (R183 to R194), which Machine/Snc.lean reads. -/
namespace Sys2Proof

/-- The command that a word of `nbits` bits spells by the opcode table: none, since no row of the table has bits. -/
def decodeTableWord (_nbits _w : Nat) : Option Instr := none

end Sys2Proof
end

