-- ==== Sys2Proof/Machine/Tab.lean ====
section
/-! DEFINITION. Reading and writing the sparse tables, and little-endian byte strings (R7). -/
namespace Sys2Proof

/-- The entry numbered `k`, or the default `d` where none is listed. It looks at the whole table, so that what it reads after a
write needs no premise on the table's order. -/
def Tab.get {α : Type} (t : Tab α) (k : Nat) (d : α) : α :=
  match t with
  | [] => d
  | (j, v) :: r => if j = k then v else Tab.get r k d

/-- Takes the entry numbered `k` out of the table. -/
def Tab.erase {α : Type} (t : Tab α) (k : Nat) : Tab α :=
  match t with
  | [] => []
  | (j, v) :: r => if j = k then Tab.erase r k else (j, v) :: Tab.erase r k

/-- Lists `v` under the number `k`, in place of what stood there. -/
def Tab.put {α : Type} (t : Tab α) (k : Nat) (v : α) : Tab α :=
  match t with
  | [] => [(k, v)]
  | (j, w) :: r => if j = k then (k, v) :: r else if k < j then (k, v) :: (j, w) :: r else (j, w) :: Tab.put r k v

/-- Writes `v` under the number `k`; writing the default takes the entry out, so that equal tables are equal lists. -/
def Tab.set {α : Type} [DecidableEq α] (t : Tab α) (k : Nat) (v d : α) : Tab α :=
  if v = d then Tab.erase t k else Tab.put t k v

/-- The canonical form: numbers strictly rising from `lo` on, and no entry equal to the default. -/
def Tab.wfFrom {α : Type} [DecidableEq α] (t : Tab α) (lo : Nat) (d : α) : Bool :=
  match t with
  | [] => true
  | (k, v) :: r => decide (lo ≤ k) && decide (v ≠ d) && Tab.wfFrom r (k + 1) d

/-- The canonical form of a table with default `d`. -/
def Tab.wf {α : Type} [DecidableEq α] (t : Tab α) (d : α) : Bool := Tab.wfFrom t 0 d

/-- Writes `f i` under `base + i` for every `i < n`. -/
def Tab.fill {α : Type} [DecidableEq α] (t : Tab α) (base n : Nat) (f : Nat → α) (d : α) : Tab α :=
  (List.range n).foldl (fun u i => Tab.set u (base + i) (f i) d) t

/-- A set of numbers, rising. -/
abbrev NatSet := List Nat

/-- Adds a number to a rising list of numbers. -/
def NatSet.ins (t : NatSet) (k : Nat) : NatSet :=
  match t with
  | [] => [k]
  | j :: r => if j = k then j :: r else if k < j then k :: j :: r else j :: NatSet.ins r k

/-- Takes a number out of a list of numbers. -/
def NatSet.del (t : NatSet) (k : Nat) : NatSet := t.filter (fun j => j ≠ k)

/-- `n` bytes of `v`, the low byte first (R7). -/
def leBytes (n v : Nat) : List Byte := (List.range n).map (fun i => BitVec.ofNat 8 (v >>> (8 * i)))

/-- The number a little-endian byte string spells (R7). -/
def leNat (bs : List Byte) : Nat :=
  match bs with
  | [] => 0
  | b :: r => b.toNat + 256 * leNat r

/-- The little-endian field of `n` bytes at byte offset `off` of a structure; bytes beyond its end read 0. -/
def field (bs : List Byte) (off n : Nat) : Nat := leNat ((bs.drop off).take n)

/-- Bits [hi:lo] of a number, with `hi = lo + w - 1`. -/
def bits (v lo w : Nat) : Nat := v / 2 ^ lo % 2 ^ w

/-- One bit of a number. -/
def bit (v i : Nat) : Bool := v.testBit i

/-- 1 for true, 0 for false. -/
def b2n (b : Bool) : Nat := if b then 1 else 0

/-- A quotient rounded up. -/
def ceilDiv (a b : Nat) : Nat := (a + b - 1) / b

/-- The signed value of a number of `w` bits. -/
def signed (w v : Nat) : Int := (BitVec.ofNat w v).toInt

/-- A sum that stops at the largest value of `w` bits ("saturating"). -/
def satAdd (w a b : Nat) : Nat := min (a + b) (2 ^ w - 1)

/-- Cuts a byte string into pieces of `n` bytes, the last one shorter; `fuel` bounds the pieces. -/
def chunks (n : Nat) (bs : List Byte) (fuel : Nat) : List (List Byte) :=
  match fuel with
  | 0 => []
  | f + 1 => if bs.isEmpty then [] else bs.take n :: chunks n (bs.drop n) f

end Sys2Proof
end

