-- ==== Sys2Proof/Machine/Crypto.lean ====
section
/-! DEFINITION. SHA-256, the CRC-32 of R344, and the check of ECDSA P-256 signatures (R440, R485, R487, R499, R500). The spec names
SHA-256 and P-256; their constants are those of the published standards, PRESUMED (log 22). -/
namespace Sys2Proof.Machine
open Sys2Proof

/-! ### SHA-256 -/

/-- The first 32 round constants. -/
def shaK0 : List Word :=
  [0x428A2F98, 0x71374491, 0xB5C0FBCF, 0xE9B5DBA5, 0x3956C25B, 0x59F111F1, 0x923F82A4, 0xAB1C5ED5,
   0xD807AA98, 0x12835B01, 0x243185BE, 0x550C7DC3, 0x72BE5D74, 0x80DEB1FE, 0x9BDC06A7, 0xC19BF174,
   0xE49B69C1, 0xEFBE4786, 0x0FC19DC6, 0x240CA1CC, 0x2DE92C6F, 0x4A7484AA, 0x5CB0A9DC, 0x76F988DA,
   0x983E5152, 0xA831C66D, 0xB00327C8, 0xBF597FC7, 0xC6E00BF3, 0xD5A79147, 0x06CA6351, 0x14292967]

/-- The last 32 round constants. -/
def shaK1 : List Word :=
  [0x27B70A85, 0x2E1B2138, 0x4D2C6DFC, 0x53380D13, 0x650A7354, 0x766A0ABB, 0x81C2C92E, 0x92722C85,
   0xA2BFE8A1, 0xA81A664B, 0xC24B8B70, 0xC76C51A3, 0xD192E819, 0xD6990624, 0xF40E3585, 0x106AA070,
   0x19A4C116, 0x1E376C08, 0x2748774C, 0x34B0BCB5, 0x391C0CB3, 0x4ED8AA4A, 0x5B9CCA4F, 0x682E6FF3,
   0x748F82EE, 0x78A5636F, 0x84C87814, 0x8CC70208, 0x90BEFFFA, 0xA4506CEB, 0xBEF9A3F7, 0xC67178F2]

/-- The initial hash value. -/
def shaH0 : List Word :=
  [0x6A09E667, 0xBB67AE85, 0x3C6EF372, 0xA54FF53A, 0x510E527F, 0x9B05688C, 0x1F83D9AB, 0x5BE0CD19]

/-- Rotation to the right. -/
def rotr (x : Word) (n : Nat) : Word := (x >>> n) ||| (x <<< (32 - n))

/-- A big-endian number. -/
def beNat (bs : List Byte) : Nat := bs.foldl (fun a b => a * 256 + b.toNat) 0

/-- `n` bytes, the high byte first. -/
def beBytes (n v : Nat) : List Byte := (leBytes n v).reverse

/-- Message words: the newest sixteen, newest first; each round takes the oldest and makes the next. -/
def shaRounds (ks : List Word) (w : List Word) (h : Word × Word × Word × Word × Word × Word × Word × Word) :
    Word × Word × Word × Word × Word × Word × Word × Word :=
  match ks with
  | [] => h
  | k :: rest =>
    let (a, b, c, d, e, f, g, i) := h
    let wt := w.getD 15 0
    let s0 := rotr (w.getD 14 0) 7 ^^^ rotr (w.getD 14 0) 18 ^^^ (w.getD 14 0 >>> 3)
    let s1 := rotr (w.getD 1 0) 17 ^^^ rotr (w.getD 1 0) 19 ^^^ (w.getD 1 0 >>> 10)
    let next := wt + s0 + w.getD 6 0 + s1
    let t1 := i + (rotr e 6 ^^^ rotr e 11 ^^^ rotr e 25) + ((e &&& f) ^^^ (~~~e &&& g)) + k + wt
    let t2 := (rotr a 2 ^^^ rotr a 13 ^^^ rotr a 22) + ((a &&& b) ^^^ (a &&& c) ^^^ (b &&& c))
    shaRounds rest (next :: w.take 15) (t1 + t2, a, b, c, d + t1, e, f, g)

/-- One 64 B block. -/
def shaBlock (h : List Word) (bs : List Byte) : List Word :=
  let w := ((List.range 16).map (fun i => BitVec.ofNat 32 (beNat ((bs.drop (4 * i)).take 4)))).reverse
  let g (i : Nat) : Word := h.getD i 0
  let r := shaRounds (shaK0 ++ shaK1) w (g 0, g 1, g 2, g 3, g 4, g 5, g 6, g 7)
  let (a, b, c, d, e, f, x, y) := r
  [g 0 + a, g 1 + b, g 2 + c, g 3 + d, g 4 + e, g 5 + f, g 6 + x, g 7 + y]

/-- The padded message. -/
def shaPad (bs : List Byte) : List Byte :=
  let n := bs.length
  bs ++ [0x80] ++ List.replicate ((119 - n % 64) % 64) 0 ++ beBytes 8 (8 * n)

/-- SHA-256. -/
def sha256 (bs : List Byte) : List Byte :=
  let p := shaPad bs
  ((chunks 64 p (p.length / 64 + 1)).foldl shaBlock shaH0).flatMap (fun w => beBytes 4 w.toNat)

/-! ### CRC-32 (R344) -/

/-- Eight bits of the reflected CRC. -/
def crcBits (c : Word) (n : Nat) : Word :=
  match n with
  | 0 => c
  | k + 1 => crcBits (if c.getLsbD 0 then (c >>> 1) ^^^ 0xEDB88320 else c >>> 1) k

/-- CRC-32 of a byte string: polynomial 0x04C1_1DB7 reflected, initial value and final XOR 0xFFFF_FFFF (R344). -/
def crc32 (bs : List Byte) : Word :=
  bs.foldl (fun c b => crcBits (c ^^^ BitVec.ofNat 32 b.toNat) 8) 0xFFFFFFFF ^^^ 0xFFFFFFFF

/-! ### ECDSA P-256 -/

/-- The field's prime. -/
def p256P : Nat := 0xFFFFFFFF00000001000000000000000000000000FFFFFFFFFFFFFFFFFFFFFFFF
/-- The group's order. -/
def p256N : Nat := 0xFFFFFFFF00000000FFFFFFFFFFFFFFFFBCE6FAADA7179E84F3B9CAC2FC632551
/-- The curve's coefficient b. -/
def p256B : Nat := 0x5AC635D8AA3A93E7B3EBBD55769886BC651D06B0CC53B0F63BCE3C3E27D2604B
/-- The base point. -/
def p256G : Nat × Nat :=
  (0x6B17D1F2E12C4247F8BCE6E563A440F277037D812DEB33A0F4A13945D898C296,
   0x4FE342E2FE1A7F9B8EE7EB4A7C0F9E162BCE33576B315ECECBB6406837BF51F5)

/-- a^k mod m over the low `bits` bits of k. -/
def powMod (m a k bits : Nat) : Nat :=
  match bits with
  | 0 => 1 % m
  | n + 1 => let h := powMod m (a * a % m) (k / 2) n; if k % 2 = 1 then h * a % m else h

/-- The inverse modulo a prime. -/
def invMod (m a : Nat) : Nat := powMod m (a % m) (m - 2) 256

/-- A point of the curve, or none for the point at infinity. -/
abbrev Pt := Option (Nat × Nat)

/-- The sum of two points. -/
def Pt.add (x y : Pt) : Pt :=
  match x, y with
  | none, q => q
  | q, none => q
  | some (x1, y1), some (x2, y2) =>
    let p := p256P
    let line (l : Nat) : Pt :=
      let x3 := (l * l + 2 * p - x1 - x2) % p
      some (x3, (l * (x1 + p - x3) + p - y1) % p)
    if x1 = x2 then
      if (y1 + y2) % p = 0 then none
      else line ((3 * x1 * x1 + p - 3) * invMod p (2 * y1) % p)
    else line ((y2 + p - y1) * invMod p (x2 + p - x1) % p)

/-- k times a point, over the low `bits` bits of k. -/
def Pt.mul (k : Nat) (x : Pt) (bits : Nat) : Pt :=
  match bits with
  | 0 => none
  | n + 1 => if k = 0 then none else let h := Pt.mul (k / 2) (Pt.add x x) n; if k % 2 = 1 then Pt.add h x else h

/-- Whether a pair of coordinates is a point of the curve. -/
def onCurve (x y : Nat) : Bool :=
  decide (x < p256P ∧ y < p256P) && decide (y * y % p256P = (x * x * x + (p256P - 3) * x + p256B) % p256P)

/-- Whether (r, s) signs a hash under a public key X, Y, all numbers. -/
def ecdsaOk (x y hash r s : Nat) : Bool :=
  let n := p256N
  onCurve x y && decide (0 < r ∧ r < n ∧ 0 < s ∧ s < n) &&
    (let w := invMod n s
     match Pt.add (Pt.mul (hash * w % n) (some p256G) 256) (Pt.mul (r * w % n) (some (x, y)) 256) with
     | some (vx, _) => vx % n == r
     | none => false)

end Sys2Proof.Machine
end

