-- ==== Sys2Proof/Machine/State.lean ====
section
/-! DEFINITION. The state of the block, all of it plain data, the reasons a step can stop, and the state after
reset. Registers of BAR0 stand in `Dev.regs` under the keys of Machine/Regs.lean; the rest is named here. -/
namespace Sys2Proof.Machine
open Sys2Proof

/-! ### Core instructions as the front end decodes them (R183 to R194) -/

/-- Operations of the control class (R186). -/
inductive CtrlOp where
  | sli
  | smov
  | sadd
  | ssub
  | smul
  | sand
  | sor
  | sxor
  | sshl
  | sshr
  | ssra
  | smin
  | smax
  | b
  | beq
  | bne
  | blt
  | bge
  | bltu
  | bgeu
  | loop
  | pblk
  | ptag
  | cid
  deriving DecidableEq, Repr

/-- Operations of the sync class (R189). -/
inductive SyncOp where
  | yield
  | endProg
  | drain
  | waitw
  | flagr
  | flagc
  deriving DecidableEq, Repr

/-- Combining operations of RED (R135). -/
inductive RedOp where
  | add
  | max
  | min
  deriving DecidableEq, Repr

/-- Combining operations of SCAN (R136). -/
inductive ScanOp where
  | add
  | max
  | min
  | mul
  deriving DecidableEq, Repr

/-- Operations of the VXE arithmetic pipe (R120, R299); the variant of a shift, a reduction, a scan and the
destination format of a conversion belong to the operation, because their codes vary with the translator (R185). -/
inductive VxaOp where
  | add
  | sub
  | mul
  | fma
  | min
  | max
  | abs
  | neg
  | satAdd
  | satSub
  | and
  | or
  | xor
  | shl
  | shrL
  | shrA
  | cmp
  | sel
  | bcast
  | mand
  | mor
  | mxor
  | mnot
  | mpop
  | cvt (dst : BitVec 3)
  | rotb
  | perm
  | red (op : RedOp)
  | scan (op : ScanOp)
  | scanLr
  | topk
  deriving DecidableEq, Repr

/-- Operations of the VXE memory pipe (R177). -/
inductive VxmOp where
  | ld
  | st
  | ldq
  | stq
  | stqs
  | gath
  | scat
  | scadd
  | xacc
  | sftl
  | sfml
  | rsx
  | rsm
  deriving DecidableEq, Repr

/-- Operations of the SFU queue (R177). -/
inductive SfuOp where
  | sfn
  | gact
  | sfmp
  | sftb
  | sfts
  | sfmode
  deriving DecidableEq, Repr

/-- Operations of the RSU queue (R177). -/
inductive RsuOp where
  | rsq
  | rsf
  deriving DecidableEq, Repr

/-- The shared layout of the VXE arithmetic, SFU and RSU classes (R192). -/
structure VecF where
  vd   : BitVec 6
  va   : BitVec 6
  vb   : BitVec 6
  vc   : BitVec 6
  mask : BitVec 4
  me   : Bool
  mz   : Bool
  ty   : BitVec 3
  vli  : Bool
  vl   : BitVec 11
  sub  : BitVec 7
  deriving DecidableEq, Repr

/-- The layout of the VXE memory class (R193). -/
structure MemF where
  vr   : BitVec 6
  a    : BitVec 4
  f17  : BitVec 17
  mask : BitVec 4
  me   : Bool
  mz   : Bool
  ty   : BitVec 3
  vli  : Bool
  vl   : BitVec 11
  sub  : BitVec 4
  deriving DecidableEq, Repr

/-- The fields of MMA (R190). -/
structure MmaF where
  cls   : BitVec 2
  mode  : BitVec 2
  fmtA  : BitVec 4
  fmtB  : BitVec 4
  formA : BitVec 2
  formB : BitVec 2
  acc   : BitVec 2
  clear : Bool
  init  : Bool
  rx    : Bool
  da    : BitVec 4
  db    : BitVec 4
  dc    : BitVec 4
  sm    : BitVec 5
  sn    : BitVec 5
  sk    : BitVec 5
  deriving DecidableEq, Repr

/-- The fields of MXR (R191). -/
structure MxrF where
  acc   : BitVec 2
  slo   : BitVec 5
  shi   : BitVec 5
  dd    : BitVec 4
  er    : BitVec 4
  ec    : BitVec 4
  eb    : BitVec 4
  eq    : BitVec 4
  rm    : BitVec 3
  sat   : Bool
  sseed : BitVec 5
  clr   : Bool
  deriving DecidableEq, Repr

/-- The fields of MXS (R191); `restore` is DIR. -/
structure MxsF where
  acc     : BitVec 2
  restore : Bool
  a       : BitVec 4
  imm     : BitVec 20
  deriving DecidableEq, Repr

/-- The fields of MXD (R191). -/
structure MxdF where
  slot : BitVec 4
  sel  : BitVec 2
  a    : BitVec 4
  imm  : BitVec 20
  deriving DecidableEq, Repr

/-- The fields of DMV (R194). -/
structure DmvF where
  a   : BitVec 4
  imm : BitVec 20
  sc  : BitVec 5
  q   : BitVec 2
  deriving DecidableEq, Repr

/-- A decoded core instruction (R183). -/
inductive CoreInstr where
  | ctrl (op : CtrlOp) (d a b : BitVec 6) (bi : Bool) (imm : Word)
  | sync (op : SyncOp) (s : BitVec 5) (a : BitVec 4) (cmp : BitVec 3) (emask : BitVec 6) (imm : BitVec 21)
  | mma (f : MmaF)
  | mxr (f : MxrF)
  | mxs (f : MxsF)
  | mxd (f : MxdF)
  | mxset (ew : BitVec 16)
  | vxa (op : VxaOp) (f : VecF)
  | vxm (op : VxmOp) (f : MemF)
  | sfu (op : SfuOp) (f : VecF)
  | rsu (op : RsuOp) (f : VecF)
  | dmv (f : DmvF)
  deriving DecidableEq, Repr

/-! ### A core -/

/-- An exact accumulator of 80 B (R65). -/
structure ExAcc where
  value  : BitVec 616
  nan    : Bool
  posInf : Bool
  negInf : Bool
  low    : Bool
  f64    : Bool
  ew     : BitVec 16
  deriving DecidableEq, Repr

/-- The accumulation classes (R76). -/
inductive AccClass where
  | lp
  | f32x
  | f64x
  deriving DecidableEq, Repr

/-- The record of how a set was last cleared (R79); `mode` is 0 Square, 1 Wide, 2 Wider. -/
structure AccTag where
  cls  : AccClass
  mode : Nat
  int  : Bool
  deriving DecidableEq, Repr

/-- An accumulator set (R79): by its tag it is read as FP32, 48-bit integer or exact accumulators, numbered row by row. -/
structure AccSet where
  tag : AccTag
  fp  : Tab Word
  int : Tab (BitVec 48)
  ex  : Tab ExAcc
  deriving DecidableEq, Repr

/-- An operand slot (R190). -/
structure Slot where
  desc : List Byte
  mask : Nat
  metaAddr : Nat
  deriving DecidableEq, Repr

/-- Where a bank's contents come from (R155). -/
inductive Origin where
  | empty
  | builtin
  | user
  deriving DecidableEq, Repr

/-- A live or staged bank of a table or micro-program slot (R155). -/
structure Bank where
  origin : Origin
  image  : List Byte
  deriving DecidableEq, Repr

/-- A row accumulator of the RSU (R170), chains as FP64 bits. -/
structure RowAcc where
  q0    : BitVec 64
  q1    : BitVec 64
  q2    : BitVec 64
  q3    : BitVec 64
  s0    : BitVec 64
  s1    : BitVec 64
  s2    : BitVec 64
  s3    : BitVec 64
  count : Word
  k     : Nat
  deriving DecidableEq, Repr

/-- An issued instruction that has not finished (R177, R181): its place in program order, code offset, whether it has
started, whether its effect has been made, and the CFLAGS bits it sets when it finishes (R195). -/
structure QEntry where
  seq     : Nat
  pc      : Nat
  eng     : Eng
  instr   : CoreInstr
  started : Bool
  ran     : Bool
  flags   : Word
  deriving DecidableEq, Repr

/-- What the front end waits for at a sync instruction (R189, R201). -/
inductive FrontWait where
  | endProg
  | drain (emask : BitVec 6)
  | waitw (off : Nat) (cmp : BitVec 3) (value : Word)
  | flagr (s : BitVec 5)
  | flagc (value : Word)
  | yield
  deriving DecidableEq, Repr

/-- An active hardware loop (R187): the offsets of the first and of the first instruction after its body, passes left. -/
structure LoopFrame where
  first : Nat
  stop  : Nat
  left  : Nat
  deriving DecidableEq, Repr

/-- An action that a YIELD takes (R201), with the descriptor that asked for it. -/
inductive PendAct where
  | load (ring : Nat) (count : Word) (base len entry : Nat)
  | stop (ring : Nat) (count : Word)
  deriving DecidableEq, Repr

/-- The states of a core (R196). -/
inductive CoreStatus where
  | idle
  | running
  | stopped
  deriving DecidableEq, Repr

/-- Why issue has stopped while started instructions run on (R199, R200): STOP_REASON of R198, status and code offset. -/
structure Halt where
  reason : Nat
  status : BitVec 16
  pc     : Nat
  deriving DecidableEq, Repr

/-- A CORE_RUN that waits for its core (R198). -/
structure RunReq where
  ring  : Nat
  count : Word
  entry : Nat
  clrf  : Bool
  deriving DecidableEq, Repr

/-- A line of the instruction cache (R202): its set, way, code address and bytes. -/
structure CacheLine where
  way  : Nat
  addr : Nat
  data : List Byte
  deriving DecidableEq, Repr

/-- A transfer of a DMV instruction (R257): its queue, the place of its descriptor, its bytes as read, the instruction it
belongs to, and the near-tier top when it started (R295). `moved` is the status of one whose data has all moved, while its writes to a
host window wait for D0 (R385, R412). -/
structure Xfer where
  q       : Nat
  off     : Nat
  raw     : List Byte
  seq     : Nat
  nearTop : Nat
  moved   : Option (BitVec 16)
  deriving DecidableEq, Repr

/-- A staging under way (R162): the instruction it belongs to and the bank it will write. Slots 0 to 15 are TS0 to TS15, 16 to
23 MP0 to MP7. -/
structure Staging where
  seq  : Nat
  slot : Nat
  bank : Bank
  deriving DecidableEq, Repr

/-- One logical core and everything it holds (R20, R196). `merged` and `rsmDet` belong to the RSM under way: the records it has
merged, and the mode it took at its start (R175, R538). `stopReq`: an immediate CORE_STOP has reached the core, which has not
stopped yet (R200). `stage` holds the two halves of the core's default staging buffer in each slice, numbered 2 · slice + half (R243). -/
structure Core where
  status    : CoreStatus
  phys      : Nat
  pc        : Nat
  codeBase  : Nat
  codeLen   : Nat
  cache     : List CacheLine
  v         : Tab Word
  m         : Tab (BitVec 1024)
  s         : Tab Word
  a         : Tab Word
  acc       : Tab AccSet
  savedTags : Tab (Option AccTag)
  slots     : Tab Slot
  ew        : BitVec 16
  loops     : List LoopFrame
  queue     : List QEntry
  nextSeq   : Nat
  wait      : Option FrontWait
  halt      : Option Halt
  stopReq   : Bool
  actions   : List PendAct
  run       : Option (Nat × Word)
  runQ      : List RunReq
  cflags    : Word
  lastPc    : Nat
  lastWhy   : Nat
  tsLive    : Tab Bank
  tsStaged  : Tab Bank
  mpLive    : Tab Bank
  mpStaged  : Tab Bank
  staging   : List Staging
  pewter    : Bool
  rows      : Tab RowAcc
  merged    : NatSet
  rsmDet    : Bool
  curTag    : Nat
  cyc       : Tab Nat
  time      : Tab Nat
  coast     : Bool
  multChg   : Bool
  satd      : Bool
  xfers     : List Xfer
  stage     : Tab (List Byte)
  retained  : Bool
  gated     : Bool
  deriving DecidableEq, Repr

/-! ### The stores -/

/-- A repair record (R264, R296, R495). -/
inductive Repair where
  | assign (l p old : Nat)
  | removed (p : Nat)
  | failed (p : Nat)
  | sweepDone (l : Nat)
  | unmap (l top : Nat)
  | ingotLine (slice line : Nat)
  | coreMap (core phys : Nat)
  deriving DecidableEq, Repr

/-- A rebuild of a logical pseudo-channel (R288 to R293): the spare being filled (640 for freed lines after an unmapping),
the spare it replaces if one failed, with the lines that one held (all below `heldTo`, and those of `held`), the next line of the
sweep, lines rebuilt ahead of it, lines written since the first declaration, counts by source, whether the twin source is lost and
whether it has given an old line, and the PC_RETIREs that wait. -/
structure Sweep where
  l        : Nat
  spare    : Nat
  from_    : Option Nat
  heldTo   : Nat
  held     : NatSet
  next     : Nat
  done     : NatSet
  written  : NatSet
  mirror   : Nat
  twin     : Nat
  poisoned : Nat
  lost     : Bool
  oldLine  : Bool
  waiters  : List (Nat × Word)
  deriving DecidableEq, Repr

/-- What the device's memories hold (R26, R101, R256, R276, R278): bytes, poison marks, units whose code would show an uncorrectable or
a correctable error when read, the same three for the words of spare pseudo-channels that serve no line yet (R277; word `w` of line `i`
of physical pseudo-channel `p` is number p · 2^25 + 4 · i + w), the finiteness bits, and the keep tier. -/
structure Mem where
  bytes   : List Host.Cell
  poison  : NatSet
  latentU : NatSet
  latentC : NatSet
  spareP  : NatSet
  spareU  : NatSet
  spareC  : NatSet
  finite  : NatSet
  keep    : List Host.Cell
  keepBad : NatSet
  deriving DecidableEq, Repr

/-- The tiers' repair state (R285 to R297). `awaiting` names, for a logical pseudo-channel that waits for a PC_RETIRE, its failed
physical one plus 1; `former`, for a failed physical one, the logical number it served plus 1; `coreSpares` counts the core spares
that each compute die has used (R495). `paused` holds sweeps whose spare failed with REPAIR_AUTO 0 (R293), `order` the number of the
declaration of each logical pseudo-channel that waits for its spare, of `declared` in all (R290). `ueWords` gives each near or far word
with a fresh uncorrectable read the millisecond of it, `ceTimes` each pseudo-channel the milliseconds of its corrected reads with their
numbers, far packages from 1000 on (R285, R286). -/
structure Tier where
  sweeps     : List Sweep
  paused     : List Sweep
  order      : Tab Nat
  declared   : Nat
  awaiting   : Tab Nat
  former     : Tab Nat
  farFailed  : NatSet
  ueWords    : Tab Nat
  ceTimes    : Tab (List (Nat × Nat))
  pending    : List Repair
  committed  : List Repair
  ingotSpare : NatSet
  bgtPos     : Tab Nat
  lsPos      : Tab Nat
  coreSpares : Tab Nat
  deriving DecidableEq, Repr

/-! ### Rings, descriptors and the host ports -/

/-- A descriptor a FENCE waits for: its ring, its count, and how it finished: not yet, OK, or not OK (R418, R419). -/
structure FenceWait where
  ring  : Nat
  count : Word
  done  : Option Bool
  deriving DecidableEq, Repr

/-- A started descriptor whose record has not been posted (R388, R426): its count, its 64 B, its place in the order of
starts, the near-tier top then (R295), whether its engine has taken it up, the outcome its engine has given, whether it has
finished and what it then reports, the waits of a FENCE, the host address it last wrote through the other port, the ports
whose flush read has been answered (R420), the ports in D3hot at which writes of it wait, and whether such a write has been discarded
(R383, R385). -/
structure Desc where
  count    : Word
  raw      : List Byte
  order    : Nat
  nearTop  : Nat
  taken    : Bool
  outcome  : Option (BitVec 16 × List Byte)
  finished : Bool
  status   : BitVec 16
  result   : List Byte
  waits    : List FenceWait
  other    : Option Nat
  flushed  : List PciePort
  held     : List PciePort
  lost     : Bool
  deriving DecidableEq, Repr

/-- A ring's state beside its registers: descriptors started and not posted, those of before a PERST, the count of the halting
descriptor, a held ENABLE and RESUME, and the interrupt hold-off (R388, R393, R384, R405, R427, R429). -/
structure Ring where
  started    : List Desc
  orphans    : List Desc
  halt       : Option Word
  heldEnable : Bool
  heldResume : Bool
  holdoff    : Bool
  merged     : Bool
  deriving DecidableEq, Repr

/-- What a port sends toward its host, in the order issued (R383, R401, R404, R420, R382): `unsupported` answers a read in D3hot
(R385), and a write's `sq` is the number that the stores know its source queue by. -/
inductive PortOut where
  | write (addr : Nat) (data : List Byte) (sq : Nat)
  | record (ring : Nat) (addr : Nat) (data : List Byte)
  | msix (vector : Nat) (addr data : Nat)
  | flushRead (addr : Nat)
  | readData (data : List Byte)
  | readPoisoned (len : Nat)
  | unsupported (len : Nat)
  deriving DecidableEq, Repr

/-- An MSI-X table entry: address, data, mask bit. -/
structure MsixEntry where
  addr   : BitVec 64
  data   : Word
  masked : Bool
  deriving DecidableEq, Repr

/-- What a port's configuration space holds of what the spec names (R378, R380): Device ID, class code, and the programmed limits of
a payload and of a read request, in bytes. -/
structure PortCfg where
  deviceId  : BitVec 16
  classCode : BitVec 24
  mps       : Nat
  mrrs      : Nat
  deriving DecidableEq, Repr

/-- A PCIe port's state beside its registers (R378 to R385, R404, R420, R534). -/
structure Port where
  cfg      : PortCfg
  perst    : Bool
  d3hot    : Bool
  msixOn   : Bool
  funcMask : Bool
  msix     : Tab MsixEntry
  pba      : BitVec 64
  latch    : Option (Nat × Word)
  out      : List PortOut
  waiting  : List PortOut
  lastAddr : Option Nat
  deriving DecidableEq, Repr

/-- A packet (R355), with the virtual channel it travels on. -/
structure Pkt where
  vc    : Nat
  pop   : Nat
  rt    : Bool
  nh    : Nat
  hi    : Nat
  ttl   : Nat
  dst   : BitVec 16
  src   : BitVec 16
  addr  : Nat
  len   : Nat
  tag   : Word
  sq    : BitVec 16
  route : List Nat
  data  : List Byte
  deriving DecidableEq, Repr

/-- What a held write carries. -/
inductive HeldBody where
  | bytes (addr : Nat) (data : List Byte)
  | packet (link : Nat) (pkt : Pkt)
  deriving DecidableEq, Repr

/-- A write in hold-back (R244). -/
structure Held where
  src  : HeldSrc
  dest : Dest
  body : HeldBody
  deriving DecidableEq, Repr

/-- A dropped shared-port write waiting for its reissue, and how often it was dropped (R254). -/
structure Collided where
  held  : Held
  tries : Nat
  deriving DecidableEq, Repr

/-! ### Links and the collective engine -/

/-- A DATA flit (R343). -/
structure Flit where
  vc   : Nat
  sop  : Bool
  eop  : Bool
  data : List Byte
  deriving DecidableEq, Repr

/-- A link port's state beside its registers (R341 to R354, R374): what it keeps of both directions, the flits it has put on the wire,
whether it has been lost or has failed to train since it was last up, the PHY firmware it runs, and the flits of whole packets that
its receive area and skid reserve still held when it was lost (R375). -/
structure Link where
  txSeq    : Nat
  replay   : List (Nat × Flit)
  resends  : Tab Nat
  resendAt : Option Nat
  nackSeen : Option Nat
  rxLast   : Nat
  nacking  : Bool
  stopIn   : Bool
  stopOut  : Bool
  credits  : Tab Nat
  owed     : Tab Nat
  rxArea   : List Flit
  skid     : List Flit
  skidSize : Nat
  txq      : List Flit
  wire     : List (List Byte)
  lost     : Bool
  failed   : Bool
  phyVer   : Word
  kept     : List Flit
  deriving DecidableEq, Repr

/-- A packet of this device that has no answer yet, or whose descriptor still waits (R363, R366): its tag, whether it is a write, its
destination, VC and source route, the port it left by, the local address and length it carries, the descriptor it belongs to, its
place in the order of that descriptor's packets, and its answer. -/
structure Outst where
  tag    : Word
  write  : Bool
  dst    : BitVec 16
  vc     : Nat
  route  : List Nat
  link   : Nat
  addr   : Nat
  len    : Nat
  ring   : Nat
  count  : Word
  offset : Nat
  answer : Option (BitVec 16)
  deriving DecidableEq, Repr

/-- A descriptor that waits for the answers of its packets (R307, R366); a dispatch has its result and local status already. -/
structure PktJob where
  ring  : Nat
  count : Word
  fixed : Option (BitVec 16 × List Byte)
  deriving DecidableEq, Repr

/-- A phase mapping (R319, R320): its axis sizes and its table of device IDs. -/
structure PhaseMap where
  axes : List Nat
  ids  : List (BitVec 16)
  deriving DecidableEq, Repr

/-- Data of a collective for or from a rank: the rank, the element offset, the bytes. -/
structure CollMsg where
  rank : Nat
  off  : Nat
  data : List Byte
  deriving DecidableEq, Repr

/-- A collective under way (R367 to R373): the descriptor, the mode it took (R538), its kind and format, the sizes of its named axes,
its rank and the participants' IDs by rank; this device's value in the format that travels, pieces received, the axis under way,
messages for a later axis, ranks whose READY has come, messages that wait for a READY, the ports it has used, bytes sent,
and elements of the result that are still to come. -/
structure Coll where
  id    : Word
  ring  : Nat
  count : Word
  det   : Bool
  kind  : Nat
  fmt   : Nat
  xacc  : Bool
  op    : Nat
  n     : Nat
  root  : Nat
  vc    : Nat
  dest  : Nat
  shape : List Nat
  rank  : Nat
  peers : List (BitVec 16)
  val   : List Byte
  got   : Tab (List Byte)
  axis  : Nat
  early : List CollMsg
  ready : NatSet
  queue : List CollMsg
  links : NatSet
  bytes : Nat
  left  : Nat
  deriving DecidableEq, Repr

/-- The collective engine and the packet layer (R319, R366, R371): mappings, collectives, READY notices held, released packets,
packets out, descriptors that wait for them. -/
structure Cxe where
  maps    : Tab PhaseMap
  colls   : List Coll
  notices : List (BitVec 16 × Word)
  inbox   : List (Nat × Pkt)
  outst   : List Outst
  jobs    : List PktJob
  nextTag : Nat
  deriving DecidableEq, Repr

/-! ### Twin, service, recorder, power -/

/-- A TWIN_FILL under way (R445, R446): its descriptor, the header it fills from, and the data that has come. -/
structure FillJob where
  ring  : Nat
  count : Word
  hdr   : List Byte
  data  : List Byte
  deriving DecidableEq, Repr

/-- The twin engine's state beside its registers (R431 to R453): the registered ranges, those that the last commit or fill began with,
those of the newest generation at the partner and the slot it stands in (R437, R438, R443), the fill under way, the TWIN_PAIR that waits, reads missed in a row,
the STEP of the last fill, whether the partner has answered since that TWIN_PAIR, and its FEED_ID and hosted area as last answered. -/
structure Twin where
  ranges   : List (Nat × Nat)
  applied  : List (Nat × Nat)
  copied   : List (Nat × Nat)
  genSlot  : Nat
  fill     : Option FillJob
  pairing  : Option (Nat × Word)
  misses   : Nat
  step     : Word
  answered : Bool
  peerFeed : BitVec 4
  peerBase : Nat
  peerSize : Nat
  deriving DecidableEq, Repr

/-- A calibration item's record and the value applied, the fraction `applied` over `den` (R476, R477). -/
structure CalItem where
  cold    : Int
  lc      : Nat
  offset  : Int
  applied : Int
  den     : Nat
  due     : Bool
  overdue : Bool
  deriving DecidableEq, Repr

/-- What the service mailbox has under way between two of its steps (R480, R489, R492): the built-in load of a CAL_HOT; a FW_UPDATE's
copy of the image in the Bronze core's private memory, with the next block to write; the restart that a FW_ACTIVATE of types `mask`
has begun. -/
inductive SvcWork where
  | calHot
  | update (img : List Byte) (next : Nat)
  | restart (mask : Nat)
  deriving DecidableEq, Repr

/-- The descriptor that the service mailbox has under way, and its work. -/
structure SvcJob where
  ring  : Nat
  count : Word
  work  : SvcWork
  deriving DecidableEq, Repr

/-- The service state beside its registers (R477 to R500): the work under way, the hashes of the running components, whether this boot followed a recovery,
the calibration set, its load index (0 where no hot set is stored), the load index of each of the last 100 ms, the version of the
built-in SFU set at boot, and RECOVER_NEXT as the firmware store holds it. -/
structure Svc where
  job       : Option SvcJob
  hashes    : List (List Byte)
  recovered : Bool
  cal       : Tab CalItem
  hotLoad   : Nat
  loads     : List Nat
  bootSet   : Nat
  recStored : Nat
  deriving DecidableEq, Repr

/-- An event record (R502). -/
structure Rec where
  seq     : Word
  cycles  : Word
  opTime  : BitVec 64
  sev     : Nat
  source  : BitVec 16
  code    : BitVec 16
  payload : List Byte
  deriving DecidableEq, Repr

/-- How a buffered record stands toward the log (R505, R507). -/
inductive BufState where
  | pending
  | committed
  | refused
  | exempt
  deriving DecidableEq, Repr

/-- The recorder's state beside its registers (R503 to R509, R514, R528): the buffer, the log, the newest number, the reservation mark,
the saved counts, whether a Sleep entry has committed every record, the hold-off of device events, the windows that are loading, and
the sideband's offset and what it has answered. -/
structure Recorder where
  buf      : List (Rec × BufState)
  log      : Tab (Option Rec)
  newest   : Word
  mark     : Word
  saved    : Nat × Nat
  clean    : Bool
  holdoff  : Bool
  merged   : Bool
  loading  : Bool
  sbLoading : Bool
  sbOffset : Nat
  sbOut    : List (List Byte)
  deriving DecidableEq, Repr

/-- What the module as a whole is doing (R455, R466, R493): rails off, rails good and waiting for a reference, in recovery,
and the power states. -/
inductive Phase where
  | off
  | waitRef
  | recovery
  | run
  | retain
  | sleep
  deriving DecidableEq, Repr

/-- Pins, supply and power-state progress (R455 to R475, R518 to R529): P54V in its range, P3V3_AUX present, lost in Run or Retain
since P54V came, THERM_TRIP_N high, rails off after a trip, SMB_ALERT_N high, a Sleep entry under way, the limits of R464 and R465, the
quarter microseconds since a die's last step (R463), and the straps. -/
structure Sys where
  phase      : Phase
  p54vOk     : Bool
  auxOk      : Bool
  auxLatch   : Bool
  tripN      : Bool
  tripped    : Bool
  alertN     : Bool
  sleepReq   : Bool
  pcap       : Tab Nat
  therm      : Tab Nat
  stepUp     : Tab Nat
  kzLow      : Bool
  strapFeed  : BitVec 4
  strapSlot  : BitVec 6
  deriving DecidableEq, Repr

/-- The grades (R1). -/
inductive Grade where
  | skv96
  | skv80
  deriving DecidableEq, Repr

/-- What fuses hold (R2, R497 to R500). `ownerState` has two bits a slot: 0 empty, 1 active, 2 revoked. -/
structure Fuses where
  grade         : Grade
  svnCounter    : Nat
  ownerState    : Tab Nat
  ownerKey      : Tab (BitVec 512)
  vendorRevoked : NatSet
  vendorKey     : Tab (BitVec 512)
  uid           : BitVec 128
  cert          : List Byte
  deriving DecidableEq, Repr

/-- How the host answers device reads of a range of bus addresses (R383); the environment's. -/
structure HostRule where
  port : PciePort
  addr : Nat
  len  : Nat
  resp : HostResp
  deriving DecidableEq, Repr

/-- The hosts' memory behind the ports, which is no part of the device (R383). -/
structure Env where
  memA  : List Host.Cell
  memB  : List Host.Cell
  rules : List HostRule
  deriving DecidableEq, Repr

/-- How one core ended one CORE_RUN (R198). `flags` is the core's CFLAGS at the start of the next run there, once one has started:
until then the run's flags are the core's own word (R331). -/
structure RunRes where
  ring   : Nat
  count  : Word
  core   : Nat
  reason : Nat
  status : BitVec 16
  pc     : Nat
  flags  : Option Word
  deriving DecidableEq, Repr

/-- Everything the block holds but the queue of commands. `turn` gives, for a priority, 1 plus the ring that started a descriptor last
(R392). -/
structure Dev where
  regs    : Tab Nat
  fuses   : Fuses
  sys     : Sys
  cores   : Tab Core
  mem     : Mem
  tier    : Tier
  rings   : Tab Ring
  turn    : Tab Nat
  portA   : Port
  portB   : Port
  hold    : List Held
  hit     : List Collided
  links   : Tab Link
  cxe     : Cxe
  twin    : Twin
  svc     : Svc
  recd    : Recorder
  env     : Env
  runDone : List RunRes
  acks    : List (Nat × Word × Nat)
  nextOrd : Nat
  free    : Nat
  deriving DecidableEq, Repr

/-- The machine: the commands that wait, first in first out, and the block. -/
structure State where
  pending : List Instr
  dev     : Dev
  deriving DecidableEq, Repr

/-- Why a step can stop the machine. -/
inductive Fault where
  /-- Raised by REGISTER_WRITE for a nonzero write to a reserved register bit: R12 calls the device's response
  undefined. Safe: the model stops where the device goes on in a way the spec does not say. -/
  | reservedBitWrite
  deriving DecidableEq, Repr

/-- Why a step can be refused. -/
inductive Refusal where
  /-- The command has no meaning in this model yet; raised by `exec` alone. Safe: the model stops. -/
  | notModelled (mnemonic : String)
  deriving DecidableEq, Repr

/-! ### Reset -/

/-- An accumulator set after power-up (R79). -/
def AccSet.reset : AccSet := ⟨⟨.lp, 0, false⟩, [], [], []⟩

/-- An operand slot after power-up: all-zero bytes (R190). -/
def Slot.reset : Slot := ⟨[], 0, 0⟩

/-- An empty bank (R155). -/
def Bank.none : Bank := ⟨.empty, []⟩

/-- The live bank of table slot `t` after power-up (R155). -/
def Bank.live0 (t : Nat) : Bank := if t < 12 then ⟨.builtin, []⟩ else Bank.none

/-- A cleared row accumulator (R170). -/
def RowAcc.reset : RowAcc := ⟨0, 0, 0, 0, 0, 0, 0, 0, 0, 0⟩

/-- A core after power-up (R196). DESIGN CHOICE (log 2): registers the spec leaves undefined read 0. `phys` 0 stands for the
initial place; Machine/Ops.lean reads it with the core's number (log 1). -/
def Core.reset : Core where
  status := .idle
  phys := 0
  pc := 0
  codeBase := 0
  codeLen := 0
  cache := []
  v := []
  m := []
  s := []
  a := []
  acc := []
  savedTags := []
  slots := []
  ew := 246
  loops := []
  queue := []
  nextSeq := 0
  wait := none
  halt := none
  stopReq := false
  actions := []
  run := none
  runQ := []
  cflags := 0
  lastPc := 0
  lastWhy := 0
  tsLive := []
  tsStaged := []
  mpLive := []
  mpStaged := []
  staging := []
  pewter := false
  rows := []
  merged := []
  rsmDet := false
  curTag := 0
  cyc := []
  time := []
  coast := false
  multChg := false
  satd := false
  xfers := []
  stage := []
  retained := false
  gated := false

/-- A ring after power-up: DISABLED by its registers, nothing started (R393). -/
def Ring.reset : Ring := ⟨[], [], none, false, false, false, false⟩

/-- An MSI-X table entry after reset: masked, PRESUMED (log 23). -/
def MsixEntry.reset : MsixEntry := ⟨0, 0, true⟩

/-- A port's configuration space after reset (R380). PRESUMED (log 63): PCI Express resets a payload to 128 B and a read request to
512 B. -/
def PortCfg.reset : PortCfg := ⟨0x5C60, 0x120000, 128, 512⟩

/-- A PCIe port after power-up: an undriven PERST holds it in reset (R518). -/
def Port.reset : Port := ⟨PortCfg.reset, true, false, false, false, [], 0, none, [], [], none⟩

/-- A link port after power-up (R341, R377). -/
def Link.reset : Link := ⟨0, [], [], none, none, 0xFFFF, false, false, false, [], [], [], [], 0, [], [], false, false, 0, []⟩

/-- An empty mapping (R319). -/
def PhaseMap.reset : PhaseMap := ⟨[], []⟩

/-- A calibration item before its first measurement (R476, log 1). -/
def CalItem.reset : CalItem := ⟨0, 0, 0, 0, 1, false, false⟩

/-- The block right after reset: rails good, every register at its reset value, waiting for a reference (R13, R455). -/
def Dev.reset : Dev where
  regs := []
  fuses := ⟨.skv96, 0, [], [], [], [], 0, []⟩
  sys := ⟨.waitRef, true, true, false, true, false, true, false, [], [], [], false, 0, 0⟩
  cores := []
  mem := ⟨[], [], [], [], [], [], [], [], [], []⟩
  tier := ⟨[], [], [], 0, [], [], [], [], [], [], [], [], [], [], []⟩
  rings := []
  turn := []
  portA := Port.reset
  portB := Port.reset
  hold := []
  hit := []
  links := []
  cxe := ⟨[], [], [], [], [], [], 0⟩
  twin := ⟨[], [], [], 0, none, none, 0, 0, false, 0, 0, 0⟩
  svc := ⟨none, [], false, [], 0, [], 0, 0⟩
  recd := ⟨[], [], 0, 0, (0, 0), false, false, false, false, false, 0, []⟩
  env := ⟨[], [], []⟩
  runDone := []
  acks := []
  nextOrd := 0
  free := 0

/-- The machine right after reset, with an empty queue. -/
def State.reset : State := ⟨[], Dev.reset⟩

end Sys2Proof.Machine
end

