-- ==== Sys2Proof/Config.lean ====
section
/-! DEFINITION. What one implementation fixes and what the spec leaves open: constants without a body, so that nothing can be
proved of their values. -/
namespace Sys2Proof.Config
open Sys2Proof Sys2Proof.Machine

/-- A free value: the n-th draw, as a number the drawer cuts to its width (log 6). -/
opaque freeBits : Nat → Nat

/-- The operation of the VXE arithmetic class that a 6-bit OP names under a translator version (R185, log 9). -/
opaque vxaOp : Nat → Nat → Option VxaOp

/-- The operation of the VXE memory class that an OP names under a translator version (R185, log 9). -/
opaque vxmOp : Nat → Nat → Option VxmOp

/-- The operation of the SFU class that an OP names under a translator version (R185, log 9). -/
opaque sfuOp : Nat → Nat → Option SfuOp

/-- The operation of the RSU class that an OP names under a translator version (R185, log 9). -/
opaque rsuOp : Nat → Nat → Option RsuOp

/-- What the translator makes of an APO's body (R205, R207): the error code and the failing offset, or code 0, each kernel's
entry offset and kernel number, and the SNC that follows the entry table; on an error, the bytes written before it. -/
structure ApoOut where
  err     : Nat
  errOff  : Nat
  entries : List (Nat × Nat)
  code    : List Byte
  deriving Inhabited, DecidableEq, Repr

/-- The translation of an APO by a translator version, DEST_CAP aside; the spec gives the language's semantics and not the code that
a translator makes (R207, log 35). -/
opaque apoTranslate : Nat → List Byte → ApoOut

/-- The choice that the built-in image of a set version makes among the results that the accuracy of a function without an order
leaves possible, by function code, TYPE and argument; and its result under a SLOT code (R154, log 10). -/
opaque sfuFn : Nat → Nat → Nat → Nat → Nat

/-- Where the built-in image of a set version reaches a number of a TYPE, by function code, TYPE and the number's encoding: the place of
the argument in the order of the type's values, the other way round for a nonincreasing function (R160, log 10). -/
opaque sfuCut : Nat → Nat → Nat → Nat → Int

/-- The choice of a gate × activation pass over a built-in image among the results that its accuracy leaves possible, by set version,
function code, TYPE and the two arguments (R165, log 10). -/
opaque gact : Nat → Nat → Nat → Nat → Nat → Nat

/-- The choice of the fixed G2 table set among the FP32 results that its accuracy leaves possible, by function code, TYPE and argument
(R169, log 11). -/
opaque pewter : Nat → Nat → Nat → Nat

/-- The result of a user image's EXP2 reduction of an infinity, by image, TYPE and argument (R157, log 10). -/
opaque tableInf : List Byte → Nat → Nat → Nat

/-- A micro-program's LDX by an infinite power, by its two FP32 operands (R166, log 10). -/
opaque ldxInf : Nat → Nat → Nat

/-- A block of the event log or of the firmware store beyond the image, whose layouts the spec does not give, by what has been committed
there and the block's number (R278, R281, log 21). -/
opaque keepBlock {α : Type} : α → Nat → Nat

/-- Where a twin's status block lies in its device area, and its length: its layout is not part of the interface (R241, R436, log 17). -/
opaque statusAddr : Nat

/-- The length of a twin's status block (R436, log 17). -/
opaque statusLen : Nat

end Sys2Proof.Config
end

