-- ==== Sys2Proof/Machine/Regs.lean ====
section
/-! DEFINITION. The fields of the set-up registers, as the register tables of the spec give them (R266, R298, R377, R406,
R454, R483, R501, R515, R536, R537, placed in BAR0 by R530), and reading and writing their stored values. A field whose
reset is "—" takes the value the log names (log 1). Two fields called STATE are RING_STATE and LINK_STATE here. -/
namespace Sys2Proof.Machine
open Sys2Proof

/-- The access codes of R10. -/
inductive Acc where
  | rw
  | ro
  | wo
  | w1c
  deriving DecidableEq, Repr

/-- A register field: its BAR0 byte offset, its lowest bit there, its width, its access code, its reset value. -/
structure Field where
  off   : Nat
  lo    : Nat
  w     : Nat
  acc   : Acc
  reset : Nat
  deriving DecidableEq, Repr

/-- The number of a field in `Dev.regs`. -/
def Field.key (f : Field) : Nat := f.off * 64 + f.lo

/-- The stored value of a field. -/
def Dev.rd (d : Dev) (f : Field) : Nat := Tab.get d.regs f.key f.reset

/-- Stores a value in a field, cut to its width. -/
def Dev.wr (d : Dev) (f : Field) (v : Nat) : Dev := { d with regs := Tab.set d.regs f.key (v % 2 ^ f.w) f.reset }

/-- Sets bit `i` of a field. -/
def Dev.setBit (d : Dev) (f : Field) (i : Nat) : Dev := d.wr f (d.rd f ||| 2 ^ i)

/-- Clears bit `i` of a field. -/
def Dev.clrBit (d : Dev) (f : Field) (i : Nat) : Dev := d.wr f (d.rd f - (d.rd f &&& 2 ^ i))

/-- Adds to a counter, which wraps at its width. -/
def Dev.count (d : Dev) (f : Field) (n : Nat) : Dev := d.wr f (d.rd f + n)

/-- The eight spare pseudo-channels as shipped (R268). -/
def sparePcs : List Nat := [63, 127, 223, 287, 383, 447, 543, 607]

/-- The stacks whose pseudo-channel 31 carries a logical number as shipped, in order (R269). -/
def pc31Stacks : List Nat := [0, 2, 4, 5, 7, 9, 10, 12, 14, 15, 17, 19]

/-- PC_STATE of physical pseudo-channel `p` as shipped (R268, R298). -/
def pcState0 (p : Nat) : Nat := if sparePcs.contains p then 1 else 0

/-- The logical number that physical pseudo-channel `p` serves as shipped (R269); 0x3FF where none. -/
def pcLogical0 (p : Nat) : Nat :=
  if p % 32 < 31 then p % 32 * 20 + p / 32
  else match pc31Stacks.findIdx? (fun n => n == p / 32) with
    | some i => 620 + i
    | none => 0x3FF

namespace F

/-- INGOT_SW_BYTES of R266, RO. -/
def INGOT_SW_BYTES : Field := ⟨0x7000, 0, 32, .ro, 0x78000000⟩

/-- LINK_CLASS_LO of R266, RW. -/
def LINK_CLASS_LO : Field := ⟨0x7008, 0, 32, .rw, 0⟩

/-- LINK_CLASS_HI of R266, RW. -/
def LINK_CLASS_HI : Field := ⟨0x700C, 0, 4, .rw, 0⟩

/-- SKID_SHORT of R266, W1C. -/
def SKID_SHORT : Field := ⟨0x7010, 0, 18, .w1c, 0⟩

/-- SKID_OVR of R266, W1C. -/
def SKID_OVR : Field := ⟨0x7014, 0, 18, .w1c, 0⟩

/-- LS_WRITE_LOST of R266, W1C. -/
def LS_WRITE_LOST : Field := ⟨0x7018, 0, 1, .w1c, 0⟩

/-- INGOT_TEST_FAIL of R266, W1C. -/
def INGOT_TEST_FAIL : Field := ⟨0x7018, 1, 1, .w1c, 0⟩

/-- LS_TEST_FAIL of R266, W1C. -/
def LS_TEST_FAIL : Field := ⟨0x7018, 2, 1, .w1c, 0⟩

/-- COLLIDED_COUNT of R266, RO. -/
def COLLIDED_COUNT : Field := ⟨0x701C, 0, 32, .ro, 0⟩

/-- SKID_DROPS of R266, RO. -/
def SKID_DROPS : Field := ⟨0x7020, 0, 32, .ro, 0⟩

/-- BGT_INGOT_EN of R266, RW. -/
def BGT_INGOT_EN : Field := ⟨0x7024, 0, 1, .rw, 1⟩

/-- BGT_LS_EN of R266, RW. -/
def BGT_LS_EN : Field := ⟨0x7024, 1, 1, .rw, 1⟩

/-- BGT_PERIOD of R266, RW. -/
def BGT_PERIOD : Field := ⟨0x7024, 4, 4, .rw, 4⟩

/-- SPARES_Ii of R266, RO; `n` is i. -/
def SPARES_I (n : Nat) : Field := ⟨0x7028 + 4 * n, 0, 9, .ro, 256⟩

/-- LS_RET_0 of R266, RW. -/
def LS_RET_0 : Field := ⟨0x7040, 0, 32, .rw, 0⟩

/-- LS_RET_1 of R266, RW. -/
def LS_RET_1 : Field := ⟨0x7044, 0, 32, .rw, 0⟩

/-- LS_RET_2 of R266, RW. -/
def LS_RET_2 : Field := ⟨0x7048, 0, 32, .rw, 0⟩

/-- NEAR_TOP_GIB of R298, RO. -/
def NEAR_TOP_GIB : Field := ⟨0x14000, 0, 16, .ro, 1264⟩

/-- SPARES_LEFT of R298, RO. -/
def SPARES_LEFT : Field := ⟨0x14004, 0, 4, .ro, 8⟩

/-- SWEEPS_QUEUED of R298, RO. -/
def SWEEPS_QUEUED : Field := ⟨0x14004, 4, 4, .ro, 0⟩

/-- SWEEP_ACTIVE of R298, RO. -/
def SWEEP_ACTIVE : Field := ⟨0x14004, 8, 1, .ro, 0⟩

/-- SWEEP_PC of R298, RO. -/
def SWEEP_PC : Field := ⟨0x14008, 0, 10, .ro, 1023⟩

/-- SWEEP_LINES of R298, RO. -/
def SWEEP_LINES : Field := ⟨0x1400C, 0, 24, .ro, 0⟩

/-- REPAIR_AUTO of R298, RW. -/
def REPAIR_AUTO : Field := ⟨0x14010, 0, 1, .rw, 1⟩

/-- REBUILD_GBPS of R298, RW. -/
def REBUILD_GBPS : Field := ⟨0x14010, 8, 6, .rw, 16⟩

/-- CAP_REDUCED of R298, W1C. -/
def CAP_REDUCED : Field := ⟨0x14014, 0, 1, .w1c, 0⟩

/-- PC_FAILED of R298, W1C. -/
def PC_FAILED : Field := ⟨0x14014, 1, 1, .w1c, 0⟩

/-- FAR_FAIL of R298, W1C. -/
def FAR_FAIL : Field := ⟨0x14014, 2, 1, .w1c, 0⟩

/-- NEAR_POISON of R298, W1C. -/
def NEAR_POISON : Field := ⟨0x14014, 3, 1, .w1c, 0⟩

/-- REBUILD_SRC_LOST of R298, W1C. -/
def REBUILD_SRC_LOST : Field := ⟨0x14014, 4, 1, .w1c, 0⟩

/-- KEEP_LOW of R298, W1C. -/
def KEEP_LOW : Field := ⟨0x14014, 5, 1, .w1c, 0⟩

/-- UE_LIMIT of R298, RW. -/
def UE_LIMIT : Field := ⟨0x14018, 0, 8, .rw, 4⟩

/-- CE_LIMIT of R298, RW. -/
def CE_LIMIT : Field := ⟨0x14018, 16, 16, .rw, 4096⟩

/-- SCRUB_HOURS of R298, RW. -/
def SCRUB_HOURS : Field := ⟨0x1401C, 0, 8, .rw, 24⟩

/-- NEAR_CE_COUNT of R298, RO. -/
def NEAR_CE_COUNT : Field := ⟨0x14020, 0, 32, .ro, 0⟩

/-- NEAR_UE_COUNT of R298, RO. -/
def NEAR_UE_COUNT : Field := ⟨0x14024, 0, 32, .ro, 0⟩

/-- FAR_CE_COUNT of R298, RO. -/
def FAR_CE_COUNT : Field := ⟨0x14028, 0, 32, .ro, 0⟩

/-- FAR_UE_COUNT of R298, RO. -/
def FAR_UE_COUNT : Field := ⟨0x1402C, 0, 32, .ro, 0⟩

/-- KEEP_WEAR_PCT of R298, RO. -/
def KEEP_WEAR_PCT : Field := ⟨0x14030, 0, 8, .ro, 0⟩

/-- KEEP_RESERVE_PCT of R298, RO. -/
def KEEP_RESERVE_PCT : Field := ⟨0x14030, 8, 8, .ro, 100⟩

/-- MIR_NEARk of R298, RW; `n` is k. -/
def MIR_NEAR (n : Nat) : Field := ⟨0x14100 + 32 * n, 0, 64, .rw, 0⟩

/-- MIR_FARk of R298, RW; `n` is k. -/
def MIR_FAR (n : Nat) : Field := ⟨0x14108 + 32 * n, 0, 64, .rw, 0⟩

/-- MIR_LENk of R298, RW; `n` is k. -/
def MIR_LEN (n : Nat) : Field := ⟨0x14110 + 32 * n, 0, 32, .rw, 0⟩

/-- PC_STATE of R298, RO; `n` is P. -/
def PC_STATE (n : Nat) : Field := ⟨0x14400 + 4 * n, 0, 2, .ro, (pcState0 n)⟩

/-- PC_LOGICAL of R298, RO; `n` is P. -/
def PC_LOGICAL (n : Nat) : Field := ⟨0x14400 + 4 * n, 2, 10, .ro, (pcLogical0 n)⟩

/-- MY_ID of R377, RW. -/
def MY_ID : Field := ⟨0x20000, 0, 16, .rw, 65535⟩

/-- ACK_TIMEOUT_US of R377, RW. -/
def ACK_TIMEOUT_US : Field := ⟨0x20004, 0, 16, .rw, 1000⟩

/-- COLL_TIMEOUT_MS of R377, RW. -/
def COLL_TIMEOUT_MS : Field := ⟨0x20008, 0, 16, .rw, 1000⟩

/-- LINK_DOWN of R377, W1C. -/
def LINK_DOWN : Field := ⟨0x2000C, 0, 18, .w1c, 0⟩

/-- LINK_UP of R377, RO. -/
def LINK_UP : Field := ⟨0x20010, 0, 18, .ro, 0⟩

/-- ROUTE_DROP of R377, W1C. -/
def ROUTE_DROP : Field := ⟨0x20014, 0, 1, .w1c, 0⟩

/-- PKT_DROPPED of R377, RO. -/
def PKT_DROPPED : Field := ⟨0x20018, 0, 32, .ro, 0⟩

/-- PORT_EN of R377, RW; `n` is p. -/
def PORT_EN (n : Nat) : Field := ⟨0x20100 + 64 * n, 0, 1, .rw, 1⟩

/-- MAX_SPEED of R377, RW; `n` is p. -/
def MAX_SPEED (n : Nat) : Field := ⟨0x20100 + 64 * n, 1, 1, .rw, 0⟩

/-- AUTO_RETRAIN of R377, RW; `n` is p. -/
def AUTO_RETRAIN (n : Nat) : Field := ⟨0x20100 + 64 * n, 2, 1, .rw, 1⟩

/-- RETRAIN of R377, WO; `n` is p. -/
def RETRAIN (n : Nat) : Field := ⟨0x20100 + 64 * n, 3, 1, .wo, 0⟩

/-- STATE of R377, RO; `n` is p. -/
def LINK_STATE (n : Nat) : Field := ⟨0x20104 + 64 * n, 0, 2, .ro, 0⟩

/-- SPEED of R377, RO; `n` is p. -/
def SPEED (n : Nat) : Field := ⟨0x20104 + 64 * n, 2, 1, .ro, 0⟩

/-- LOSS_CAUSE of R377, RO; `n` is p. -/
def LOSS_CAUSE (n : Nat) : Field := ⟨0x20104 + 64 * n, 8, 8, .ro, 0⟩

/-- NEIGHBOUR_ID of R377, RO; `n` is p. -/
def NEIGHBOUR_ID (n : Nat) : Field := ⟨0x20104 + 64 * n, 16, 16, .ro, 65535⟩

/-- RTT_NS of R377, RO; `n` is p. -/
def RTT_NS (n : Nat) : Field := ⟨0x20108 + 64 * n, 0, 16, .ro, 0⟩

/-- VC_CRED of R377, RW; `n` is p. -/
def VC_CRED (n : Nat) : Field := ⟨0x2010C + 64 * n, 0, 12, .rw, 256⟩

/-- CRC_ERR of R377, RO; `n` is p. -/
def CRC_ERR (n : Nat) : Field := ⟨0x20110 + 64 * n, 0, 32, .ro, 0⟩

/-- FEC_CORR of R377, RO; `n` is p. -/
def FEC_CORR (n : Nat) : Field := ⟨0x20114 + 64 * n, 0, 32, .ro, 0⟩

/-- FEC_UNCORR of R377, RO; `n` is p. -/
def FEC_UNCORR (n : Nat) : Field := ⟨0x20118 + 64 * n, 0, 32, .ro, 0⟩

/-- REPLAYS of R377, RO; `n` is p. -/
def REPLAYS (n : Nat) : Field := ⟨0x2011C + 64 * n, 0, 32, .ro, 0⟩

/-- STOPS_SENT of R377, RO; `n` is p. -/
def STOPS_SENT (n : Nat) : Field := ⟨0x20120 + 64 * n, 0, 32, .ro, 0⟩

/-- ROUTE_i of R377, RW; `n` is i. -/
def ROUTE (n : Nat) : Field := ⟨0x30000 + 1 * n, 0, 8, .rw, 31⟩

/-- HWIN_BASE of R406, RW; `n` is p. -/
def HWIN_BASE (n : Nat) : Field := ⟨0x10000 + 64 * n, 0, 64, .rw, 0⟩

/-- BAR4_BASE of R406, RW; `n` is p. -/
def BAR4_BASE (n : Nat) : Field := ⟨0x10008 + 64 * n, 0, 64, .rw, 0⟩

/-- EVT_VEC of R406, RW; `n` is p. -/
def EVT_VEC (n : Nat) : Field := ⟨0x10010 + 64 * n, 0, 6, .rw, 0⟩

/-- EVT_EN of R406, RW; `n` is p. -/
def EVT_EN (n : Nat) : Field := ⟨0x10010 + 64 * n, 6, 1, .rw, 0⟩

/-- BAR4_MISS of R406, W1C; `n` is p. -/
def BAR4_MISS (n : Nat) : Field := ⟨0x10014 + 64 * n, 0, 1, .w1c, 0⟩

/-- LINK_SPEED of R406, RO; `n` is p. -/
def LINK_SPEED (n : Nat) : Field := ⟨0x10018 + 64 * n, 0, 3, .ro, 0⟩

/-- LINK_WIDTH of R406, RO; `n` is p. -/
def LINK_WIDTH (n : Nat) : Field := ⟨0x10018 + 64 * n, 4, 4, .ro, 0⟩

/-- SQ_BASE of R406, RW; `n` is r. -/
def SQ_BASE (n : Nat) : Field := ⟨0x10100 + 64 * n, 0, 64, .rw, 0⟩

/-- CQ_BASE of R406, RW; `n` is r. -/
def CQ_BASE (n : Nat) : Field := ⟨0x10108 + 64 * n, 0, 64, .rw, 0⟩

/-- SIZE_EXP of R406, RW; `n` is r. -/
def SIZE_EXP (n : Nat) : Field := ⟨0x10110 + 64 * n, 0, 5, .rw, 0⟩

/-- PORT of R406, RW; `n` is r. -/
def PORT (n : Nat) : Field := ⟨0x10110 + 64 * n, 5, 1, .rw, 0⟩

/-- CONT_ERR of R406, RW; `n` is r. -/
def CONT_ERR (n : Nat) : Field := ⟨0x10110 + 64 * n, 6, 1, .rw, 0⟩

/-- PRIO of R406, RW; `n` is r. -/
def PRIO (n : Nat) : Field := ⟨0x10110 + 64 * n, 8, 2, .rw, 0⟩

/-- VEC of R406, RW; `n` is r. -/
def VEC (n : Nat) : Field := ⟨0x10110 + 64 * n, 16, 6, .rw, 0⟩

/-- IRQ_ERR of R406, RW; `n` is r. -/
def IRQ_ERR (n : Nat) : Field := ⟨0x10110 + 64 * n, 22, 1, .rw, 1⟩

/-- ENABLE of R406, RW; `n` is r. -/
def ENABLE (n : Nat) : Field := ⟨0x10114 + 64 * n, 0, 1, .rw, 0⟩

/-- RESUME of R406, WO; `n` is r. -/
def RESUME (n : Nat) : Field := ⟨0x10114 + 64 * n, 1, 1, .wo, 0⟩

/-- DB_OVERRUN of R406, W1C; `n` is r. -/
def DB_OVERRUN (n : Nat) : Field := ⟨0x10114 + 64 * n, 2, 1, .w1c, 0⟩

/-- STATE of R406, RO; `n` is r. -/
def RING_STATE (n : Nat) : Field := ⟨0x10114 + 64 * n, 4, 2, .ro, 0⟩

/-- IRQ_HOLDOFF_US of R406, RW; `n` is r. -/
def IRQ_HOLDOFF_US (n : Nat) : Field := ⟨0x10118 + 64 * n, 0, 16, .rw, 0⟩

/-- SQ_TAIL_SEEN of R406, RO; `n` is r. -/
def SQ_TAIL_SEEN (n : Nat) : Field := ⟨0x1011C + 64 * n, 0, 32, .ro, 0⟩

/-- SQ_STARTED of R406, RO; `n` is r. -/
def SQ_STARTED (n : Nat) : Field := ⟨0x10120 + 64 * n, 0, 32, .ro, 0⟩

/-- CQ_POSTED of R406, RO; `n` is r. -/
def CQ_POSTED (n : Nat) : Field := ⟨0x10124 + 64 * n, 0, 32, .ro, 0⟩

/-- CQ_HEAD_SEEN of R406, RO; `n` is r. -/
def CQ_HEAD_SEEN (n : Nat) : Field := ⟨0x10128 + 64 * n, 0, 32, .ro, 0⟩

/-- HALT_INDEX of R406, RO; `n` is r. -/
def HALT_INDEX (n : Nat) : Field := ⟨0x1012C + 64 * n, 0, 16, .ro, 0⟩

/-- FEED_ID of R454, RO. -/
def FEED_ID : Field := ⟨0x6000, 0, 4, .ro, 0⟩

/-- FEED_OVERRIDE of R454, RW. -/
def FEED_OVERRIDE : Field := ⟨0x6000, 8, 1, .rw, 0⟩

/-- PARTNER_ID of R454, RO. -/
def PARTNER_ID : Field := ⟨0x6004, 0, 16, .ro, 65535⟩

/-- TWIN_STATE of R454, RO. -/
def TWIN_STATE : Field := ⟨0x6004, 16, 2, .ro, 0⟩

/-- FILL_ACTIVE of R454, RO. -/
def FILL_ACTIVE : Field := ⟨0x6004, 18, 1, .ro, 0⟩

/-- HEARTBEAT_MS of R454, RW. -/
def HEARTBEAT_MS : Field := ⟨0x6008, 0, 16, .rw, 10⟩

/-- PARTNER_MISS_LIMIT of R454, RW. -/
def PARTNER_MISS_LIMIT : Field := ⟨0x6008, 16, 4, .rw, 3⟩

/-- REG_DIRTY of R454, RO. -/
def REG_DIRTY : Field := ⟨0x600C, 0, 16, .ro, 0⟩

/-- PARTNER_LOST of R454, W1C. -/
def PARTNER_LOST : Field := ⟨0x6010, 0, 1, .w1c, 0⟩

/-- FEED_SHARED of R454, W1C. -/
def FEED_SHARED : Field := ⟨0x6010, 1, 1, .w1c, 0⟩

/-- TWIN_OLD_LINE of R454, W1C. -/
def TWIN_OLD_LINE : Field := ⟨0x6010, 2, 1, .w1c, 0⟩

/-- COMMIT_FAIL of R454, W1C. -/
def COMMIT_FAIL : Field := ⟨0x6010, 3, 1, .w1c, 0⟩

/-- GEN_LOCAL of R454, RO. -/
def GEN_LOCAL : Field := ⟨0x6018, 0, 64, .ro, 0⟩

/-- HOST_BASE of R454, RO. -/
def HOST_BASE : Field := ⟨0x6020, 0, 64, .ro, 0⟩

/-- HOST_SIZE of R454, RO. -/
def HOST_SIZE : Field := ⟨0x6028, 0, 64, .ro, 0⟩

/-- HOSTED_GEN0 of R454, RO. -/
def HOSTED_GEN0 : Field := ⟨0x6030, 0, 64, .ro, 0⟩

/-- HOSTED_GEN1 of R454, RO. -/
def HOSTED_GEN1 : Field := ⟨0x6038, 0, 64, .ro, 0⟩

/-- LAST_HASH of R454, RO. -/
def LAST_HASH : Field := ⟨0x6040, 0, 256, .ro, 0⟩

/-- SNAP_STEP0 of R454, RO. -/
def SNAP_STEP0 : Field := ⟨0x6060, 0, 32, .ro, 0⟩

/-- SNAP_STEP1 of R454, RO. -/
def SNAP_STEP1 : Field := ⟨0x6064, 0, 32, .ro, 0⟩

/-- SNAP_VALID of R454, RO. -/
def SNAP_VALID : Field := ⟨0x6068, 0, 2, .ro, 0⟩

/-- REF_SEL of R483, RW. -/
def REF_SEL : Field := ⟨0x2000, 0, 1, .rw, 0⟩

/-- REF_A_OK of R483, RO. -/
def REF_A_OK : Field := ⟨0x2000, 1, 1, .ro, 0⟩

/-- REF_B_OK of R483, RO. -/
def REF_B_OK : Field := ⟨0x2000, 2, 1, .ro, 0⟩

/-- COASTING of R483, RO. -/
def COASTING : Field := ⟨0x2000, 3, 1, .ro, 0⟩

/-- PWR_REQ of R483, RW. -/
def PWR_REQ : Field := ⟨0x2004, 0, 2, .rw, 0⟩

/-- PWR_STATE of R483, RO. -/
def PWR_STATE : Field := ⟨0x2004, 4, 2, .ro, 0⟩

/-- SLEEP_DRAIN_MS of R483, RW. -/
def SLEEP_DRAIN_MS : Field := ⟨0x2004, 8, 8, .rw, 100⟩

/-- RAMP_LEN of R483, RW. -/
def RAMP_LEN : Field := ⟨0x2008, 0, 3, .rw, 2⟩

/-- CAL_STALE of R483, RO. -/
def CAL_STALE : Field := ⟨0x200C, 0, 1, .ro, 1⟩

/-- PWR_WARN of R483, RO. -/
def PWR_WARN : Field := ⟨0x200C, 1, 1, .ro, 0⟩

/-- NV_INHIBIT of R483, RO. -/
def NV_INHIBIT : Field := ⟨0x200C, 2, 1, .ro, 0⟩

/-- CLK_COAST of R483, W1C. -/
def CLK_COAST : Field := ⟨0x2010, 0, 1, .w1c, 0⟩

/-- SAG_SEEN of R483, W1C. -/
def SAG_SEEN : Field := ⟨0x2010, 1, 1, .w1c, 0⟩

/-- NV_ABORTED of R483, W1C. -/
def NV_ABORTED : Field := ⟨0x2010, 2, 1, .w1c, 0⟩

/-- THERM_THROTTLED of R483, W1C. -/
def THERM_THROTTLED : Field := ⟨0x2010, 3, 1, .w1c, 0⟩

/-- RETRIM_OVERDUE of R483, W1C. -/
def RETRIM_OVERDUE : Field := ⟨0x2010, 4, 1, .w1c, 0⟩

/-- RETRIM_PERIOD_S of R483, RW. -/
def RETRIM_PERIOD_S : Field := ⟨0x2014, 0, 16, .rw, 600⟩

/-- RETRIM_DUE of R483, RO. -/
def RETRIM_DUE : Field := ⟨0x2014, 16, 8, .ro, 0⟩

/-- LOAD_NOW of R483, RO. -/
def LOAD_NOW : Field := ⟨0x2018, 0, 8, .ro, 0⟩

/-- RUN_LOAD of R483, RO. -/
def RUN_LOAD : Field := ⟨0x2018, 8, 8, .ro, 0⟩

/-- HOT_LOAD of R483, RO. -/
def HOT_LOAD : Field := ⟨0x2018, 16, 8, .ro, 0⟩

/-- INPUT_CV of R483, RO. -/
def INPUT_CV : Field := ⟨0x201C, 0, 16, .ro, 0⟩

/-- MOD_POWER_W of R483, RO. -/
def MOD_POWER_W : Field := ⟨0x201C, 16, 16, .ro, 0⟩

/-- CORE_MULT of R483, RW; `n` is d. -/
def CORE_MULT (n : Nat) : Field := ⟨0x2020 + 8 * n, 0, 6, .rw, 36⟩

/-- MULT_NOW of R483, RO; `n` is d. -/
def MULT_NOW (n : Nat) : Field := ⟨0x2020 + 8 * n, 8, 6, .ro, 4⟩

/-- DIE_PWR_CAP of R483, RW; `n` is d. -/
def DIE_PWR_CAP (n : Nat) : Field := ⟨0x2020 + 8 * n, 16, 16, .rw, 0⟩

/-- DIE_TEMP_C of R483, RO; `n` is d. -/
def DIE_TEMP_C (n : Nat) : Field := ⟨0x2024 + 8 * n, 0, 8, .ro, 0⟩

/-- DIE_POWER_W of R483, RO; `n` is d. -/
def DIE_POWER_W (n : Nat) : Field := ⟨0x2024 + 8 * n, 16, 16, .ro, 0⟩

/-- IMG_INCOMPLETE of R501, RO. -/
def IMG_INCOMPLETE : Field := ⟨0x3000, 0, 1, .ro, 0⟩

/-- RECOVERY of R501, RO. -/
def RECOVERY : Field := ⟨0x3000, 1, 1, .ro, 0⟩

/-- RECOVER_NEXT of R501, RW. -/
def RECOVER_NEXT : Field := ⟨0x3000, 2, 1, .rw, 0⟩

/-- FW_VER_RUN of R501, RO. -/
def FW_VER_RUN : Field := ⟨0x3004, 0, 32, .ro, 0⟩

/-- FW_VER_STORED of R501, RO. -/
def FW_VER_STORED : Field := ⟨0x3008, 0, 32, .ro, 0⟩

/-- SVN_COUNTER of R501, RO. -/
def SVN_COUNTER : Field := ⟨0x300C, 0, 7, .ro, 0⟩

/-- SVN_RUN of R501, RO. -/
def SVN_RUN : Field := ⟨0x300C, 8, 7, .ro, 0⟩

/-- SVN_STORED of R501, RO. -/
def SVN_STORED : Field := ⟨0x300C, 16, 7, .ro, 0⟩

/-- OWNER_STATE of R501, RO. -/
def OWNER_STATE : Field := ⟨0x3010, 0, 6, .ro, 0⟩

/-- VENDOR_REVOKED of R501, RO. -/
def VENDOR_REVOKED : Field := ⟨0x3010, 8, 4, .ro, 0⟩

/-- CORE_SPARES_LEFT of R501, RO. -/
def CORE_SPARES_LEFT : Field := ⟨0x3010, 16, 8, .ro, 0⟩

/-- SEC_FAIL of R501, W1C. -/
def SEC_FAIL : Field := ⟨0x3014, 0, 1, .w1c, 0⟩

/-- IMG_WOULD_FAIL of R501, W1C. -/
def IMG_WOULD_FAIL : Field := ⟨0x3014, 1, 1, .w1c, 0⟩

/-- CORE_SPARED of R501, W1C. -/
def CORE_SPARED : Field := ⟨0x3014, 2, 1, .w1c, 0⟩

/-- DEVICE_UID of R501, RO. -/
def DEVICE_UID : Field := ⟨0x3020, 0, 128, .ro, 0⟩

/-- REC_LEN of R501, RW. -/
def REC_LEN : Field := ⟨0x3040, 0, 32, .rw, 0⟩

/-- REC_GO of R501, WO. -/
def REC_GO : Field := ⟨0x3044, 0, 1, .wo, 0⟩

/-- REC_STATUS of R501, RO. -/
def REC_STATUS : Field := ⟨0x3048, 0, 16, .ro, 0⟩

/-- REC_DONE of R501, RO. -/
def REC_DONE : Field := ⟨0x3048, 16, 1, .ro, 0⟩

/-- OWNER_KEYs of R501, RO; `n` is s. -/
def OWNER_KEY (n : Nat) : Field := ⟨0x3100 + 64 * n, 0, 512, .ro, 0⟩

/-- VENDOR_KEYv of R501, RO; `n` is v. -/
def VENDOR_KEY (n : Nat) : Field := ⟨0x3200 + 64 * n, 0, 512, .ro, 0⟩

/-- NEWEST_SEQ of R515, RO. -/
def NEWEST_SEQ : Field := ⟨0x4000, 0, 32, .ro, 0⟩

/-- OLDEST_SEQ of R515, RO. -/
def OLDEST_SEQ : Field := ⟨0x4004, 0, 32, .ro, 0⟩

/-- POWER_CYCLES of R515, RO. -/
def POWER_CYCLES : Field := ⟨0x4008, 0, 32, .ro, 0⟩

/-- OP_TIME_MS of R515, RO. -/
def OP_TIME_MS : Field := ⟨0x4010, 0, 64, .ro, 0⟩

/-- HOST_CURSOR of R515, RW. -/
def HOST_CURSOR : Field := ⟨0x4018, 0, 32, .rw, 0⟩

/-- SB_CURSOR of R515, RO. -/
def SB_CURSOR : Field := ⟨0x401C, 0, 32, .ro, 0⟩

/-- WIN_READY of R515, RO. -/
def WIN_READY : Field := ⟨0x4020, 0, 1, .ro, 0⟩

/-- SB_WIN_READY of R515, RO. -/
def SB_WIN_READY : Field := ⟨0x4020, 1, 1, .ro, 0⟩

/-- NV_MIN_SEV of R515, RW. -/
def NV_MIN_SEV : Field := ⟨0x4020, 4, 3, .rw, 1⟩

/-- EVT_MIN_SEV of R515, RW. -/
def EVT_MIN_SEV : Field := ⟨0x4020, 8, 3, .rw, 3⟩

/-- EVT_HOLDOFF_US of R515, RW. -/
def EVT_HOLDOFF_US : Field := ⟨0x4024, 0, 16, .rw, 100⟩

/-- BUF_PENDING of R515, RO. -/
def BUF_PENDING : Field := ⟨0x4028, 0, 13, .ro, 0⟩

/-- LOG_DROPPED of R515, W1C. -/
def LOG_DROPPED : Field := ⟨0x402C, 0, 1, .w1c, 0⟩

/-- DROPPED_SEVs of R515, RO; `n` is s. -/
def DROPPED_SEV (n : Nat) : Field := ⟨0x4030 + 4 * n, 0, 32, .ro, 0⟩

/-- EVT_SEV of R515, W1C. -/
def EVT_SEV : Field := ⟨0x4044, 0, 1, .w1c, 0⟩

/-- EVT_PARTNER of R515, W1C. -/
def EVT_PARTNER : Field := ⟨0x4044, 1, 1, .w1c, 0⟩

/-- EVT_COAST of R515, W1C. -/
def EVT_COAST : Field := ⟨0x4044, 2, 1, .w1c, 0⟩

/-- EVT_SAG_ON of R515, W1C. -/
def EVT_SAG_ON : Field := ⟨0x4044, 3, 1, .w1c, 0⟩

/-- EVT_SAG_OFF of R515, W1C. -/
def EVT_SAG_OFF : Field := ⟨0x4044, 4, 1, .w1c, 0⟩

/-- STICKY_SUM of R515, RO. -/
def STICKY_SUM : Field := ⟨0x4048, 0, 9, .ro, 0⟩

/-- DEVICE_ID of R536, RO. -/
def DEVICE_ID : Field := ⟨0x0, 0, 16, .ro, 23648⟩

/-- SILICON_STEP of R536, RO. -/
def SILICON_STEP : Field := ⟨0x0, 16, 8, .ro, 1⟩

/-- CORES of R536, RO. -/
def CORES : Field := ⟨0x4, 0, 8, .ro, 0⟩

/-- CORES_PER_DIE of R536, RO. -/
def CORES_PER_DIE : Field := ⟨0x4, 8, 8, .ro, 0⟩

/-- SLOT_ID of R536, RO. -/
def SLOT_ID : Field := ⟨0x4, 16, 6, .ro, 0⟩

/-- CORE_PRESENT_0 of R536, RO. -/
def CORE_PRESENT_0 : Field := ⟨0x8, 0, 32, .ro, 0⟩

/-- CORE_PRESENT_1 of R536, RO. -/
def CORE_PRESENT_1 : Field := ⟨0xC, 0, 32, .ro, 0⟩

/-- CORE_PRESENT_2 of R536, RO. -/
def CORE_PRESENT_2 : Field := ⟨0x10, 0, 32, .ro, 0⟩

/-- ADECIA_MAJOR of R536, RO. -/
def ADECIA_MAJOR : Field := ⟨0x14, 0, 8, .ro, 3⟩

/-- ADECIA_MINOR of R536, RO. -/
def ADECIA_MINOR : Field := ⟨0x14, 8, 8, .ro, 0⟩

/-- TRANSLATOR_VER of R536, RO. -/
def TRANSLATOR_VER : Field := ⟨0x18, 0, 32, .ro, 0⟩

/-- SFU_SET_VER of R536, RO. -/
def SFU_SET_VER : Field := ⟨0x1C, 0, 32, .ro, 0⟩

/-- PHY_FW_VER of R536, RO. -/
def PHY_FW_VER : Field := ⟨0x20, 0, 32, .ro, 0⟩

/-- PEWTER_VER of R536, RO. -/
def PEWTER_VER : Field := ⟨0x24, 0, 32, .ro, 0⟩

/-- DET_MODE of R537, RW. -/
def DET_MODE : Field := ⟨0x1000, 0, 1, .rw, 0⟩

/-- CFLAGS_ANY of R537, RO. -/
def CFLAGS_ANY : Field := ⟨0x1004, 0, 32, .ro, 0⟩

/-- CORE_STATE of R537, RO; `n` is n. -/
def CORE_STATE (n : Nat) : Field := ⟨0x1100 + 32 * n, 0, 2, .ro, 0⟩

/-- PHYS_CORE of R537, RO; `n` is n. -/
def PHYS_CORE (n : Nat) : Field := ⟨0x1100 + 32 * n, 8, 5, .ro, 0⟩

/-- CFLAGS of R537, W1C; `n` is n. -/
def CFLAGS (n : Nat) : Field := ⟨0x1104 + 32 * n, 0, 32, .w1c, 0⟩

/-- CODE_BASE of R537, RO; `n` is n. -/
def CODE_BASE (n : Nat) : Field := ⟨0x1108 + 32 * n, 0, 64, .ro, 0⟩

/-- CODE_LEN of R537, RO; `n` is n. -/
def CODE_LEN (n : Nat) : Field := ⟨0x1110 + 32 * n, 0, 32, .ro, 0⟩

/-- LAST_STOP_PC of R537, RO; `n` is n. -/
def LAST_STOP_PC (n : Nat) : Field := ⟨0x1114 + 32 * n, 0, 32, .ro, 0⟩

/-- LAST_STOP_REASON of R537, RO; `n` is n. -/
def LAST_STOP_REASON (n : Nat) : Field := ⟨0x1118 + 32 * n, 0, 8, .ro, 0⟩

end F

/-- A row of the register tables: the field numbered `i`, how many there are, and the distance between them. -/
structure RegRow where
  nth    : Nat → Field
  count  : Nat
  stride : Nat

/-- Rows of the register tables, part 0. -/
def regRows0 : List RegRow :=
  [⟨fun _ => F.INGOT_SW_BYTES, 1, 0⟩,
   ⟨fun _ => F.LINK_CLASS_LO, 1, 0⟩,
   ⟨fun _ => F.LINK_CLASS_HI, 1, 0⟩,
   ⟨fun _ => F.SKID_SHORT, 1, 0⟩,
   ⟨fun _ => F.SKID_OVR, 1, 0⟩,
   ⟨fun _ => F.LS_WRITE_LOST, 1, 0⟩,
   ⟨fun _ => F.INGOT_TEST_FAIL, 1, 0⟩,
   ⟨fun _ => F.LS_TEST_FAIL, 1, 0⟩,
   ⟨fun _ => F.COLLIDED_COUNT, 1, 0⟩,
   ⟨fun _ => F.SKID_DROPS, 1, 0⟩,
   ⟨fun _ => F.BGT_INGOT_EN, 1, 0⟩,
   ⟨fun _ => F.BGT_LS_EN, 1, 0⟩,
   ⟨fun _ => F.BGT_PERIOD, 1, 0⟩,
   ⟨F.SPARES_I, 4, 4⟩,
   ⟨fun _ => F.LS_RET_0, 1, 0⟩,
   ⟨fun _ => F.LS_RET_1, 1, 0⟩,
   ⟨fun _ => F.LS_RET_2, 1, 0⟩,
   ⟨fun _ => F.NEAR_TOP_GIB, 1, 0⟩,
   ⟨fun _ => F.SPARES_LEFT, 1, 0⟩,
   ⟨fun _ => F.SWEEPS_QUEUED, 1, 0⟩,
   ⟨fun _ => F.SWEEP_ACTIVE, 1, 0⟩,
   ⟨fun _ => F.SWEEP_PC, 1, 0⟩,
   ⟨fun _ => F.SWEEP_LINES, 1, 0⟩,
   ⟨fun _ => F.REPAIR_AUTO, 1, 0⟩,
   ⟨fun _ => F.REBUILD_GBPS, 1, 0⟩,
   ⟨fun _ => F.CAP_REDUCED, 1, 0⟩,
   ⟨fun _ => F.PC_FAILED, 1, 0⟩,
   ⟨fun _ => F.FAR_FAIL, 1, 0⟩,
   ⟨fun _ => F.NEAR_POISON, 1, 0⟩,
   ⟨fun _ => F.REBUILD_SRC_LOST, 1, 0⟩,
   ⟨fun _ => F.KEEP_LOW, 1, 0⟩,
   ⟨fun _ => F.UE_LIMIT, 1, 0⟩,
   ⟨fun _ => F.CE_LIMIT, 1, 0⟩,
   ⟨fun _ => F.SCRUB_HOURS, 1, 0⟩,
   ⟨fun _ => F.NEAR_CE_COUNT, 1, 0⟩,
   ⟨fun _ => F.NEAR_UE_COUNT, 1, 0⟩,
   ⟨fun _ => F.FAR_CE_COUNT, 1, 0⟩,
   ⟨fun _ => F.FAR_UE_COUNT, 1, 0⟩,
   ⟨fun _ => F.KEEP_WEAR_PCT, 1, 0⟩,
   ⟨fun _ => F.KEEP_RESERVE_PCT, 1, 0⟩]

/-- Rows of the register tables, part 1. -/
def regRows1 : List RegRow :=
  [⟨F.MIR_NEAR, 16, 32⟩,
   ⟨F.MIR_FAR, 16, 32⟩,
   ⟨F.MIR_LEN, 16, 32⟩,
   ⟨F.PC_STATE, 640, 4⟩,
   ⟨F.PC_LOGICAL, 640, 4⟩,
   ⟨fun _ => F.MY_ID, 1, 0⟩,
   ⟨fun _ => F.ACK_TIMEOUT_US, 1, 0⟩,
   ⟨fun _ => F.COLL_TIMEOUT_MS, 1, 0⟩,
   ⟨fun _ => F.LINK_DOWN, 1, 0⟩,
   ⟨fun _ => F.LINK_UP, 1, 0⟩,
   ⟨fun _ => F.ROUTE_DROP, 1, 0⟩,
   ⟨fun _ => F.PKT_DROPPED, 1, 0⟩,
   ⟨F.PORT_EN, 18, 64⟩,
   ⟨F.MAX_SPEED, 18, 64⟩,
   ⟨F.AUTO_RETRAIN, 18, 64⟩,
   ⟨F.RETRAIN, 18, 64⟩,
   ⟨F.LINK_STATE, 18, 64⟩,
   ⟨F.SPEED, 18, 64⟩,
   ⟨F.LOSS_CAUSE, 18, 64⟩,
   ⟨F.NEIGHBOUR_ID, 18, 64⟩,
   ⟨F.RTT_NS, 18, 64⟩,
   ⟨F.VC_CRED, 18, 64⟩,
   ⟨F.CRC_ERR, 18, 64⟩,
   ⟨F.FEC_CORR, 18, 64⟩,
   ⟨F.FEC_UNCORR, 18, 64⟩,
   ⟨F.REPLAYS, 18, 64⟩,
   ⟨F.STOPS_SENT, 18, 64⟩,
   ⟨F.ROUTE, 65536, 1⟩,
   ⟨F.HWIN_BASE, 2, 64⟩,
   ⟨F.BAR4_BASE, 2, 64⟩,
   ⟨F.EVT_VEC, 2, 64⟩,
   ⟨F.EVT_EN, 2, 64⟩,
   ⟨F.BAR4_MISS, 2, 64⟩,
   ⟨F.LINK_SPEED, 2, 64⟩,
   ⟨F.LINK_WIDTH, 2, 64⟩,
   ⟨F.SQ_BASE, 64, 64⟩,
   ⟨F.CQ_BASE, 64, 64⟩,
   ⟨F.SIZE_EXP, 64, 64⟩,
   ⟨F.PORT, 64, 64⟩,
   ⟨F.CONT_ERR, 64, 64⟩]

/-- Rows of the register tables, part 2. -/
def regRows2 : List RegRow :=
  [⟨F.PRIO, 64, 64⟩,
   ⟨F.VEC, 64, 64⟩,
   ⟨F.IRQ_ERR, 64, 64⟩,
   ⟨F.ENABLE, 64, 64⟩,
   ⟨F.RESUME, 64, 64⟩,
   ⟨F.DB_OVERRUN, 64, 64⟩,
   ⟨F.RING_STATE, 64, 64⟩,
   ⟨F.IRQ_HOLDOFF_US, 64, 64⟩,
   ⟨F.SQ_TAIL_SEEN, 64, 64⟩,
   ⟨F.SQ_STARTED, 64, 64⟩,
   ⟨F.CQ_POSTED, 64, 64⟩,
   ⟨F.CQ_HEAD_SEEN, 64, 64⟩,
   ⟨F.HALT_INDEX, 64, 64⟩,
   ⟨fun _ => F.FEED_ID, 1, 0⟩,
   ⟨fun _ => F.FEED_OVERRIDE, 1, 0⟩,
   ⟨fun _ => F.PARTNER_ID, 1, 0⟩,
   ⟨fun _ => F.TWIN_STATE, 1, 0⟩,
   ⟨fun _ => F.FILL_ACTIVE, 1, 0⟩,
   ⟨fun _ => F.HEARTBEAT_MS, 1, 0⟩,
   ⟨fun _ => F.PARTNER_MISS_LIMIT, 1, 0⟩,
   ⟨fun _ => F.REG_DIRTY, 1, 0⟩,
   ⟨fun _ => F.PARTNER_LOST, 1, 0⟩,
   ⟨fun _ => F.FEED_SHARED, 1, 0⟩,
   ⟨fun _ => F.TWIN_OLD_LINE, 1, 0⟩,
   ⟨fun _ => F.COMMIT_FAIL, 1, 0⟩,
   ⟨fun _ => F.GEN_LOCAL, 1, 0⟩,
   ⟨fun _ => F.HOST_BASE, 1, 0⟩,
   ⟨fun _ => F.HOST_SIZE, 1, 0⟩,
   ⟨fun _ => F.HOSTED_GEN0, 1, 0⟩,
   ⟨fun _ => F.HOSTED_GEN1, 1, 0⟩,
   ⟨fun _ => F.LAST_HASH, 1, 0⟩,
   ⟨fun _ => F.SNAP_STEP0, 1, 0⟩,
   ⟨fun _ => F.SNAP_STEP1, 1, 0⟩,
   ⟨fun _ => F.SNAP_VALID, 1, 0⟩,
   ⟨fun _ => F.REF_SEL, 1, 0⟩,
   ⟨fun _ => F.REF_A_OK, 1, 0⟩,
   ⟨fun _ => F.REF_B_OK, 1, 0⟩,
   ⟨fun _ => F.COASTING, 1, 0⟩,
   ⟨fun _ => F.PWR_REQ, 1, 0⟩,
   ⟨fun _ => F.PWR_STATE, 1, 0⟩]

/-- Rows of the register tables, part 3. -/
def regRows3 : List RegRow :=
  [⟨fun _ => F.SLEEP_DRAIN_MS, 1, 0⟩,
   ⟨fun _ => F.RAMP_LEN, 1, 0⟩,
   ⟨fun _ => F.CAL_STALE, 1, 0⟩,
   ⟨fun _ => F.PWR_WARN, 1, 0⟩,
   ⟨fun _ => F.NV_INHIBIT, 1, 0⟩,
   ⟨fun _ => F.CLK_COAST, 1, 0⟩,
   ⟨fun _ => F.SAG_SEEN, 1, 0⟩,
   ⟨fun _ => F.NV_ABORTED, 1, 0⟩,
   ⟨fun _ => F.THERM_THROTTLED, 1, 0⟩,
   ⟨fun _ => F.RETRIM_OVERDUE, 1, 0⟩,
   ⟨fun _ => F.RETRIM_PERIOD_S, 1, 0⟩,
   ⟨fun _ => F.RETRIM_DUE, 1, 0⟩,
   ⟨fun _ => F.LOAD_NOW, 1, 0⟩,
   ⟨fun _ => F.RUN_LOAD, 1, 0⟩,
   ⟨fun _ => F.HOT_LOAD, 1, 0⟩,
   ⟨fun _ => F.INPUT_CV, 1, 0⟩,
   ⟨fun _ => F.MOD_POWER_W, 1, 0⟩,
   ⟨F.CORE_MULT, 4, 8⟩,
   ⟨F.MULT_NOW, 4, 8⟩,
   ⟨F.DIE_PWR_CAP, 4, 8⟩,
   ⟨F.DIE_TEMP_C, 4, 8⟩,
   ⟨F.DIE_POWER_W, 4, 8⟩,
   ⟨fun _ => F.IMG_INCOMPLETE, 1, 0⟩,
   ⟨fun _ => F.RECOVERY, 1, 0⟩,
   ⟨fun _ => F.RECOVER_NEXT, 1, 0⟩,
   ⟨fun _ => F.FW_VER_RUN, 1, 0⟩,
   ⟨fun _ => F.FW_VER_STORED, 1, 0⟩,
   ⟨fun _ => F.SVN_COUNTER, 1, 0⟩,
   ⟨fun _ => F.SVN_RUN, 1, 0⟩,
   ⟨fun _ => F.SVN_STORED, 1, 0⟩,
   ⟨fun _ => F.OWNER_STATE, 1, 0⟩,
   ⟨fun _ => F.VENDOR_REVOKED, 1, 0⟩,
   ⟨fun _ => F.CORE_SPARES_LEFT, 1, 0⟩,
   ⟨fun _ => F.SEC_FAIL, 1, 0⟩,
   ⟨fun _ => F.IMG_WOULD_FAIL, 1, 0⟩,
   ⟨fun _ => F.CORE_SPARED, 1, 0⟩,
   ⟨fun _ => F.DEVICE_UID, 1, 0⟩,
   ⟨fun _ => F.REC_LEN, 1, 0⟩,
   ⟨fun _ => F.REC_GO, 1, 0⟩,
   ⟨fun _ => F.REC_STATUS, 1, 0⟩]

/-- Rows of the register tables, part 4. -/
def regRows4 : List RegRow :=
  [⟨fun _ => F.REC_DONE, 1, 0⟩,
   ⟨F.OWNER_KEY, 3, 64⟩,
   ⟨F.VENDOR_KEY, 4, 64⟩,
   ⟨fun _ => F.NEWEST_SEQ, 1, 0⟩,
   ⟨fun _ => F.OLDEST_SEQ, 1, 0⟩,
   ⟨fun _ => F.POWER_CYCLES, 1, 0⟩,
   ⟨fun _ => F.OP_TIME_MS, 1, 0⟩,
   ⟨fun _ => F.HOST_CURSOR, 1, 0⟩,
   ⟨fun _ => F.SB_CURSOR, 1, 0⟩,
   ⟨fun _ => F.WIN_READY, 1, 0⟩,
   ⟨fun _ => F.SB_WIN_READY, 1, 0⟩,
   ⟨fun _ => F.NV_MIN_SEV, 1, 0⟩,
   ⟨fun _ => F.EVT_MIN_SEV, 1, 0⟩,
   ⟨fun _ => F.EVT_HOLDOFF_US, 1, 0⟩,
   ⟨fun _ => F.BUF_PENDING, 1, 0⟩,
   ⟨fun _ => F.LOG_DROPPED, 1, 0⟩,
   ⟨F.DROPPED_SEV, 5, 4⟩,
   ⟨fun _ => F.EVT_SEV, 1, 0⟩,
   ⟨fun _ => F.EVT_PARTNER, 1, 0⟩,
   ⟨fun _ => F.EVT_COAST, 1, 0⟩,
   ⟨fun _ => F.EVT_SAG_ON, 1, 0⟩,
   ⟨fun _ => F.EVT_SAG_OFF, 1, 0⟩,
   ⟨fun _ => F.STICKY_SUM, 1, 0⟩,
   ⟨fun _ => F.DEVICE_ID, 1, 0⟩,
   ⟨fun _ => F.SILICON_STEP, 1, 0⟩,
   ⟨fun _ => F.CORES, 1, 0⟩,
   ⟨fun _ => F.CORES_PER_DIE, 1, 0⟩,
   ⟨fun _ => F.SLOT_ID, 1, 0⟩,
   ⟨fun _ => F.CORE_PRESENT_0, 1, 0⟩,
   ⟨fun _ => F.CORE_PRESENT_1, 1, 0⟩,
   ⟨fun _ => F.CORE_PRESENT_2, 1, 0⟩,
   ⟨fun _ => F.ADECIA_MAJOR, 1, 0⟩,
   ⟨fun _ => F.ADECIA_MINOR, 1, 0⟩,
   ⟨fun _ => F.TRANSLATOR_VER, 1, 0⟩,
   ⟨fun _ => F.SFU_SET_VER, 1, 0⟩,
   ⟨fun _ => F.PHY_FW_VER, 1, 0⟩,
   ⟨fun _ => F.PEWTER_VER, 1, 0⟩,
   ⟨fun _ => F.DET_MODE, 1, 0⟩,
   ⟨fun _ => F.CFLAGS_ANY, 1, 0⟩,
   ⟨F.CORE_STATE, 96, 32⟩]

/-- Rows of the register tables, part 5. -/
def regRows5 : List RegRow :=
  [⟨F.PHYS_CORE, 96, 32⟩,
   ⟨F.CFLAGS, 96, 32⟩,
   ⟨F.CODE_BASE, 96, 32⟩,
   ⟨F.CODE_LEN, 96, 32⟩,
   ⟨F.LAST_STOP_PC, 96, 32⟩,
   ⟨F.LAST_STOP_REASON, 96, 32⟩]

/-- All rows of the register tables but WINDOW. -/
def regRows : List RegRow := regRows0 ++ regRows1 ++ regRows2 ++ regRows3 ++ regRows4 ++ regRows5

/-- The reserved words inside indexed groups: first offset, distance, number (R406, R537). -/
def reservedWords : List (Nat × Nat × Nat) :=
  [(0x10130, 64, 64),
   (0x10134, 64, 64),
   (0x10138, 64, 64),
   (0x1013C, 64, 64),
   (0x111C, 32, 96)]

/-- The rows' fields that share the 4 B word at BAR0 offset `off` (the route table apart, R535). -/
def fieldsAt (off : Nat) : List Field :=
  regRows.filterMap (fun r =>
    let f0 := r.nth 0
    if off < f0.off then none
    else
      let i := if r.stride = 0 then 0 else (off - f0.off) / r.stride
      let f := r.nth i
      if i < r.count ∧ off < f.off + 4 * ceilDiv (f.lo + f.w) 32 ∧ 4 ≤ r.stride + (if r.stride = 0 then 4 else 0) then some f else none)

/-- Whether the word at `off` is one of the reserved words. -/
def isReservedWord (off : Nat) : Bool :=
  reservedWords.any (fun w =>
    decide (w.1 ≤ off) && decide ((off - w.1) % w.2.1 = 0) && decide ((off - w.1) / w.2.1 < w.2.2))

/-- The bits of the word at `off` that field `f` has there, as a mask. -/
def Field.maskAt (f : Field) (off : Nat) : Nat := ((2 ^ f.w - 1) <<< f.lo) >>> (8 * (off - f.off)) % 2 ^ 32

/-- The bits of the word at `off` that no field covers, where the word has a field or is a reserved word (R12). DESIGN CHOICE (log 66): a
word between a block's fields that no row of a table covers has none, since R530 speaks only of offsets beyond the last field; it reads
0 and ignores writes. -/
def reservedBits (off : Nat) : Nat :=
  if isReservedWord off then 2 ^ 32 - 1
  else match fieldsAt off with
    | [] => 0
    | fs => (2 ^ 32 - 1) ^^^ (fs.foldl (fun m f => m ||| f.maskAt off) 0)

end Sys2Proof.Machine
end

