-- ==== Sys2Proof/Machine/Packets.lean ====
section
/-! DEFINITION. Status codes, packets (R355), and how a packet of this device leaves: its ID, its route and its port (R359 to R362). -/
namespace Sys2Proof.Machine
open Sys2Proof

/-! ### Status codes (R14) -/

/-- A status code. -/
abbrev St := BitVec 16
/-- OK. -/
def stOk : St := 0
/-- ENGINE_ABSENT. -/
def stEngineAbsent : St := 1
/-- ABORTED_AFTER_ERROR. -/
def stAborted : St := 2
/-- MEM_UNCORRECTABLE. -/
def stMemUnc : St := 3
/-- ACCESS_OUT_OF_MAP. -/
def stOutOfMap : St := 4
/-- LINK_LOST. -/
def stLinkLost : St := 5
/-- FILL_ABORTED. -/
def stFillAborted : St := 6
/-- SIGNATURE_BAD. -/
def stSigBad : St := 7
/-- NV_INHIBITED. -/
def stNvInhibited : St := 8
/-- TRANSLATE_FAILED. -/
def stTranslateFailed : St := 9
/-- REPLAY_MISMATCH. -/
def stReplayMismatch : St := 10
/-- COLLIDED. -/
def stCollided : St := 11
/-- BAD_OPCODE. -/
def stBadOpcode : St := 12
/-- CAPACITY_REDUCED. -/
def stCapReduced : St := 13
/-- SCALE_AXIS. -/
def stScaleAxis : St := 14
/-- ROLLBACK_REFUSED. -/
def stRollback : St := 15
/-- Not a code of the device: an access to a host window whose port is in D3hot waits (R385), and its command with it. -/
def stWait : St := 0xFFFF

/-! ### Link ports -/

/-- Link port `p` beside its registers. -/
def Dev.link (d : Dev) (p : Nat) : Link := Tab.get d.links p Link.reset

/-- Puts link port `p` back. -/
def Dev.setLink (d : Dev) (p : Nat) (l : Link) : Dev := { d with links := Tab.set d.links p l Link.reset }

/-- Changes the collective engine's state. -/
def Dev.mapCxe (d : Dev) (f : Cxe → Cxe) : Dev := { d with cxe := f d.cxe }

/-- MY_ID. -/
def Dev.myId (d : Dev) : BitVec 16 := BitVec.ofNat 16 (d.rd F.MY_ID)

/-- Whether the device has an ID (R359). -/
def Dev.hasId (d : Dev) : Bool := d.myId != 0xFFFF

/-- Whether port `p` is up (R377). -/
def Dev.linkUp (d : Dev) (p : Nat) : Bool := d.rd (F.LINK_STATE p) == 2

/-! ### Packets (R355) -/

/-- WRITE. -/
def popWrite : Nat := 1
/-- WRITE_ACK. -/
def popWriteAck : Nat := 2
/-- READ_REQ. -/
def popReadReq : Nat := 3
/-- READ_RESP. -/
def popReadResp : Nat := 4
/-- COLL. -/
def popColl : Nat := 5
/-- READY. -/
def popReady : Nat := 6

/-- The largest data of a packet (R355). -/
def maxData : Nat := 8192

/-- The 32 B header (R355). -/
def Pkt.header (k : Pkt) : List Byte :=
  leBytes 1 (k.pop % 16 + 16 * b2n k.rt) ++ leBytes 1 (k.nh % 16 + 16 * (k.hi % 16)) ++ leBytes 1 (k.ttl % 64) ++ leBytes 1 0 ++
    leBytes 2 k.dst.toNat ++ leBytes 2 k.src.toNat ++ leBytes 8 k.addr ++ leBytes 4 k.len ++ leBytes 4 k.tag.toNat ++
    leBytes 2 k.sq.toNat ++ ((k.route ++ List.replicate 6 0).take 6).flatMap (leBytes 1)

/-- The packet that the bytes of its flits spell (R355). A READ_REQ's LEN is what it asks for, and it carries no data (log 37). -/
def Pkt.parse (vc : Nat) (bs : List Byte) : Pkt where
  vc := vc
  pop := bits (field bs 0 1) 0 4
  rt := bit (field bs 0 1) 4
  nh := min 6 (bits (field bs 1 1) 0 4)
  hi := bits (field bs 1 1) 4 4
  ttl := bits (field bs 2 1) 0 6
  dst := BitVec.ofNat 16 (field bs 4 2)
  src := BitVec.ofNat 16 (field bs 6 2)
  addr := field bs 8 8
  len := min maxData (field bs 0x10 4)
  tag := BitVec.ofNat 32 (field bs 0x14 4)
  sq := BitVec.ofNat 16 (field bs 0x18 2)
  route := (List.range 6).map (fun h => field bs (0x1A + h) 1)
  data := (bs.drop 32).take (min maxData (field bs 0x10 4))

/-- The flits of a packet: from SOP to EOP, 240 B in each (R343, R355). -/
def Pkt.flits (k : Pkt) : List Flit :=
  let cs := chunks 240 (k.header ++ k.data) 64
  cs.zipIdx.map (fun c => (⟨k.vc, c.2 == 0, c.2 + 1 == cs.length, c.1⟩ : Flit))

/-! ### Routing and sending packets (R359 to R362) -/

/-- What routing a packet gives: a port that is up and the packet as it leaves, no route, or a named port that is not up. -/
inductive Route where
  | go (port : Nat) (pkt : Pkt)
  | none
  | down
  deriving DecidableEq, Repr

/-- The port a packet leaves by (R360 to R362). -/
def Dev.route (d : Dev) (k : Pkt) : Route :=
  let via (n : Nat) (k : Pkt) : Route := if 18 ≤ n then .none else if d.linkUp n then .go n k else .down
  if k.rt ∧ k.hi < k.nh then via (k.route.getD k.hi 0xFF) { k with hi := k.hi + 1 } else via (d.rd (F.ROUTE k.dst.toNat)) k

/-- The status of a packet that routing drops (R362). -/
def Route.status (r : Route) : St := match r with | .down => stLinkLost | .none => stOutOfMap | .go _ _ => stOk

/-- Puts a packet behind the flits that wait for a port. -/
def Dev.enqueue (d : Dev) (p : Nat) (k : Pkt) : Dev := d.setLink p { d.link p with txq := (d.link p).txq ++ k.flits }

/-- Delivers a packet to this device's own packet layer (R359). -/
def Dev.deliver (d : Dev) (p : Nat) (k : Pkt) : Dev := d.mapCxe (fun c => { c with inbox := c.inbox ++ [(p, k)] })

/-- Counts a dropped packet (R356, R362). -/
def Dev.pktDropped (d : Dev) : Dev := d.wr F.PKT_DROPPED (satAdd 32 (d.rd F.PKT_DROPPED) 1)

/-- Counts a packet that routing dropped (R362). -/
def Dev.routeDropped (d : Dev) : Dev := d.pktDropped.wr F.ROUTE_DROP 1

/-- Sends a packet of this device: the port it left by, or the status of a packet without a way (R359 to R362, log 37). -/
def Dev.sendPkt (d : Dev) (k : Pkt) : Dev × Except St Nat :=
  if !d.hasId then (d, .error stOutOfMap)
  else if k.dst = d.myId then (d.deliver 18 k, .ok 18)
  else match d.route k with
    | .go p k => (d.enqueue p k, .ok p)
    | r => (d.routeDropped, .error r.status)

/-- Sends a packet whose answer the same command brings: no answer is waited for under its TAG (log 17). Answers the status of a
packet without a way. -/
def Dev.sendNow (d : Dev) (sq : Nat) (dst : BitVec 16) (vc pop addr len : Nat) (data : List Byte) : Dev × St :=
  let x := d.sendPkt ⟨vc, pop, false, 0, 0, 32, dst, d.myId, addr % 2 ^ 64, len, BitVec.ofNat 32 d.cxe.nextTag, BitVec.ofNat 16 sq, [], data⟩
  (x.1.mapCxe (fun c => { c with nextTag := (c.nextTag + 1) % 2 ^ 32 }), match x.2 with | .ok _ => stOk | .error st => st)

end Sys2Proof.Machine
end

