-- ==== Sys2Proof/Machine/Float.lean ====
section
/-! DEFINITION. Number formats, rounding and exact accumulation (chapter "Number formats, rounding and exact accumulation").
A value is held exactly as a sign, an integer and a power of two; only `encodeElem` and the accumulators round or cut. -/
namespace Sys2Proof.Machine
open Sys2Proof

/-- A value of any format: NaN, an infinity, or (−1)^neg · m · 2^e, with a signed zero. -/
inductive FVal where
  | nan
  | inf (neg : Bool)
  | fin (neg : Bool) (m : Nat) (e : Int)
  deriving DecidableEq, Repr

/-- How a floating-point format spends its top encodings (R42). -/
inductive Specials where
  | ieee
  | e4m3
  | none
  deriving DecidableEq, Repr

/-- A floating-point format of R42. -/
structure Fmt where
  eb   : Nat
  mb   : Nat
  bias : Nat
  sp   : Specials
  deriving DecidableEq, Repr

/-- An element format (R42, R43). -/
inductive Elem where
  | flt (f : Fmt)
  | int (bits : Nat)
  deriving DecidableEq, Repr

/-- FP8 E4M3. -/
def fE4M3 : Fmt := ⟨4, 3, 7, .e4m3⟩
/-- FP8 E5M2. -/
def fE5M2 : Fmt := ⟨5, 2, 15, .ieee⟩
/-- FP6 E2M3. -/
def fE2M3 : Fmt := ⟨2, 3, 1, .none⟩
/-- FP6 E3M2. -/
def fE3M2 : Fmt := ⟨3, 2, 3, .none⟩
/-- FP4 E2M1. -/
def fE2M1 : Fmt := ⟨2, 1, 1, .none⟩
/-- BF16. -/
def fBF16 : Fmt := ⟨8, 7, 127, .ieee⟩
/-- FP16. -/
def fFP16 : Fmt := ⟨5, 10, 15, .ieee⟩
/-- FP32. -/
def fFP32 : Fmt := ⟨8, 23, 127, .ieee⟩
/-- FP64. -/
def fFP64 : Fmt := ⟨11, 52, 1023, .ieee⟩

/-- The element format that a 4-bit code names (R185); the reserved codes are read as FP32 (R215). -/
def elemOf (code : Nat) : Elem :=
  match code with
  | 0 => .flt fE4M3
  | 1 => .flt fE5M2
  | 2 => .flt fE2M3
  | 3 => .flt fE3M2
  | 4 => .flt fE2M1
  | 5 => .int 8
  | 6 => .int 4
  | 7 => .flt fBF16
  | 8 => .flt fFP16
  | 10 => .flt fFP64
  | 11 => .int 32
  | _ => .flt fFP32

/-- The width of an element in bits. -/
def Elem.width (e : Elem) : Nat :=
  match e with
  | .flt f => 1 + f.eb + f.mb
  | .int n => n

/-- The width of the element format with code `code`, in bits. -/
def elemBits (code : Nat) : Nat := (elemOf code).width

/-- Whether the code names a format that takes block scales (R215). -/
def isScaled (code : Nat) : Bool := code ≤ 6

/-! ### CFLAGS masks that arithmetic sets (R195) -/

/-- FP_INVALID. -/
def flagInvalid : Nat := 1
/-- FP_OVERFLOW. -/
def flagOverflow : Nat := 2
/-- ACC_LOW. -/
def flagAccLow : Nat := 4

/-! ### Decoding -/

/-- The magnitude bits of the largest finite value (R42). -/
def Fmt.maxMag (f : Fmt) : Nat :=
  match f.sp with
  | .ieee => (2 ^ f.eb - 1) * 2 ^ f.mb - 1
  | .e4m3 => 2 ^ (f.eb + f.mb) - 2
  | .none => 2 ^ (f.eb + f.mb) - 1

/-- The exponent of a subnormal's last place: 1 − bias − mantissa bits. -/
def Fmt.qmin (f : Fmt) : Int := 1 - (f.bias : Int) - (f.mb : Int)

/-- The value of an encoding (R42). -/
def Fmt.decode (f : Fmt) (raw : Nat) : FVal :=
  let neg := bit raw (f.eb + f.mb)
  let mag := raw % 2 ^ (f.eb + f.mb)
  let ex := mag / 2 ^ f.mb
  let ma := mag % 2 ^ f.mb
  if mag > f.maxMag then
    match f.sp with
    | .ieee => if ma = 0 then .inf neg else .nan
    | _ => .nan
  else if ex = 0 then .fin neg ma f.qmin
  else .fin neg (2 ^ f.mb + ma) (f.qmin + (ex - 1 : Nat))

/-- The value of an encoding of an element; an integer element is its integer (R43). -/
def Elem.decode (e : Elem) (raw : Nat) : FVal :=
  match e with
  | .flt f => f.decode raw
  | .int n =>
    let v := signed n raw
    .fin (decide (v < 0)) v.natAbs 0

/-- The value of an integer. -/
def FVal.ofInt (v : Int) : FVal := .fin (decide (v < 0)) v.natAbs 0

/-- +0. -/
def FVal.zero : FVal := .fin false 0 0

/-- The value times 2^k. -/
def FVal.scale (v : FVal) (k : Int) : FVal :=
  match v with
  | .fin n m e => .fin n m (e + k)
  | w => w

/-- An E8M0 scale as an exponent (R43); none for 0xFF. -/
def scaleExp (x : Nat) : Option Int := if x = 0xFF then none else some ((x : Int) - 127)

/-! ### Rounding (R55, R59, R60) -/

/-- A rounding: RM, SAT and the element's random value. -/
structure Rounding where
  rm  : Nat
  sat : Bool
  r   : Nat
  deriving DecidableEq, Repr

/-- Round to nearest, ties to even, without saturation. -/
def rne : Rounding := ⟨0, false, 0⟩

/-- The random value for element index `i` under a seed (R60). -/
def srRandom (seed i : Nat) : Nat :=
  let z0 := (seed + (i + 1) * 0x9E3779B97F4A7C15) % 2 ^ 64
  let z1 := ((z0 ^^^ (z0 >>> 30)) * 0xBF58476D1CE4E5B9) % 2 ^ 64
  let z2 := ((z1 ^^^ (z1 >>> 27)) * 0x94D049BB133111EB) % 2 ^ 64
  let z3 := z2 ^^^ (z2 >>> 31)
  z3 >>> 48

/-- Whether a magnitude with remainder `rem` of 2^s below an integer `k` rounds up (R55, R59). -/
def roundsUp (rd : Rounding) (neg : Bool) (k rem s : Nat) : Bool :=
  match rd.rm with
  | 1 => false
  | 2 => neg && decide (rem ≠ 0)
  | 3 => !neg && decide (rem ≠ 0)
  | 4 => decide (rd.r < (rem * 2 ^ 16) / 2 ^ s)
  | _ => decide (2 * rem > 2 ^ s) || (decide (2 * rem = 2 ^ s) && decide (k % 2 = 1))

/-- `m · 2^e` rounded to an integer multiple of 2^q: the multiple. -/
def roundAt (rd : Rounding) (neg : Bool) (m : Nat) (e q : Int) : Nat :=
  if q ≤ e then m * 2 ^ (e - q).toNat
  else
    let s := (q - e).toNat
    let k := m / 2 ^ s
    let rem := m % 2 ^ s
    if roundsUp rd neg k rem s then k + 1 else k

/-- Magnitude bits of a finite nonzero value rounded with an unbounded exponent; above `maxMag` it overflows. -/
def Fmt.roundMag (f : Fmt) (rd : Rounding) (neg : Bool) (m : Nat) (e : Int) : Nat :=
  if m = 0 then 0
  else
    let q := max (e + (Nat.log2 m : Int) - (f.mb : Int)) f.qmin
    (q - f.qmin).toNat * 2 ^ f.mb + roundAt rd neg m e q

/-- The sign bit of a format. -/
def Fmt.sign (f : Fmt) (neg : Bool) : Nat := if neg then 2 ^ (f.eb + f.mb) else 0

/-- The canonical NaN (R46); FP4 and FP6 hold none and take +0 (R56). -/
def Fmt.nanBits (f : Fmt) : Nat :=
  match f.sp with
  | .ieee => (2 ^ f.eb - 1) * 2 ^ f.mb + 2 ^ (f.mb - 1)
  | .e4m3 => 0x7F
  | .none => 0

/-- Conversion to a floating-point format with one rounding: the encoding and the CFLAGS it sets (R46, R47, R55, R56). -/
def Fmt.encode (f : Fmt) (rd : Rounding) (v : FVal) : Nat × Nat :=
  match v with
  | .nan => (f.nanBits, flagInvalid)
  | .inf n =>
    if f.sp = .ieee ∧ rd.sat = false then (f.sign n + (2 ^ f.eb - 1) * 2 ^ f.mb, 0)
    else (f.sign n + f.maxMag, flagOverflow)
  | .fin n m e =>
    let g := f.roundMag rd n m e
    if g ≤ f.maxMag then (f.sign n + g, 0)
    else if f.sp ≠ .ieee ∨ rd.sat ∨ rd.rm = 1 ∨ (rd.rm = 2 ∧ n = false) ∨ (rd.rm = 3 ∧ n = true) then
      (f.sign n + f.maxMag, flagOverflow)
    else (f.sign n + (2 ^ f.eb - 1) * 2 ^ f.mb, flagOverflow)

/-- The integer a finite value rounds to. -/
def roundInt (rd : Rounding) (n : Bool) (m : Nat) (e : Int) : Int :=
  let k : Int := roundAt rd n m e 0
  if n then -k else k

/-- An integer of `w` bits two's complement. -/
def intBits (w : Nat) (v : Int) : Nat := (BitVec.ofInt w v).toNat

/-- Conversion to a `w`-bit integer: rounds, saturates, a NaN gives 0 (R55, R56). INT32 as INT4 and INT8, DEDUCED (log 27). -/
def encodeInt (w : Nat) (rd : Rounding) (v : FVal) : Nat × Nat :=
  let top : Int := 2 ^ (w - 1) - 1
  match v with
  | .nan => (0, flagInvalid)
  | .inf n => (intBits w (if n then -top - 1 else top), flagOverflow)
  | .fin n m e =>
    let k := roundInt rd n m e
    if k > top then (intBits w top, flagOverflow)
    else if k < -top - 1 then (intBits w (-top - 1), flagOverflow)
    else (intBits w k, 0)

/-- Conversion of a value to an element of a format (R55, R56). -/
def Elem.encode (e : Elem) (rd : Rounding) (v : FVal) : Nat × Nat :=
  match e with
  | .flt f => f.encode rd v
  | .int w => encodeInt w rd v

/-! ### Exact arithmetic on values -/

/-- The negated value. -/
def FVal.neg (v : FVal) : FVal :=
  match v with
  | .nan => .nan
  | .inf n => .inf (!n)
  | .fin n m e => .fin (!n) m e

/-- The absolute value. -/
def FVal.abs (v : FVal) : FVal :=
  match v with
  | .nan => .nan
  | .inf _ => .inf false
  | .fin _ m e => .fin false m e

/-- The exact product; 0 × Inf is invalid (R47). -/
def FVal.mul (a b : FVal) : FVal :=
  match a, b with
  | .nan, _ => .nan
  | _, .nan => .nan
  | .inf n, .inf k => .inf (n != k)
  | .inf n, .fin k m _ => if m = 0 then .nan else .inf (n != k)
  | .fin k m _, .inf n => if m = 0 then .nan else .inf (n != k)
  | .fin n m e, .fin k m' e' => .fin (n != k) (m * m') (e + e')

/-- A signed integer as a value's numerator. -/
def sgn (n : Bool) (m : Nat) : Int := if n then -(m : Int) else (m : Int)

/-- The exact sum; Inf − Inf is invalid (R47). `down` is rounding toward −∞, where an exact zero of unlike signs is −0 (R48). -/
def FVal.add (a b : FVal) (down : Bool := false) : FVal :=
  match a, b with
  | .nan, _ => .nan
  | _, .nan => .nan
  | .inf n, .inf k => if n = k then .inf n else .nan
  | .inf n, .fin _ _ _ => .inf n
  | .fin _ _ _, .inf n => .inf n
  | .fin n m e, .fin k m' e' =>
    let q := min e e'
    let s := sgn n (m * 2 ^ (e - q).toNat) + sgn k (m' * 2 ^ (e' - q).toNat)
    if s = 0 then .fin (if n = k then n else down) 0 q
    else .fin (decide (s < 0)) s.natAbs q

/-- The order of two finite or infinite values: −1, 0 or 1; none if one is a NaN. Zeros are equal. -/
def FVal.cmp (a b : FVal) : Option Int :=
  match a, b with
  | .nan, _ => none
  | _, .nan => none
  | .inf n, .inf k => some (if n = k then 0 else if n then -1 else 1)
  | .inf n, .fin _ _ _ => some (if n then -1 else 1)
  | .fin _ _ _, .inf k => some (if k then 1 else -1)
  | .fin n m e, .fin k m' e' =>
    let q := min e e'
    let x := sgn n (m * 2 ^ (e - q).toNat)
    let y := sgn k (m' * 2 ^ (e' - q).toNat)
    some (if x < y then -1 else if x = y then 0 else 1)

/-- The bits of a number's square root, from the top bit down. -/
def isqrtGo (n : Nat) (k r : Nat) : Nat :=
  match k with
  | 0 => r
  | j + 1 => if (r + 2 ^ j) * (r + 2 ^ j) ≤ n then isqrtGo n j (r + 2 ^ j) else isqrtGo n j r

/-- The integer square root. -/
def isqrt (n : Nat) : Nat := isqrtGo n (Nat.log2 n / 2 + 1) 0

/-- The quotient, with more bits than any format keeps and the rest as one sticky bit, so that one rounding of it is the rounded
quotient. -/
def FVal.div (a b : FVal) : FVal :=
  match a, b with
  | .nan, _ => .nan
  | _, .nan => .nan
  | .inf _, .inf _ => .nan
  | .inf n, .fin k _ _ => .inf (n != k)
  | .fin n _ _, .inf k => .fin (n != k) 0 0
  | .fin n m e, .fin k m' e' =>
    if m' = 0 then (if m = 0 then .nan else .inf (n != k))
    else
      let s := 128 + Nat.log2 m'
      let q := (m * 2 ^ s) / m'
      let r := (m * 2 ^ s) % m'
      .fin (n != k) (2 * q + (if r = 0 then 0 else 1)) (e - e' - (s : Int) - 1)

/-- The square root, with more bits than any format keeps and a sticky bit; of a negative value it is invalid. -/
def FVal.sqrt (a : FVal) : FVal :=
  match a with
  | .nan => .nan
  | .inf n => if n then .nan else .inf false
  | .fin n m e =>
    if m = 0 then .fin n 0 e
    else if n then .nan
    else
      let s : Nat := 256 + (if e % 2 = 0 then 0 else 1)
      let x := m * 2 ^ s
      let r := isqrt x
      .fin false (2 * r + (if r * r = x then 0 else 1)) ((e - (s : Int)) / 2 - 1)

/-- Rounds a value to a format and gives it back as a value, with the CFLAGS. -/
def FVal.roundTo (v : FVal) (f : Fmt) (rd : Rounding) : FVal × Nat :=
  let r := f.encode rd v
  (f.decode r.1, r.2)

/-- A word holding an FP32, as a value. -/
def f32 (w : Word) : FVal := fFP32.decode w.toNat

/-- A value rounded to FP32 under round to nearest even: the word and the CFLAGS. -/
def toF32 (v : FVal) : Word × Nat :=
  let r := fFP32.encode rne v
  (BitVec.ofNat 32 r.1, r.2)

/-! ### MX blocks (R49 to R58) -/

/-- The largest finite value of an element format as an integer and a power of two; for integers 127 or 7 (R57). -/
def Elem.maxFin (e : Elem) : Nat × Int :=
  match e with
  | .flt f =>
    match f.decode f.maxMag with
    | .fin _ m x => (m, x)
    | _ => (0, 0)
  | .int w => (2 ^ (w - 1) - 1, 0)

/-- Whether |a|/2^X, rounded to nearest even in the element format, exceeds its largest finite value (R57). -/
def Elem.exceeds (e : Elem) (m : Nat) (x : Int) : Bool :=
  match e with
  | .flt f => decide (f.roundMag rne false m x > f.maxMag)
  | .int w => decide ((roundAt rne false m x 0 : Int) > 2 ^ (w - 1) - 1)

/-- The scale exponent X of a block whose largest magnitude is m · 2^x, before clamping (R57 step 1). -/
def Elem.scaleFor (e : Elem) (m : Nat) (x : Int) : Int :=
  let mf := e.maxFin
  let lo := x + (Nat.log2 m : Int) - (mf.2 + (Nat.log2 mf.1 : Int))
  if e.exceeds m (x - lo) then lo + 1 else lo

/-- Whether an element format holds an Inf (R57 step 5). -/
def Elem.hasInf (e : Elem) : Bool :=
  match e with
  | .flt f => decide (f.sp = .ieee)
  | .int _ => false

/-- The larger of two finite magnitudes, given as m and x. -/
def maxMagOf (a b : Nat × Int) : Nat × Int :=
  let q := min a.2 b.2
  if a.1 * 2 ^ (a.2 - q).toNat < b.1 * 2 ^ (b.2 - q).toNat then b else a

/-- One element of a block to convert: its value and its random value; none for a pad or skipped element (R51, R229). -/
abbrev BlockElem := Option (FVal × Nat)

/-- A block converted under R57 and R58: its scale byte, its elements, the CFLAGS set. An element above the largest finite value
saturates where the clamp of step 2 or stochastic rounding takes it there, and otherwise as R55 says for RM and SAT. A block with an
infinity and no finite element but zeros takes X = 0, DEDUCED (R57 steps 3 and 5, log 58). -/
def mxConvert (e : Elem) (rm : Nat) (sat : Bool) (xs : List BlockElem) : Nat × List Nat × Nat :=
  let vals := xs.filterMap (fun o => o.map (·.1))
  let hasNan := vals.any (fun v => v == .nan)
  let hasInf := vals.any (fun v => match v with | .inf _ => true | _ => false)
  if hasNan then (0xFF, xs.map (fun _ => 0), flagInvalid ||| (if hasInf ∧ ¬ e.hasInf then flagOverflow else 0))
  else if hasInf ∧ ¬ e.hasInf then (0xFF, xs.map (fun _ => 0), flagOverflow)
  else
    let top := vals.foldl (fun a v => match v with | .fin _ m x => if m = 0 then a else maxMagOf a (m, x) | _ => a) (0, 0)
    let x0 : Int := if top.1 = 0 then 0 else e.scaleFor top.1 top.2
    let x := max (-127) (min 127 x0)
    let els := xs.map (fun o => match o with
      | none => (0, 0)
      | some (.inf n, r) => ((e.encode ⟨rm, false, r⟩ (.inf n)).1, 0)
      | some (v, r) => e.encode ⟨rm, sat || rm == 4 || decide (127 < x0), r⟩ (v.scale (-x)))
    ((x + 127).toNat, els.map (·.1), els.foldl (fun a p => a ||| p.2) 0)

/-! ### Exact accumulators (R65 to R72) -/

/-- A cleared exact accumulator (R65, R67). -/
def ExAcc.clear (f64 : Bool) (ew : BitVec 16) : ExAcc := ⟨0, false, false, false, false, f64, ew⟩

/-- The weight exponent of bit 0: the window floor (R66, R67). -/
def ExAcc.floorExp (a : ExAcc) : Int := if a.f64 then a.ew.toInt - 595 else -298

/-- The exponent of the window top (R66, R67). -/
def ExAcc.topExp (a : ExAcc) : Int := if a.f64 then a.ew.toInt else 256

/-- Adds one term: a product or an initial value (R65, R68 to R70). Answers the accumulator and the CFLAGS. -/
def ExAcc.add (a : ExAcc) (t : FVal) : ExAcc × Nat :=
  match t with
  | .nan => ({ a with nan := true }, flagInvalid)
  | .inf n => (if n then { a with negInf := true } else { a with posInf := true }, 0)
  | .fin n m e =>
    if m = 0 then (a, 0)
    else if a.topExp ≤ e + (Nat.log2 m : Int) then
      (if n then { a with negInf := true } else { a with posInf := true }, 0)
    else
      let q := a.floorExp
      let k := if q ≤ e then m * 2 ^ (e - q).toNat else m / 2 ^ (q - e).toNat
      let lost := !decide (q ≤ e) && decide (m % 2 ^ (q - e).toNat ≠ 0)
      ({ a with value := a.value + BitVec.ofInt 616 (sgn n k), low := a.low || lost },
       if lost then flagAccLow else 0)

/-- Two exact accumulators combined; the first keeps its MODE and EW (R72). -/
def ExAcc.combine (a b : ExAcc) : ExAcc :=
  let same := a.f64 == b.f64 && (!a.f64 || a.ew == b.ew)
  { a with
    value := if same then a.value + b.value else 0
    nan := a.nan || b.nan || !same
    posInf := a.posInf || b.posInf
    negInf := a.negInf || b.negInf
    low := a.low || b.low }

/-- The value read-out rounds (R71). -/
def ExAcc.toFVal (a : ExAcc) : FVal :=
  if a.nan ∨ (a.posInf ∧ a.negInf) then .nan
  else if a.posInf then .inf false
  else if a.negInf then .inf true
  else
    let v := a.value.toInt
    if v = 0 then FVal.zero else .fin (decide (v < 0)) v.natAbs a.floorExp

/-- Read-out: an infinity of rule 2 is written as it is, whatever SAT holds; the rest is one rounding (R71). -/
def ExAcc.readOut (a : ExAcc) (f : Fmt) (rd : Rounding) : Nat × Nat :=
  match a.toFVal with
  | .inf n => f.encode rne (.inf n)
  | v => f.encode rd v

/-- The 80-byte form (R65). -/
def ExAcc.toBytes (a : ExAcc) : List Byte :=
  leBytes 77 a.value.toNat ++
  leBytes 1 (b2n a.nan + 2 * b2n a.posInf + 4 * b2n a.negInf + 8 * b2n a.low + 16 * b2n a.f64) ++
  leBytes 2 a.ew.toNat

/-- The accumulator that 80 bytes spell (R65). -/
def ExAcc.ofBytes (bs : List Byte) : ExAcc :=
  let fl := field bs 0x4D 1
  ⟨BitVec.ofNat 616 (field bs 0 77), bit fl 0, bit fl 1, bit fl 2, bit fl 3, bit fl 4, BitVec.ofNat 16 (field bs 0x4E 2)⟩

end Sys2Proof.Machine
end

