-- ==== Sys2Proof/Machine/Tensor.lean ====
section
/-! DEFINITION. Tensor descriptors: their fields, the arithmetic from an index to an address, scales, pad and sharding (chapter
"Tensor descriptors and layout copies"). -/
namespace Sys2Proof.Machine
open Sys2Proof

/-- The sharding of one dimension (R223). -/
structure Shard where
  gsize  : Nat
  mode   : Nat
  parts  : Nat
  index  : Nat
  cblock : Nat
  deriving DecidableEq, Repr

/-- A tensor descriptor (R208): sizes and byte strides of the dimensions below the rank, strides modulo 2^64. -/
structure TDesc where
  fmt       : Nat
  rank      : Nat
  tr        : Bool
  scale     : Nat
  sharded   : Bool
  base      : Nat
  scaleBase : Nat
  sizes     : List Nat
  strides   : List Nat
  shards    : List Shard
  deriving DecidableEq, Repr

/-- RANK, with 9 to 15 read as 8 (R208). -/
def rankOf (v : Nat) : Nat := min (v % 16) 8

/-- The SHARDED bit of a descriptor's first 128 B (R208). -/
def TDesc.isSharded (bs : List Byte) : Bool := bit (field bs 2 1) 3

/-- The descriptor that 128 or 256 bytes spell (R208, R223). -/
def TDesc.parse (bs : List Byte) : TDesc :=
  let b2 := field bs 2 1
  let rank := rankOf (field bs 1 1)
  let sc := bits b2 1 2
  ⟨field bs 0 1 % 16, rank, bit b2 0, if sc = 3 then 0 else sc, bit b2 3, field bs 0x08 8, field bs 0x10 8,
   (List.range rank).map (fun i => field bs (0x20 + 4 * i) 4),
   (List.range rank).map (fun i => if i = 0 then 0 else field bs (0x40 + 8 * i) 8),
   if bit b2 3 then (List.range 8).map (fun i =>
     let m := field bs (0xC0 + 8 * i) 1 % 4
     ⟨field bs (0x80 + 8 * i) 8, if m = 3 then 0 else m, field bs (0xC2 + 8 * i) 2, field bs (0xC4 + 8 * i) 2,
      field bs (0xC6 + 8 * i) 2⟩)
   else []⟩

/-- The storage size of dimension `i`; 1 beyond the rank. -/
def TDesc.size (d : TDesc) (i : Nat) : Nat := d.sizes.getD i 1

/-- Whether a size below the rank is 0 (R220). -/
def TDesc.empty (d : TDesc) : Bool := d.sizes.any (fun n => n == 0)

/-- The block scaling in force for an element format: 0 none, 1 ordinary, 2 square-block (R213, R215). -/
def TDesc.scaling (d : TDesc) (fmt : Nat) : Nat :=
  if isScaled fmt then (if d.scale = 2 ∧ d.rank < 2 then 1 else d.scale) else 0

/-- The block scaling that the MXA takes from a slot: none for integers (R64, R215). -/
def TDesc.mxaScaling (d : TDesc) (fmt : Nat) : Nat := if fmt = 5 ∨ fmt = 6 then 0 else d.scaling fmt

/-- The block scaling of an MMA's A or B: none where the slot names no scale array, SA or SB = 0 (R52, R82, R190). -/
def TDesc.operandScaling (d : TDesc) (fmt : Nat) : Nat := if d.scaleBase = 0 then 0 else d.mxaScaling fmt

/-- The storage position of a logical index under transposition `t` (R211). -/
def TDesc.storage (d : TDesc) (t : Bool) (x : List Nat) : List Nat :=
  let s := (List.range d.rank).map (fun i => x.getD i 0)
  match t && decide (d.rank ≥ 2), s with
  | true, a :: b :: r => b :: a :: r
  | _, s => s

/-- Where an element lies: the address of its bytes, how many, its lowest bit in them, its width. -/
structure Loc where
  addr : Nat
  n    : Nat
  lo   : Nat
  w    : Nat
  deriving DecidableEq, Repr

/-- The bytes of an element at position `s0` of a dense row that starts at `base` (R44, R210, R211). -/
def rowLoc (fmt base s0 : Nat) : Loc :=
  match elemBits fmt with
  | 4 => ⟨(base + s0 / 2) % 2 ^ 64, 1, 4 * (s0 % 2), 4⟩
  | 6 => ⟨(base + s0 / 4 * 3) % 2 ^ 64, 3, 6 * (s0 % 4), 6⟩
  | w => ⟨(base + s0 * (w / 8)) % 2 ^ 64, w / 8, 0, w⟩

/-- The address where the row of a storage position starts, modulo 2^64 (R211, R212). -/
def TDesc.rowBase (d : TDesc) (s : List Nat) : Nat :=
  (((s.drop 1).zip (d.strides.drop 1)).foldl (fun a p => a + p.1 * p.2) d.base) % 2 ^ 64

/-- Where the element at a storage position lies, coded in format `fmt` (R211). -/
def TDesc.locS (d : TDesc) (fmt : Nat) (s : List Nat) : Loc := rowLoc fmt (d.rowBase s) (s.getD 0 0)

/-- Where the element at a logical index lies (R211). -/
def TDesc.loc (d : TDesc) (fmt : Nat) (t : Bool) (x : List Nat) : Loc := d.locS fmt (d.storage t x)

/-- The linear index s[i] + SIZEi · (s[i+1] + …) over the dimensions from `i` on. -/
def linearFrom (sizes s : List Nat) : Nat :=
  match sizes, s with
  | n :: ns, x :: xs => x + n * linearFrom ns xs
  | _, _ => 0

/-- The number of the scale byte of a storage position (R213). -/
def TDesc.scaleIndex (d : TDesc) (mode : Nat) (s : List Nat) : Nat :=
  if d.rank = 0 then 0
  else if mode = 2 then
    let tc := ceilDiv (d.size 0) 32
    let tr := ceilDiv (d.size 1) 32
    s.getD 0 0 / 32 + tc * (s.getD 1 0 / 32) + tc * tr * linearFrom (d.sizes.drop 2) (s.drop 2)
  else s.getD 0 0 / 32 + ceilDiv (d.size 0) 32 * linearFrom (d.sizes.drop 1) (s.drop 1)

/-- The address of the scale byte of a storage position (R213). -/
def TDesc.scaleAddr (d : TDesc) (mode : Nat) (s : List Nat) : Nat := (d.scaleBase + d.scaleIndex mode s) % 2 ^ 64

/-- Whether a storage position is pad (R214). -/
def TDesc.isPad (d : TDesc) (mode : Nat) (s : List Nat) : Bool :=
  mode != 0 && decide (d.rank ≥ 1) && (decide (s.getD 0 0 ≥ d.size 0) || (decide (mode = 2) && decide (s.getD 1 0 ≥ d.size 1)))

/-- The raw encoding of an element in the bytes of its location. -/
def Loc.extract (l : Loc) (bs : List Byte) : Nat := bits (leNat bs) l.lo l.w

/-- The bytes of a location with an element's encoding put into them. -/
def Loc.insert (l : Loc) (bs : List Byte) (raw : Nat) : List Byte :=
  let v := leNat bs
  leBytes l.n (v % 2 ^ l.lo + (raw % 2 ^ l.w) * 2 ^ l.lo + (v / 2 ^ (l.lo + l.w)) * 2 ^ (l.lo + l.w))

/-- The value of an element with its scale byte (R49, R50); without one every scale is 2^0 (R52). -/
def scaledValue (fmt raw : Nat) (scale : Option Nat) : FVal :=
  match scale with
  | none => (elemOf fmt).decode raw
  | some x => match scaleExp x with
    | none => .nan
    | some k => ((elemOf fmt).decode raw).scale k

/-! ### Sharding (R224) -/

/-- Whether the shard holds something along the dimension. -/
def Shard.holds (h : Shard) : Bool :=
  match h.mode with
  | 0 => true
  | 1 => decide (h.parts ≠ 0) && decide (h.index < h.parts)
  | _ => decide (h.parts ≠ 0) && decide (h.cblock ≠ 0) && decide (h.index < h.parts)

/-- The global index of a local index, where it has one (R224). -/
def Shard.global (h : Shard) (l : Nat) : Option Nat :=
  if h.holds then
    let g := match h.mode with
      | 0 => l
      | 1 => h.index * ceilDiv h.gsize h.parts + l
      | _ => (l / h.cblock * h.parts + h.index) * h.cblock + l % h.cblock
    if g < h.gsize then some g else none
  else none

/-- The local index of a global index, where the shard holds it (R224). -/
def Shard.ofGlobal (h : Shard) (g : Nat) : Option Nat :=
  if h.holds ∧ g < h.gsize then
    match h.mode with
    | 0 => some g
    | 1 =>
      let c := ceilDiv h.gsize h.parts
      if h.index * c ≤ g ∧ g < (h.index + 1) * c then some (g - h.index * c) else none
    | _ => if g / h.cblock % h.parts = h.index then some (g / (h.cblock * h.parts) * h.cblock + g % h.cblock) else none
  else none

/-- The shard of dimension `i`; beyond the listed ones, a whole dimension of size 1. -/
def TDesc.shard (d : TDesc) (i : Nat) : Shard := d.shards.getD i ⟨1, 0, 0, 0, 0⟩

/-- All of a list's entries, where each has one. -/
def allSome (xs : List (Option Nat)) : Option (List Nat) :=
  match xs with
  | [] => some []
  | none :: _ => none
  | some x :: r => (allSome r).map (fun t => x :: t)

/-- The global index of a logical local index, where every dimension below the rank has one (R224). -/
def TDesc.globalIndex (d : TDesc) (x : List Nat) : Option (List Nat) :=
  allSome ((List.range d.rank).map (fun i => (d.shard i).global (x.getD i 0)))

/-- The global linear index (R224). -/
def TDesc.globalLinear (d : TDesc) (g : List Nat) : Nat :=
  linearFrom ((List.range d.rank).map (fun i => (d.shard i).gsize)) g

end Sys2Proof.Machine
end

