-- ==== Sys2Proof/Machine/Ops.lean ====
section
/-! DEFINITION. The shared operations of the block: host ports and messages, event records, cores, and the
accesses to its memories. -/
namespace Sys2Proof.Machine
open Sys2Proof

/-! ### Grades and cores (R2, R22) -/

/-- Enabled cores on each die (R2). -/
def Dev.perDie (d : Dev) : Nat := match d.fuses.grade with | .skv96 => 24 | .skv80 => 20

/-- Enabled cores of the device (R2). -/
def Dev.coreCount (d : Dev) : Nat := 4 * d.perDie

/-- Whether logical core `n` is present (R2). -/
def Dev.present (d : Dev) (n : Nat) : Bool := decide (n < d.coreCount)

/-- The compute die of logical core `n` (R2). -/
def Dev.dieOf (d : Dev) (n : Nat) : Nat := n / d.perDie

/-- Core `n`. -/
def Dev.core (d : Dev) (n : Nat) : Core := Tab.get d.cores n Core.reset

/-- Puts core `n` back. -/
def Dev.setCore (d : Dev) (n : Nat) (c : Core) : Dev := { d with cores := Tab.set d.cores n c Core.reset }

/-- The physical core on its die that serves logical core `n`; 0 in the state stands for the initial place n mod the die's cores,
and k + 1 for a spare k (log 1). -/
def Dev.physCore (d : Dev) (n : Nat) : Nat := if (d.core n).phys = 0 then n % d.perDie else (d.core n).phys - 1

/-! ### Rings and free values -/

/-- Ring `r`'s state beside its registers. -/
def Dev.ring (d : Dev) (r : Nat) : Ring := Tab.get d.rings r Ring.reset

/-- Puts ring `r` back. -/
def Dev.setRing (d : Dev) (r : Nat) (x : Ring) : Dev := { d with rings := Tab.set d.rings r x Ring.reset }

/-- Draws a free value (log 6). -/
def Dev.draw (d : Dev) : Nat × Dev := (Config.freeBits d.free, { d with free := d.free + 1 })

/-! ### Host ports: writes, records and messages (R383, R401, R404) -/

/-- The state of a port beside its registers. -/
def Dev.port (d : Dev) (p : PciePort) : Port := match p with | .a => d.portA | .b => d.portB

/-- Puts a port back. -/
def Dev.setPort (d : Dev) (p : PciePort) (x : Port) : Dev := match p with | .a => { d with portA := x } | .b => { d with portB := x }

/-- 0 for port A, 1 for port B (R406). -/
def pnum (p : PciePort) : Nat := match p with | .a => 0 | .b => 1

/-- The port of a number. -/
def portOfNat (n : Nat) : PciePort := if n = 0 then .a else .b

/-- The other port. -/
def otherPort (p : PciePort) : PciePort := match p with | .a => .b | .b => .a

/-- Whether a port's PCIe link is up: trained and not in reset (R383, R406). -/
def Dev.pcieUp (d : Dev) (p : PciePort) : Bool := decide (d.rd (F.LINK_SPEED (pnum p)) ≠ 0) && !(d.port p).perst

/-- The memory behind a port. -/
def Dev.hostMem (d : Dev) (p : PciePort) : List Host.Cell := match p with | .a => d.env.memA | .b => d.env.memB

/-- Writes a byte string into a byte table. -/
def putBytes (t : List Host.Cell) (a : Nat) (bs : List Byte) : List Host.Cell :=
  match bs with
  | [] => t
  | b :: r => putBytes (Tab.set t a b 0) (a + 1) r

/-- Reads a byte string from a byte table; an unlisted byte is 0 (log 3). -/
def getBytes (t : List Host.Cell) (a n : Nat) : List Byte := (List.range n).map (fun i => Tab.get t (a + i) 0)

/-- The bytes of a host's memory, whose addresses wrap at 2^64 (R383). -/
def hostBytes (t : List Host.Cell) (a n : Nat) : List Byte := (List.range n).map (fun i => Tab.get t ((a + i) % 2 ^ 64) 0)

/-- Bytes landing in a host's memory. -/
def Dev.hostLand (d : Dev) (p : PciePort) (a : Nat) (bs : List Byte) : Dev :=
  match p with
  | .a => { d with env := { d.env with memA := putBytes d.env.memA a bs } }
  | .b => { d with env := { d.env with memB := putBytes d.env.memB a bs } }

/-- Issues a request on a port, in order (R411); a write leaves the address of its last byte for flush reads (R420, log 63). -/
def Dev.issue (d : Dev) (p : PciePort) (o : PortOut) : Dev :=
  let q := d.port p
  let d := d.setPort p { q with out := q.out ++ [o], lastAddr := match o with
    | .write a bs _ => some ((a + (bs.length - 1)) % 2 ^ 64)
    | _ => q.lastAddr }
  match o with
  | .write a bs _ => d.hostLand p a bs
  | .record _ a bs => d.hostLand p a bs
  | _ => d

/-- Sends a request toward a host: held while the port is in D3hot (R385), discarded while its link is down (R383). -/
def Dev.emit (d : Dev) (p : PciePort) (o : PortOut) : Dev :=
  let q := d.port p
  if !d.pcieUp p then d
  else if q.d3hot then d.setPort p { q with waiting := q.waiting ++ [o] }
  else d.issue p o

/-- The bytes of a source queue's writes that wait at the ports (R245, R385). -/
def Dev.waitingBytes (d : Dev) (sq : Nat) : Nat :=
  (d.portA.waiting ++ d.portB.waiting).foldl (fun n o => match o with
    | .write _ bs q => if q = sq then n + bs.length else n
    | _ => n) 0

/-- Raises an MSI-X vector: a message, or the pending bit where the vector is masked or MSI-X is off (R404). -/
def Dev.raiseVec (d : Dev) (p : PciePort) (v : Nat) : Dev :=
  let q := d.port p
  let e := Tab.get q.msix v MsixEntry.reset
  if q.perst then d
  else if !q.msixOn || q.funcMask || e.masked then d.setPort p { q with pba := q.pba ||| BitVec.ofNat 64 (2 ^ v) }
  else d.emit p (.msix v e.addr.toNat e.data.toNat)

/-! ### Event records (R502 to R514) -/

/-- The sequence number after `s`: 0 is never used (R503). -/
def nextSeq (s : Word) : Word := if s = 0xFFFFFFFF then 1 else s + 1

/-- Whether NV_INHIBIT is set (R473). -/
def Dev.nvInhibit (d : Dev) : Bool := decide (d.rd F.NV_INHIBIT = 1)

/-- The index of the oldest free slot of the buffer (R505). -/
def oldestFree (buf : List (Rec × BufState)) : Option Nat := buf.findIdx? (fun x => decide (x.2 ≠ .pending))

/-- The oldest of the lowest severity, among those not above `sev`, of a list of severities by age; none where all are above. -/
def lowestAtMost (sevs : List (Nat × Nat)) (sev : Nat) : Option Nat :=
  (sevs.foldl (fun (b : Option (Nat × Nat)) x =>
    if x.2 > sev then b else match b with
      | none => some x
      | some y => if x.2 < y.2 then some x else b) none).map (·.1)

/-- Counts a dropped record (R505, R507). -/
def Dev.dropped (d : Dev) (sev : Nat) : Dev :=
  (d.wr (F.DROPPED_SEV sev) (satAdd 32 (d.rd (F.DROPPED_SEV sev)) 1)).wr F.LOG_DROPPED 1

/-- Puts an accepted record into the volatile buffer (R505). -/
def Dev.bufPut (d : Dev) (r : Rec) : Dev :=
  let b := d.recd.buf
  let st := if r.sev < d.rd F.NV_MIN_SEV then BufState.exempt else BufState.pending
  let put (l : List (Rec × BufState)) : Dev := { d with recd := { d.recd with buf := l ++ [(r, st)] } }
  if b.length < 4096 then put b
  else match oldestFree b with
    | some i => put (b.eraseIdx i)
    | none =>
      match lowestAtMost ((b.map (·.1.sev)).zipIdx.map (fun x => (x.2, x.1))) r.sev with
      | some i => put (b.eraseIdx i)
      | none => d.dropped r.sev

/-- The age of a sequence number against the newest. -/
def seqAge (newest s : Word) : Nat := (newest - s).toNat

/-- The records of the event log with their numbers. -/
def Recorder.logged (x : Recorder) : List (Nat × Rec) := x.log.filterMap (fun e => e.2.map (fun r => (e.1, r)))

/-- The log's records, oldest first (R507, R508). -/
def Recorder.byAge (x : Recorder) : List (Nat × Rec) :=
  let l := x.logged
  let new := l.filter (fun e => decide (e.1 ≤ x.newest.toNat))
  l.filter (fun e => decide (e.1 > x.newest.toNat)) ++ new

/-- Marks the record of a number in the buffer. -/
def markBuf (b : List (Rec × BufState)) (s : Word) (st : BufState) : List (Rec × BufState) :=
  b.map (fun x => if x.1.seq = s then (x.1, st) else x)

/-- The record that the log gives up for one of severity `sev`, or none (R507). -/
def Recorder.victim (x : Recorder) (sev : Nat) : Option Nat := lowestAtMost (x.byAge.map (fun e => (e.1, e.2.sev))) sev

/-- Commits one record to the event log, or has the log refuse it (R506, R507). -/
def Dev.commitRec (d : Dev) (r : Rec) : Dev :=
  let x := d.recd
  if x.log.length < 1048576 then
    { d with recd := { x with log := Tab.set x.log r.seq.toNat (some r) none, buf := markBuf x.buf r.seq .committed } }
  else match x.victim r.sev with
    | some k =>
      { d with recd := { x with log := Tab.set (Tab.erase x.log k) r.seq.toNat (some r) none, buf := markBuf x.buf r.seq .committed } }
    | none => { d with recd := { x with buf := markBuf x.buf r.seq .refused } }.dropped r.sev

/-- The uncommitted records, in the order of their numbers (R506). -/
def Dev.uncommitted (d : Dev) : List Rec := d.recd.buf.filterMap (fun x => if x.2 = .pending then some x.1 else none)

/-- Saves POWER_CYCLES and OP_TIME_MS to the firmware store (R504). -/
def Dev.saveTimes (d : Dev) : Dev :=
  { d with recd := { d.recd with saved := (d.rd F.POWER_CYCLES, d.rd F.OP_TIME_MS) } }

/-- A flush: commits every uncommitted record and saves the counts; nothing while NV_INHIBIT is set (R504, R506). -/
def Dev.flushLog (d : Dev) : Dev := if d.nvInhibit then d else (d.uncommitted.foldl (fun e r => e.commitRec r) d).saveTimes

/-- Sends the device event on each port whose EVT_EN is 1, or merges it during the hold-off (R514). -/
def Dev.sendEvent (d : Dev) : Dev :=
  if d.recd.holdoff then { d with recd := { d.recd with merged := true } }
  else
    let d1 := if d.rd (F.EVT_EN 0) = 1 then d.raiseVec .a (d.rd (F.EVT_VEC 0)) else d
    let d2 := if d1.rd (F.EVT_EN 1) = 1 then d1.raiseVec .b (d1.rd (F.EVT_VEC 1)) else d1
    { d2 with recd := { d2.recd with holdoff := decide (d2.rd F.EVT_HOLDOFF_US ≠ 0), merged := false } }

/-- Sets a bit of EVT_CAUSE and raises the device event (R514). -/
def Dev.deviceEvent (d : Dev) (f : Field) : Dev := (d.wr f 1).sendEvent

/-- Moves the reservation mark on when the next number comes within 4,096 of it (R503). -/
def Dev.reserve (d : Dev) : Dev :=
  let nxt := nextSeq d.recd.newest
  if d.nvInhibit then d
  else if (d.recd.mark - nxt).toNat ≤ 4096 ∨ (d.recd.mark - nxt).toNat ≥ 2 ^ 31 then { d with recd := { d.recd with mark := nxt + 8192 } }
  else d

/-- The recorder accepts a record (R503, R505, R506, R514, R529). -/
def Dev.log (d : Dev) (sev source code : Nat) (payload : List Byte) : Dev :=
  let d := d.reserve
  let s := nextSeq d.recd.newest
  let r : Rec := ⟨s, BitVec.ofNat 32 (d.rd F.POWER_CYCLES), BitVec.ofNat 64 (d.rd F.OP_TIME_MS), sev, BitVec.ofNat 16 source,
    BitVec.ofNat 16 code, payload⟩
  let d := { d with recd := { d.recd with newest := s } }
  let d := d.bufPut r
  let cur := BitVec.ofNat 32 (d.rd F.SB_CURSOR)
  let d := if sev ≥ 2 ∧ (cur = 0 ∨ (s - cur).toNat < 2 ^ 31) then { d with sys := { d.sys with alertN := false } } else d
  let d := if sev ≥ d.rd F.EVT_MIN_SEV then d.deviceEvent F.EVT_SEV else d
  if sev = 4 then d.flushLog else d

/-- The payload of a status-code record (R512). -/
def statusPayload (addr count ring kind : Nat) (aborted : Bool) (peer : Nat) : List Byte :=
  leBytes 8 addr ++ leBytes 4 count ++ leBytes 2 ring ++ leBytes 1 kind ++ leBytes 1 (b2n aborted) ++ leBytes 2 peer

/-- An Error record of a failed access at an address (R256, R276, R511, R512). -/
def Dev.logAccess (d : Dev) (source : Nat) (st : St) (addr : Nat) : Dev :=
  d.log 3 source st.toNat (statusPayload addr 0xFFFFFFFF 0xFFFF 3 false 0xFFFF)

/-- The number by which a write from a link port names its source queue to the stores: the pair of its SRC and SQ (R408). The SQ
itself is its low 16 bits. -/
def peerQueue (src sq : BitVec 16) : Nat := 0x10000 * (1 + src.toNat) + sq.toNat

/-- An Error record of a write refused at a poisoned granule: KIND 4 and the peer for a host's or a peer's write, KIND 3 for
another (R256, R407, R408, R512). -/
def Dev.logWrite (d : Dev) (source : Nat) (addr sq : Nat) : Dev :=
  d.log 3 source stMemUnc.toNat (statusPayload addr 0xFFFFFFFF 0xFFFF (if sq = 0x300 ∨ sq = 0x301 ∨ 0x10000 ≤ sq then 4 else 3) false
    (if 0x10000 ≤ sq then sq / 0x10000 - 1 else 0xFFFF))

/-! ### The address map (R26) -/

/-- The stores behind flat addresses. -/
inductive Region where
  | near
  | far
  | ingot
  | ls (core : Nat)
  | win (port : PciePort)
  deriving DecidableEq, Repr

/-- The first address that the near tier does not back (R26, R294): NEAR_TOP_GIB, which never passes the far tier's base. -/
def Dev.nearTop (d : Dev) : Nat := 2 ^ 30 * min (d.rd F.NEAR_TOP_GIB) 4096

/-- First far-tier address. -/
def farBase : Nat := 0x040000000000
/-- First Ingot address. -/
def ingotBase : Nat := 0x080000000000
/-- First local-store address. -/
def lsBase : Nat := 0x090000000000
/-- First address of core `n`'s local store (R250). -/
def lsAddr (n : Nat) : Nat := lsBase + n * 0x1000000
/-- First address of a host window. -/
def winBase (p : PciePort) : Nat := match p with | .a => 0x100000000000 | .b => 0x180000000000

/-- The region that backs an address, with its first address and the first beyond it; none where nothing does (R26, R27). -/
def Dev.region (d : Dev) (a : Nat) : Option (Region × Nat × Nat) :=
  if a < d.nearTop then some (.near, 0, d.nearTop)
  else if farBase ≤ a ∧ a < 0x068000000000 then some (.far, farBase, 0x068000000000)
  else if ingotBase ≤ a ∧ a < ingotBase + 0x80000000 then some (.ingot, ingotBase, ingotBase + 0x80000000)
  else if lsBase ≤ a ∧ d.present ((a - lsBase) / 0x1000000) ∧ (a - lsBase) % 0x1000000 < 0x800000 then
    let n := (a - lsBase) / 0x1000000
    some (.ls n, lsAddr n, lsAddr n + 0x800000)
  else if winBase .a ≤ a ∧ a < winBase .b then some (.win .a, winBase .a, winBase .b)
  else if winBase .b ≤ a ∧ a < 0x200000000000 then some (.win .b, winBase .b, 0x200000000000)
  else none

/-- Whether all of a range is backed; the two host windows alone touch (R26). -/
def Dev.inMap (d : Dev) (a n : Nat) : Bool :=
  match d.region a with
  | some (_, _, e) =>
    decide (a + n ≤ e) || (match d.region e with
      | some (_, _, f) => decide (a + n ≤ f)
      | none => false)
  | none => decide (n = 0)

/-- Whether a region is one of the device's own stores, which BAR4 and peers reach (R382, R409). -/
def Region.own (r : Region) : Bool := match r with | .win _ => false | _ => true

/-- The unit of error detection: 64 B words in the tiers, 16 B granules in the Ingot and the local stores (R256, R274). -/
def Region.unit (r : Region) : Nat := match r with | .near => 64 | .far => 64 | .win _ => 64 | _ => 16

/-! ### Near-tier placement (R267 to R272, R285 to R294) -/

/-- The logical pseudo-channel of a near-tier address (R270). -/
def logicalPc (a : Nat) : Nat := a / 256 % 632

/-- The line of a near-tier address in its pseudo-channel (R270). -/
def lineOf (a : Nat) : Nat := a / 256 / 632

/-- The address of a line of a logical pseudo-channel (R270). -/
def lineAddr (l i : Nat) : Nat := (i * 632 + l) * 256

/-- The package of a far-tier address (R271). -/
def farPkg (a : Nat) : Nat := (a - farBase) / 256 % 20

/-- The physical pseudo-channel that serves logical `l` (R298); none after an unmapping or before a PC_RETIRE. -/
def Dev.physPc (d : Dev) (l : Nat) : Option Nat :=
  (List.range 640).find? (fun p => d.rd (F.PC_LOGICAL p) == l && (d.rd (F.PC_STATE p) == 0 || d.rd (F.PC_STATE p) == 3))

/-- The base die that serves an address, which gives a record's source (R17, R510). DESIGN CHOICE (log 60): placement after a reduction is
internal (R294), and a near line whose logical pseudo-channel has no physical one left keeps the die of its number's first place. -/
def Dev.tierDie (d : Dev) (a : Nat) : Nat :=
  if a < farBase then match d.physPc (logicalPc a) with
    | some p => p / 160
    | none =>
      let q := Tab.get d.tier.awaiting (logicalPc a) 0
      if q = 0 then logicalPc a % 20 / 5 else (q - 1) / 160
  else farPkg a / 5

/-- The SOURCE of a record about an access to an address (R510). -/
def Dev.sourceOf (d : Dev) (r : Region) (a : Nat) : Nat :=
  match r with
  | .near => 0x210 + d.tierDie a
  | .far => 0x210 + d.tierDie a
  | .ingot => 0x200 + (a - ingotBase) / 0x20000000
  | .ls n => n
  | .win p => 0x330 + pnum p

/-! ### Units: poison, errors, bytes (R256, R274 to R276) -/

/-- The stored bytes at an address, without any effect. -/
def Dev.peek (d : Dev) (a n : Nat) : List Byte := getBytes d.mem.bytes a n

/-- Bytes put at an address, without any effect on marks. -/
def Dev.poke (d : Dev) (a : Nat) (bs : List Byte) : Dev := { d with mem := { d.mem with bytes := putBytes d.mem.bytes a bs } }

/-- Advances an error counter of a tier, saturating (R298). -/
def Dev.countErr (d : Dev) (r : Region) (ue : Bool) : Dev :=
  match r with
  | .near => let f := if ue then F.NEAR_UE_COUNT else F.NEAR_CE_COUNT; d.wr f (satAdd 32 (d.rd f) 1)
  | .far => let f := if ue then F.FAR_UE_COUNT else F.FAR_CE_COUNT; d.wr f (satAdd 32 (d.rd f) 1)
  | _ => d

/-- An uncorrectable read of the unit at `u`: poison, count, record; a fresh error of a near word counts toward UE_LIMIT
(R256, R276, R285). -/
def Dev.uncorrectable (d : Dev) (r : Region) (u : Nat) : Dev :=
  let fresh := decide (u ∉ d.mem.poison)
  let d := { d with mem := { d.mem with poison := NatSet.ins d.mem.poison u, latentU := NatSet.del d.mem.latentU u } }
  let d := if fresh ∧ (r = .near ∨ r = .far) then { d with tier := { d.tier with ueWords := Tab.put d.tier.ueWords u (d.rd F.OP_TIME_MS) } } else d
  (d.countErr r true).logAccess (d.sourceOf r u) stMemUnc u

/-- Counts one corrected read of pseudo-channel or package `k` at its millisecond (R285). -/
def Dev.noteCe (d : Dev) (k : Nat) : Dev :=
  let now := d.rd F.OP_TIME_MS
  let l := match Tab.get d.tier.ceTimes k [] with
    | (t, n) :: r => if t = now then (t, n + 1) :: r else (now, 1) :: (t, n) :: r
    | [] => [(now, 1)]
  { d with tier := { d.tier with ceTimes := Tab.put d.tier.ceTimes k l } }

/-- A corrected read of the unit at `u`: the correction is written back and counted (R256, R275, R285). -/
def Dev.corrected (d : Dev) (r : Region) (u : Nat) : Dev :=
  let d := { d with mem := { d.mem with latentC := NatSet.del d.mem.latentC u } }
  let d := match r with
    | .near => d.noteCe (logicalPc u)
    | .far => d.noteCe (1000 + farPkg u)
    | _ => d
  d.countErr r false

/-- Reads the code of the unit at `u`: true where its data can be read (R256, R275, R276). -/
def Dev.checkUnit (d : Dev) (r : Region) (u : Nat) : Dev × Bool :=
  if u ∈ d.mem.poison ∨ u ∈ d.mem.latentU then (d.uncorrectable r u, false)
  else if u ∈ d.mem.latentC then (d.corrected r u, true)
  else (d, true)

/-! ### Rebuilds (R288 to R293) -/

/-- Whether a near line is one a mirror entry covers, and where its far copy lies (R288, R289). -/
def Dev.mirrorOf (d : Dev) (a : Nat) (k : Nat) : Option Nat :=
  let near := d.rd (F.MIR_NEAR k) / 256 * 256
  let far := d.rd (F.MIR_FAR k) / 256 * 256
  let len := d.rd (F.MIR_LEN k) * 65536
  let f := far + (a - near)
  if near ≤ a ∧ a + 256 ≤ near + len ∧ farBase ≤ f ∧ f + 256 ≤ 0x068000000000 then some f else none

/-- Whether a far line reads without an uncorrectable error, trying its four words in turn (R288). -/
def Dev.farReadable (d : Dev) (a : Nat) : Dev × Bool :=
  if farPkg a ∈ d.tier.farFailed then (d, false)
  else [0, 64, 128, 192].foldl (fun x o => if x.2 then x.1.checkUnit .far (a + o) else x) (d, true)

/-- The first mirror entry that gives a line, trying entries from `k` on (R288). -/
def Dev.mirrorSource (d : Dev) (a : Nat) (ks : List Nat) : Dev × Option (List Byte) :=
  match ks with
  | [] => (d, none)
  | k :: r => match d.mirrorOf a k with
    | none => d.mirrorSource a r
    | some f =>
      let x := d.farReadable f
      if x.2 then (x.1, some (x.1.peek f 256)) else x.1.mirrorSource a r

/-- The range of the partner's newest generation, or of the one being filled, that a line lies in (R288, R443). -/
def Dev.rangeOf (d : Dev) (a : Nat) : Option Nat := d.twin.copied.findIdx? (fun r => decide (r.1 ≤ a ∧ a < r.1 + r.2))

/-- The size of each slot of a hosted area (R439). -/
def slotSize (hostSize : Nat) : Nat := hostSize / 2 / 65536 * 65536

/-- Where the line of address `a`, in range `k` of the generation's list, stands at the partner (R439, R443). -/
def Dev.twinAddr (d : Dev) (k a : Nat) : Nat :=
  let t := d.twin
  t.peerBase + t.genSlot * slotSize t.peerSize + 4096 + (t.copied.take k).foldl (fun n r => n + r.2) 0 + (a - (t.copied.getD k (0, 0)).1)

/-- The ranges registered at the last commit that a write of `n` bytes at `a` lands in (R437, R438). -/
def Dev.dirtyMask (d : Dev) (a n : Nat) : Nat :=
  (d.twin.applied.zipIdx.filter (fun r => decide (r.1.1 < a + n ∧ a < r.1.1 + r.1.2))).foldl (fun m r => m ||| 2 ^ r.2) 0

/-- Whether a line's registered range has been written since the last commit began (R438, R443). -/
def Dev.lineDirty (d : Dev) (a : Nat) : Bool := decide (d.rd F.REG_DIRTY &&& d.dirtyMask a 256 ≠ 0)

/-- The partner is lost (R435): rebuilds that are under way have lost their twin source (R292). -/
def Dev.partnerGone (d : Dev) : Dev :=
  if d.rd F.TWIN_STATE ≠ 2 then d
  else
    let tier := { d.tier with sweeps := d.tier.sweeps.map (fun (s : Sweep) => { s with lost := true }) }
    let d := { d with tier := tier, twin := { d.twin with misses := 0 } }
    (((d.wr F.TWIN_STATE 3).wr F.PARTNER_LOST 1).log 3 0x340 0x110 (leBytes 2 (d.rd F.PARTNER_ID))).deviceEvent F.EVT_PARTNER

/-- Asks the partner for the line of address `a`, in range `k`, from source queue 0x0311 (R407, R443); `st` is what it answers. A packet
that finds no way has lost its source (R292). -/
def Dev.askTwin (d : Dev) (k a : Nat) (st : St) : Dev × St :=
  let x := d.sendNow 0x311 (BitVec.ofNat 16 (d.rd F.PARTNER_ID)) 2 popReadReq (d.twinAddr k a) 256 []
  (x.1, if x.2 = stOk then st else x.2)

/-- Poison marks for the four words of a line. -/
def lineWords (a : Nat) : List Nat := [a, a + 64, a + 128, a + 192]

/-- Whether the failed spare that a sweep replaces held line `i` (R293). -/
def Sweep.heldOf (s : Sweep) (i : Nat) : Bool := s.from_.isSome && (decide (i < s.heldTo) || s.held.contains i)

/-- Rebuilds the line at index `i` of a sweep's logical pseudo-channel from the first source that covers it; `twin` is the
partner's answer for its line (R288, R292, R293, R443). Answers the sweep with the line counted. -/
def Dev.rebuildLine (d : Dev) (s : Sweep) (i : Nat) (twin : St × List Byte) : Dev × Sweep :=
  let a := lineAddr s.l i
  if d.nearTop ≤ a then (d, { s with done := NatSet.ins s.done i })
  else
    let ws := lineWords a
    let bad := ws.any (fun w => decide (w ∈ d.mem.poison ∨ w ∈ d.mem.latentU))
    if s.heldOf i ∧ ¬ bad then (d, { s with done := NatSet.ins s.done i })
    else
      let clean (e : Dev) : Dev :=
        { e with mem := { e.mem with
          poison := e.mem.poison.filter (fun w => w ∉ ws)
          latentU := e.mem.latentU.filter (fun w => w ∉ ws)
          latentC := e.mem.latentC.filter (fun w => w ∉ ws) } }
      let poisonIt (e : Dev) : Dev × Sweep :=
        let e := clean e
        let e := { e with mem := { e.mem with poison := ws.foldl NatSet.ins e.mem.poison } }
        ((e.poke a (List.replicate 256 0)).wr F.NEAR_POISON 1, { s with done := NatSet.ins s.done i, poisoned := s.poisoned + 1 })
      if s.from_.isSome ∧ i ∈ s.written then poisonIt d
      else
        let m := d.mirrorSource a ((List.range 16).filter (fun k => decide (d.rd (F.MIR_LEN k) ≠ 0)))
        match m.2 with
        | some bs => ((clean m.1).poke a bs, { s with done := NatSet.ins s.done i, mirror := s.mirror + 1 })
        | none =>
          let e := m.1
          match e.rangeOf a with
          | none => poisonIt e
          | some k =>
            if s.lost then poisonIt (e.wr F.REBUILD_SRC_LOST 1)
            else if e.rd F.TWIN_STATE ≠ 2 then poisonIt e
            else
              let q := e.askTwin k a twin.1
              let e := q.1
              if q.2 = stMemUnc then poisonIt e
              else if q.2 = stOk then
                let old := e.lineDirty a
                let e := if old ∧ s.oldLine = false then (e.wr F.TWIN_OLD_LINE 1).log 2 0x340 0x111 (leBytes 8 a) else e
                ((clean e).poke a twin.2, { s with done := NatSet.ins s.done i, twin := s.twin + 1, oldLine := s.oldLine || old })
              else
                let x := poisonIt (if q.2 = stLinkLost then e.partnerGone.wr F.REBUILD_SRC_LOST 1 else e.wr F.REBUILD_SRC_LOST 1)
                (x.1, { x.2 with lost := true })

/-- Whether a sweep has line `i` behind it. -/
def Sweep.has (s : Sweep) (i : Nat) : Bool := decide (i < s.next) || decide (i ∈ s.done)

/-- Puts a sweep back at its place in the queue. -/
def Dev.setSweep (d : Dev) (s : Sweep) : Dev :=
  { d with tier := { d.tier with sweeps := d.tier.sweeps.map (fun t => if t.l = s.l then s else t) } }

/-- What the partner answers for a line that an access rebuilds on demand: the partner is outside the block, so its status, one of OK,
MEM_UNCORRECTABLE and LINK_LOST, and its bytes are free values (R288, R291, R292, log 28). -/
def Dev.twinLine (d : Dev) : Dev × St × List Byte :=
  let x := d.draw
  let y := x.2.draw
  (y.2, (match x.1 % 3 with | 0 => stOk | 1 => stMemUnc | _ => stLinkLost), leBytes 256 y.1)

/-- Rebuilds the near line of address `a` at once, where a sweep has it still to do (R291). -/
def Dev.demand (d : Dev) (a : Nat) : Dev :=
  match d.tier.sweeps.find? (fun s => s.l == logicalPc a) with
  | none => d
  | some s =>
    if s.has (lineOf a) then d
    else
      let t := d.twinLine
      let x := t.1.rebuildLine s (lineOf a) t.2
      x.1.setSweep x.2

/-- Whether the near line of `a` lies in a pseudo-channel that waits for a PC_RETIRE, or the far line in a failed package
(R286, R287). -/
def Dev.lineLost (d : Dev) (r : Region) (a : Nat) : Bool :=
  match r with
  | .near => decide (Tab.get d.tier.awaiting (logicalPc a) 0 ≠ 0)
  | .far => decide (farPkg a ∈ d.tier.farFailed)
  | _ => false

/-! ### Reads and writes of device space -/

/-- What an access answers: the state, the status, how many bytes from its start it made without a gap. -/
structure Res where
  dev  : Dev
  st   : St
  done : Nat

/-- How a port's answer reads (R383). -/
def respStatus (r : HostResp) : St :=
  match r with
  | .ok => stOk
  | .poisoned => stMemUnc
  | _ => stOutOfMap

/-- How the host answers a read of a bus address: the last rule that covers it (log 13). -/
def Env.resp (e : Env) (p : PciePort) (a n : Nat) : HostResp :=
  e.rules.foldl (fun r u => if u.port = p ∧ a < u.addr + u.len ∧ u.addr < a + max n 1 then u.resp else r) .ok

/-- The host bus address behind a window address (R383). -/
def Dev.busAddr (d : Dev) (p : PciePort) (a : Nat) : Nat :=
  (d.rd (F.HWIN_BASE (pnum p)) / 4096 * 4096 + (a - winBase p)) % 2 ^ 64

/-- Wakes a retained local store (R262). -/
def Dev.wakeLs (d : Dev) (r : Region) : Dev :=
  match r with
  | .ls n => let c := d.core n; if c.retained then d.setCore n { c with retained := false } else d
  | _ => d

/-- Makes the units of a range readable, in ascending order, and answers the first that is not, where there is one. A line of a
failed package, or of a pseudo-channel that waits for its PC_RETIRE, is not (R286, R287, log 24). -/
def Dev.readUnits (d : Dev) (r : Region) (us : List Nat) : Dev × Option Nat :=
  match us with
  | [] => (d, none)
  | u :: rest =>
    if d.lineLost r u then (d, some u)
    else
      let d := match r with | .near => d.demand u | _ => d
      let x := d.checkUnit r u
      if x.2 then x.1.readUnits r rest else (x.1, some u)

/-- The units that a range touches. -/
def unitsOf (a n unit : Nat) : List Nat :=
  if n = 0 then [] else (List.range ((a + n - 1) / unit - a / unit + 1)).map (fun i => (a / unit + i) * unit)

/-- A read of part of one region: status and data (R256, R276, R286, R287, R291, R383). -/
def Dev.readSeg (d : Dev) (r : Region) (a n : Nat) : Dev × St × List Byte :=
  match r with
  | .win p =>
    if !d.pcieUp p then (d, stOutOfMap, [])
    else if (d.port p).d3hot then (d, stWait, [])
    else
      let b := d.busAddr p a
      let st := respStatus (d.env.resp p b n)
      (d, st, if st = stOk then hostBytes (d.hostMem p) b n else [])
  | _ =>
    let d := d.wakeLs r
    let x := d.readUnits r (unitsOf a n r.unit)
    match x.2 with
    | none => (x.1, stOk, x.1.peek a n)
    | some _ => (x.1, stMemUnc, [])

/-- A read of a range, region by region; `fuel` bounds the regions crossed. -/
def Dev.loadGo (d : Dev) (a n fuel : Nat) (acc : List Byte) : Dev × St × List Byte :=
  match fuel with
  | 0 => (d, stOutOfMap, [])
  | k + 1 =>
    if n = 0 then (d, stOk, acc)
    else match d.region (a % 2 ^ 64) with
      | none => (d, stOutOfMap, [])
      | some (r, _, e) =>
        let m := min n (e - a % 2 ^ 64)
        let x := d.readSeg r (a % 2 ^ 64) m
        if x.2.1 = stOk then x.1.loadGo (a + m) (n - m) k (acc ++ x.2.2) else (x.1, x.2.1, [])

/-- A read of `n` bytes at a flat address: the status, and the bytes where it is OK (R26, R222, R383). -/
def Dev.load (d : Dev) (a n : Nat) : Dev × St × List Byte := d.loadGo a n 4 []

/-- Sets or clears the finiteness bits of the granules that a write covers whole, and clears those it covers in part (R101). -/
def Dev.markFinite (d : Dev) (a n : Nat) (fin : Nat → Bool) : Dev :=
  let gs := unitsOf a n 16
  let f := gs.foldl (fun t g =>
    if fin g && decide (a ≤ g ∧ g + 16 ≤ a + n) then NatSet.ins t g else NatSet.del t g) d.mem.finite
  { d with mem := { d.mem with finite := f } }

/-- Flags every RUNNING core whose code region an external write reaches (R204). -/
def Dev.codeLive (d : Dev) (a n : Nat) : Dev :=
  d.cores.foldl (fun e x =>
    let c := e.core x.1
    if c.status = .running ∧ c.codeBase < a + n ∧ a < c.codeBase + c.codeLen ∧ n ≠ 0 then
      if c.cflags.getLsbD 8 then e
      else (e.setCore x.1 { c with cflags := c.cflags ||| 0x100 }).log 2 x.1 0x101 (leBytes 8 a)
    else e) d

/-- A write to the part of one unit: true where it lands. A part of a poisoned unit, and a line of a failed package or of a
pseudo-channel that waits for its PC_RETIRE, is refused (R256, R276, R286, R287). -/
def Dev.writeUnit (d : Dev) (r : Region) (u a : Nat) (bs : List Byte) (sq : Nat) : Dev × Bool :=
  let whole := decide (bs.length = r.unit)
  if d.lineLost r u then (d, false)
  else if whole then
    ({ d with mem := { d.mem with poison := NatSet.del d.mem.poison u, latentU := NatSet.del d.mem.latentU u,
                                  latentC := NatSet.del d.mem.latentC u } }.poke a bs, true)
  else if u ∈ d.mem.poison then
    (match r with
      | .near => d
      | .far => d
      | _ => d.logWrite (d.sourceOf r u) u sq, false)
  else
    let x := d.checkUnit r u
    if x.2 then (x.1.poke a bs, true) else (x.1, false)

/-- The pieces of a byte string by unit: unit, address, bytes; `fuel` bounds the pieces. -/
def splitUnits (unit a : Nat) (bs : List Byte) (fuel : Nat) : List (Nat × Nat × List Byte) :=
  match fuel with
  | 0 => []
  | k + 1 =>
    if bs.isEmpty then []
    else
      let m := unit - a % unit
      (a / unit * unit, a, bs.take m) :: splitUnits unit (a + m) (bs.drop m) k

/-- Near lines that a write covers in part are rebuilt first; lines it covers whole count as rebuilt (R291). -/
def Dev.beforeWrite (d : Dev) (r : Region) (a n : Nat) : Dev :=
  match r with
  | .near =>
    if d.tier.sweeps.isEmpty then d
    else ((unitsOf a n 256).filter (fun u => !d.lineLost .near u)).foldl (fun e u =>
      match e.tier.sweeps.find? (fun s => s.l == logicalPc u) with
      | none => e
      | some s =>
        if a ≤ u ∧ u + 256 ≤ a + n then
          e.setSweep { s with done := if s.has (lineOf u) then s.done else NatSet.ins s.done (lineOf u),
                              written := NatSet.ins s.written (lineOf u) }
        else
          let e := e.demand u
          match e.tier.sweeps.find? (fun s => s.l == logicalPc u) with
          | some s => e.setSweep { s with written := NatSet.ins s.written (lineOf u) }
          | none => e) d
  | _ => d

/-- What a write that has landed sets besides the bytes: finiteness bits, REG_DIRTY, and CODE_WRITE_LIVE in the near tier, where alone
code regions lie (R101, R202, R204, R438). -/
def Dev.afterWrite (d : Dev) (r : Region) (a n : Nat) (fin : Nat → Bool) : Dev :=
  match r with
  | .ls _ => d.markFinite a n fin
  | .near => (d.wr F.REG_DIRTY (d.rd F.REG_DIRTY ||| d.dirtyMask a n)).codeLive a n
  | _ => d

/-- A posted write of a source queue to a host window, in requests that the port's MPS allows (R378, R383, log 63). While the port is in
D3hot, a queue that has 64 KiB in hold-back waits (R245, R385). -/
def Dev.writeWin (d : Dev) (p : PciePort) (a : Nat) (bs : List Byte) (sq : Nat) : Res :=
  if !d.pcieUp p then ⟨d, stOutOfMap, 0⟩
  else if (d.port p).d3hot && decide (65536 < d.waitingBytes sq + bs.length) then ⟨d, stWait, 0⟩
  else
    ⟨(splitUnits (d.port p).cfg.mps (d.busAddr p a) bs (bs.length + 1)).foldl
      (fun e u => e.emit p (.write (u.2.1 % 2 ^ 64) u.2.2 sq)) d, stOk, bs.length⟩

/-- A write to part of one region. Granules beside a refused one land, unless the writer ends at its first refusal (`halt`, R233); the
count stops at the first refusal. -/
def Dev.writeSeg (d : Dev) (r : Region) (a : Nat) (bs : List Byte) (sq : Nat) (fin : Nat → Bool) (halt : Bool := false) : Res :=
  match r with
  | .win p => d.writeWin p a bs sq
  | _ =>
    let d := (d.wakeLs r).beforeWrite r a bs.length
    (splitUnits r.unit a bs (bs.length + 1)).foldl (fun (x : Res) u =>
      if halt && decide (x.st ≠ stOk) then x
      else
        let y := x.dev.writeUnit r u.1 u.2.1 u.2.2 sq
        if y.2 then ⟨y.1.afterWrite r u.2.1 u.2.2.length fin, x.st, if x.st = stOk then x.done + u.2.2.length else x.done⟩
        else ⟨y.1, stMemUnc, x.done⟩) (⟨d, stOk, 0⟩ : Res)

/-- A write of a range, region by region; it ends at a refused address, and where its queue must wait. -/
def Dev.storeGo (d : Dev) (a : Nat) (bs : List Byte) (sq : Nat) (fin : Nat → Bool) (fuel : Nat) (sofar : Nat) (st : St)
    (halt : Bool := false) : Res :=
  match fuel with
  | 0 => ⟨d, st, sofar⟩
  | k + 1 =>
    if bs.isEmpty then ⟨d, st, sofar⟩
    else match d.region (a % 2 ^ 64) with
      | none => ⟨d, if st = stOk then stOutOfMap else st, sofar⟩
      | some (r, _, e) =>
        let m := min bs.length (e - a % 2 ^ 64)
        let x := d.writeSeg r (a % 2 ^ 64) (bs.take m) sq fin halt
        if x.st = stOutOfMap ∨ x.st = stWait ∨ (halt = true ∧ x.st ≠ stOk) then ⟨x.dev, if st = stOk then x.st else st, sofar + x.done⟩
        else x.dev.storeGo (a + m) (bs.drop m) sq fin k (if st = stOk then sofar + x.done else sofar)
          (if st = stOk then x.st else st) halt

/-- A write at a flat address by source queue `sq`; `fin` says which granules it fills with finite elements (R26, R101, R410). -/
def Dev.store (d : Dev) (a : Nat) (bs : List Byte) (sq : Nat) (fin : Nat → Bool) (halt : Bool := false) : Res :=
  d.storeGo a bs sq fin 4 0 stOk halt

/-- A write that carries no element format (R101). -/
def Dev.storeRaw (d : Dev) (a : Nat) (bs : List Byte) (sq : Nat) : Res := d.store a bs sq (fun _ => false)

/-- The status of a failed access for work that started when the near tier reached `top`: an unmapping since then is
CAPACITY_REDUCED (R295). -/
def Dev.capStatus (d : Dev) (top : Nat) (st : St) (addr : Nat) : St :=
  if st = stOutOfMap ∧ d.nearTop ≤ addr ∧ addr < top then stCapReduced else st

/-- The first address of a range that nothing backs, where there is one. -/
def Dev.badAddr (d : Dev) (a n : Nat) : Nat :=
  match d.region (a % 2 ^ 64) with
  | none => a % 2 ^ 64
  | some (_, _, e) => if a % 2 ^ 64 + n ≤ e then a % 2 ^ 64 else e

/-! ### Collisions of shared-port writes (R252 to R255) -/

/-- Advances COLLIDED_COUNT, saturating (R255). -/
def Dev.collide (d : Dev) (n : Nat) : Dev := if n = 0 then d else d.wr F.COLLIDED_COUNT (satAdd 32 (d.rd F.COLLIDED_COUNT) n)

/-- Whether a write can be dropped for a collision: one that goes through the shared port of a local store and comes from outside
that core's own stream, `owner` being the core whose own DMV writes. The writes of a core's own DMV never collide (R251 to R253). -/
def Dev.isShared (d : Dev) (a : Nat) (owner : Option Nat) : Bool :=
  match d.region a with
  | some (.ls n, _, _) => !decide (owner = some n)
  | _ => false

/-- A write in shared-port accesses, counted from `k`: the operand's drops are applied to each access, and a ninth drop abandons the
rest with COLLIDED (R252, R254, R255). A granule refused as poisoned leaves the other granules of the write to land (R256), unless
the writer ends there (`halt`, R233). Answers the result and the next access's number. -/
def Dev.storeShared (d : Dev) (a : Nat) (pieces : List (List Byte)) (sq : Nat) (fin : Nat → Bool) (owner : Option Nat)
    (drops : Drops) (k : Nat) (sofar : Nat) (st : St) (halt : Bool) : Res × Nat :=
  match pieces with
  | [] => (⟨d, st, sofar⟩, k)
  | bs :: rest =>
    let shared := d.isShared (a % 2 ^ 64) owner
    let n := if shared then Tab.get drops k 0 else 0
    let k' := if shared then k + 1 else k
    if n ≥ 9 then (⟨d.collide 9, if st = stOk then stCollided else st, sofar⟩, k')
    else
      let x := (d.collide n).store a bs sq fin halt
      let st' := if st = stOk then x.st else st
      let done := if st = stOk then sofar + x.done else sofar
      if x.st = stOk ∨ (x.st = stMemUnc ∧ halt = false) then
        x.dev.storeShared (a + bs.length) rest sq fin owner drops k' done st' halt
      else (⟨x.dev, st', done⟩, k')

/-- The bytes of a write cut into accesses of up to 1,024 B, each of which ends where a 16 B granule ends (R252, R256, log 61). -/
def accessCut (a : Nat) (bs : List Byte) : List (List Byte) :=
  let m := 1024 - a % 16
  if bs.length ≤ m then [bs] else bs.take m :: chunks 1024 (bs.drop m) (bs.length + 1)

/-- A write that may collide: one through a shared port is cut into its accesses (R252). -/
def Dev.storeC (d : Dev) (a : Nat) (bs : List Byte) (sq : Nat) (fin : Nat → Bool) (owner : Option Nat) (drops : Drops) (k : Nat)
    (halt : Bool := false) : Res × Nat :=
  if d.isShared (a % 2 ^ 64) owner then d.storeShared a (accessCut a bs) sq fin owner drops k 0 stOk halt
  else d.storeShared a [bs] sq fin owner drops k 0 stOk halt

/-! ### Calibration values (R476, R477) -/

/-- A calibration item. -/
def Dev.calItem (d : Dev) (i : Nat) : CalItem := Tab.get d.svc.cal i CalItem.reset

/-- Puts a calibration item back. -/
def Dev.setCal (d : Dev) (i : Nat) (c : CalItem) : Dev := { d with svc := { d.svc with cal := Tab.set d.svc.cal i c CalItem.reset } }

/-- The value applied at a load index, as an exact fraction (R477). -/
def CalItem.apply (c : CalItem) (load hot : Nat) : CalItem :=
  if hot ≤ c.lc then { c with applied := c.cold, den := 1 }
  else
    let span := hot - c.lc
    let part := min (load - c.lc) span
    { c with applied := c.cold * span + c.offset * part, den := span }

/-- The average of the load indices of the last 100 ms, rounded to nearest; that of now where none is held (R477). -/
def Dev.runLoad (d : Dev) : Nat :=
  let l := d.svc.loads
  if l.isEmpty then d.rd F.LOAD_NOW else (2 * l.foldl (· + ·) 0 + l.length) / (2 * l.length)

/-- The load index that an item's applied value follows: the droop guardbands LOAD_NOW, the rest RUN_LOAD (R477). -/
def Dev.itemLoad (d : Dev) (i : Nat) : Nat := if i < 4 then d.rd F.LOAD_NOW else d.rd F.RUN_LOAD

/-- A new cold value of an item at the present load index (R477, R482). -/
def Dev.measureCold (d : Dev) (i : Nat) (v : Int) : Dev :=
  let c := { d.calItem i with cold := v, lc := d.rd F.LOAD_NOW, due := false, overdue := false }
  d.setCal i (c.apply (d.itemLoad i) d.svc.hotLoad)

end Sys2Proof.Machine
end

