-- ==== Sys2Proof/Machine/Flags.lean ====
section
/-! DEFINITION. The flag word CFLAGS of a core (R195) and the flags that steps outside an instruction set. -/
namespace Sys2Proof.Machine
open Sys2Proof

/-- MXA_SET_RETAG. -/
def flagRetag : Nat := 8
/-- VX_ALIGN. -/
def flagAlign : Nat := 16
/-- IDX_OOB. -/
def flagIdxOob : Nat := 32
/-- SFU_STAGE_EMPTY. -/
def flagStageEmpty : Nat := 64
/-- SFU_NO_TABLE. -/
def flagNoTable : Nat := 128
/-- CODE_WRITE_LIVE. -/
def flagCodeLive : Nat := 256

/-- Sets the flags of a mask (R195). -/
def Core.setFlags (c : Core) (m : Word) : Core := { c with cflags := c.cflags ||| m }

/-- Clears the flags of a mask (R189, R539). -/
def Core.clearFlags (c : Core) (m : Word) : Core := { c with cflags := c.cflags &&& ~~~m }

/-- CFLAGS_ANY: the OR over all present cores (R537). -/
def Dev.cflagsAny (d : Dev) : Word := d.cores.foldl (fun m x => if d.present x.1 then m ||| x.2.cflags else m) 0

end Sys2Proof.Machine
end

