-- ==== Sys2Proof/Machine/Snc.lean ====
section
/-! DEFINITION. The cores' instruction words (R183 to R194): decoding and encoding. A word that is illegal whatever the core's
state (R184) decodes to nothing. -/
namespace Sys2Proof.Machine
open Sys2Proof

/-- The field of `n` bits at bit `lo` of a word. -/
def fld (w : BitVec 64) (lo n : Nat) : BitVec n := w.extractLsb' lo n

/-- The control operation that an OP names (R186). -/
def ctrlOfOp (op : BitVec 8) : Option CtrlOp :=
  match op with
  | 0x01#8 => some .sli
  | 0x02#8 => some .smov
  | 0x03#8 => some .sadd
  | 0x04#8 => some .ssub
  | 0x05#8 => some .smul
  | 0x06#8 => some .sand
  | 0x07#8 => some .sor
  | 0x08#8 => some .sxor
  | 0x09#8 => some .sshl
  | 0x0A#8 => some .sshr
  | 0x0B#8 => some .ssra
  | 0x0C#8 => some .smin
  | 0x0D#8 => some .smax
  | 0x10#8 => some .b
  | 0x11#8 => some .beq
  | 0x12#8 => some .bne
  | 0x13#8 => some .blt
  | 0x14#8 => some .bge
  | 0x15#8 => some .bltu
  | 0x16#8 => some .bgeu
  | 0x18#8 => some .loop
  | 0x19#8 => some .pblk
  | 0x1A#8 => some .ptag
  | 0x1B#8 => some .cid
  | _ => none

/-- The OP of a control operation (R186). -/
def ctrlToOp (o : CtrlOp) : BitVec 8 :=
  match o with
  | .sli => 0x01
  | .smov => 0x02
  | .sadd => 0x03
  | .ssub => 0x04
  | .smul => 0x05
  | .sand => 0x06
  | .sor => 0x07
  | .sxor => 0x08
  | .sshl => 0x09
  | .sshr => 0x0A
  | .ssra => 0x0B
  | .smin => 0x0C
  | .smax => 0x0D
  | .b => 0x10
  | .beq => 0x11
  | .bne => 0x12
  | .blt => 0x13
  | .bge => 0x14
  | .bltu => 0x15
  | .bgeu => 0x16
  | .loop => 0x18
  | .pblk => 0x19
  | .ptag => 0x1A
  | .cid => 0x1B

/-- Whether the operation writes D (R186). -/
def CtrlOp.writesD (o : CtrlOp) : Bool :=
  match o with
  | .b => false
  | .beq => false
  | .bne => false
  | .blt => false
  | .bge => false
  | .bltu => false
  | .bgeu => false
  | .loop => false
  | .pblk => false
  | .ptag => false
  | _ => true

/-- Whether the operation reads A (R186, R187, R188). -/
def CtrlOp.readsA (o : CtrlOp) (bi : Bool) : Bool :=
  match o with
  | .sli => false
  | .b => false
  | .ptag => false
  | .cid => false
  | .loop => !bi
  | _ => true

/-- Whether the operation reads B: the two-operand ones and the conditional branches, unless BI is 1, where IMM32 is the second
operand (R186). -/
def CtrlOp.readsB (o : CtrlOp) (bi : Bool) : Bool :=
  match o with
  | .sli => false
  | .smov => false
  | .b => false
  | .loop => false
  | .pblk => false
  | .ptag => false
  | .cid => false
  | _ => !bi

/-- A register-file code that names a register (R186). -/
def regCodeOk (c : BitVec 6) : Bool := decide (c.toNat < 48)

/-- Whether a control instruction names registers only, in the fields it reads or writes (R184, R186). -/
def ctrlLegal (o : CtrlOp) (d a b : BitVec 6) (bi : Bool) : Bool :=
  (!o.writesD || regCodeOk d) && (!o.readsA bi || regCodeOk a) && (!o.readsB bi || regCodeOk b)

/-- The sync operation that an OP names (R189). -/
def syncOfOp (op : BitVec 8) : Option SyncOp :=
  match op with
  | 0x01#8 => some .yield
  | 0x02#8 => some .endProg
  | 0x03#8 => some .drain
  | 0x04#8 => some .waitw
  | 0x05#8 => some .flagr
  | 0x06#8 => some .flagc
  | _ => none

/-- The OP of a sync operation (R189). -/
def syncToOp (o : SyncOp) : BitVec 8 :=
  match o with
  | .yield => 0x01
  | .endProg => 0x02
  | .drain => 0x03
  | .waitw => 0x04
  | .flagr => 0x05
  | .flagc => 0x06

/-- Whether a sync instruction is legal: WAITW's CMP is below 4 (R184). -/
def syncLegal (o : SyncOp) (cmp : BitVec 3) : Bool := o != .waitw || decide (cmp.toNat < 4)

/-- Whether an MMA's formats are ones its class allows, and of one kind (R76, R81, R184). -/
def mmaLegal (f : MmaF) : Bool :=
  let ok (c : Nat) : Bool := match f.cls.toNat with
    | 0 => decide (c ≤ 8)
    | 1 => decide (c = 9)
    | 2 => decide (c = 10)
    | _ => false
  let isInt (c : Nat) : Bool := decide (c = 5) || decide (c = 6)
  ok f.fmtA.toNat && ok f.fmtB.toNat && (isInt f.fmtA.toNat == isInt f.fmtB.toNat)

/-- Whether an element TYPE is one of R192's. -/
def typeOk (t : BitVec 3) : Bool := decide (t.toNat < 6)

/-- Whether a VXE arithmetic instruction uses TYPE: not ROTB and PERM, which move bytes and 32-bit lanes, the mask logic, whose
length counts mask bits, and TOPK, which reads it as FP32 (R116, R130, R184, R299, log 8). -/
def VxaOp.usesType (o : VxaOp) : Bool :=
  match o with
  | .rotb => false
  | .perm => false
  | .topk => false
  | _ => true

/-- Whether a VXE arithmetic instruction is legal: its TYPE where it uses it, a CMP's predicate (R184, R192). -/
def vxaLegal (o : VxaOp) (f : VecF) : Bool :=
  (!o.usesType || typeOk f.ty) && (o != .cmp || decide (f.sub.toNat % 8 < 6))

/-- Whether a VXE memory instruction is legal: its TYPE, and the element format of a quantising one (R184, R193). -/
def vxmLegal (o : VxmOp) (f : MemF) : Bool :=
  match o with
  | .ldq => typeOk f.ty && decide (f.f17.toNat % 16 < 12)
  | .stq => typeOk f.ty && decide (f.f17.toNat % 16 < 12)
  | .stqs => typeOk f.ty && decide (f.f17.toNat % 16 < 12)
  | .sftl => true
  | .sfml => true
  | .rsx => true
  | .rsm => true
  | .xacc => true
  | _ => typeOk f.ty

/-- Whether an SFU instruction is legal (R184, R192). -/
def sfuLegal (o : SfuOp) (f : VecF) : Bool :=
  match o with
  | .sfn => typeOk f.ty
  | .gact => typeOk f.ty
  | .sfmp => typeOk f.ty
  | _ => true

/-- Whether an RSU instruction is legal: the TYPE that RSQ reads and RSF writes is one of R192's (R184). -/
def rsuLegal (f : VecF) : Bool := typeOk f.ty

/-- The fields shared by VXE arithmetic, SFU and RSU words (R192). -/
def vecFields (w : BitVec 64) : VecF :=
  ⟨fld w 46 6, fld w 40 6, fld w 34 6, fld w 28 6, fld w 24 4, w.getLsbD 23, w.getLsbD 22, fld w 19 3, w.getLsbD 18, fld w 7 11, fld w 0 7⟩

/-- The fields of VXE memory words (R193). -/
def memFields (w : BitVec 64) : MemF :=
  ⟨fld w 46 6, fld w 42 4, fld w 25 17, fld w 21 4, w.getLsbD 20, w.getLsbD 19, fld w 16 3, w.getLsbD 15, fld w 4 11, fld w 0 4⟩

/-- An MXA word (R190, R191). -/
def decodeMxa (w : BitVec 64) : Option CoreInstr :=
  match fld w 52 8 with
  | 0x01#8 =>
    let f : MmaF := ⟨fld w 50 2, fld w 48 2, fld w 44 4, fld w 40 4, fld w 38 2, fld w 36 2, fld w 34 2, w.getLsbD 33,
      w.getLsbD 32, w.getLsbD 31, fld w 27 4, fld w 23 4, fld w 19 4, fld w 10 5, fld w 5 5, fld w 0 5⟩
    if mmaLegal f then some (.mma f) else none
  | 0x02#8 => some (.mxr ⟨fld w 50 2, fld w 45 5, fld w 40 5, fld w 36 4, fld w 32 4, fld w 28 4, fld w 24 4, fld w 20 4,
      fld w 17 3, w.getLsbD 16, fld w 11 5, w.getLsbD 10⟩)
  | 0x03#8 => some (.mxs ⟨fld w 50 2, w.getLsbD 49, fld w 45 4, fld w 25 20⟩)
  | 0x04#8 => if fld w 46 2 = 3#2 then none else some (.mxd ⟨fld w 48 4, fld w 46 2, fld w 42 4, fld w 22 20⟩)
  | 0x05#8 => some (.mxset (fld w 36 16))
  | _ => none

/-- The instruction that a word spells under a translator version; none where it is illegal (R183, R184). -/
def decodeSnc (ver : Nat) (w : BitVec 64) : Option CoreInstr :=
  match fld w 60 4 with
  | 0x0#4 => match ctrlOfOp (fld w 52 8) with
    | some o => if ctrlLegal o (fld w 46 6) (fld w 40 6) (fld w 34 6) (w.getLsbD 33) then
        some (.ctrl o (fld w 46 6) (fld w 40 6) (fld w 34 6) (w.getLsbD 33) (fld w 0 32)) else none
    | none => none
  | 0x1#4 => match syncOfOp (fld w 52 8) with
    | some o => if syncLegal o (fld w 40 3) then
        some (.sync o (fld w 47 5) (fld w 43 4) (fld w 40 3) (fld w 34 6) (fld w 13 21)) else none
    | none => none
  | 0x2#4 => decodeMxa w
  | 0x3#4 => match Config.vxaOp ver (fld w 52 8).toNat with
    | some o => if vxaLegal o (vecFields w) then some (.vxa o (vecFields w)) else none
    | none => none
  | 0x4#4 => match Config.vxmOp ver (fld w 52 8).toNat with
    | some o => if vxmLegal o (memFields w) then some (.vxm o (memFields w)) else none
    | none => none
  | 0x5#4 => match Config.sfuOp ver (fld w 52 8).toNat with
    | some o => if sfuLegal o (vecFields w) then some (.sfu o (vecFields w)) else none
    | none => none
  | 0x6#4 => match Config.rsuOp ver (fld w 52 8).toNat with
    | some o => if rsuLegal (vecFields w) then some (.rsu o (vecFields w)) else none
    | none => none
  | 0x7#4 => if fld w 52 8 = 0x01#8 then some (.dmv ⟨fld w 48 4, fld w 28 20, fld w 23 5, fld w 21 2⟩) else none
  | _ => none

/-- One bit as a vector. -/
def bit1 (b : Bool) : BitVec 1 := BitVec.ofBool b

/-- The word of an instruction of the classes whose OP values the spec fixes (R185, R186, R189 to R191, R194); the others' OP
values vary with the translator, so they have none here. -/
def encodeSnc (i : CoreInstr) : Option (BitVec 64) :=
  match i with
  | .ctrl o d a b bi imm => some (0x0#4 ++ ctrlToOp o ++ d ++ a ++ b ++ bit1 bi ++ 0#1 ++ imm)
  | .sync o s a cmp em imm => some (0x1#4 ++ syncToOp o ++ s ++ a ++ cmp ++ em ++ imm ++ 0#13)
  | .mma f => some (0x2#4 ++ 0x01#8 ++ f.cls ++ f.mode ++ f.fmtA ++ f.fmtB ++ f.formA ++ f.formB ++ f.acc ++ bit1 f.clear ++
      bit1 f.init ++ bit1 f.rx ++ f.da ++ f.db ++ f.dc ++ 0#4 ++ f.sm ++ f.sn ++ f.sk)
  | .mxr f => some (0x2#4 ++ 0x02#8 ++ f.acc ++ f.slo ++ f.shi ++ f.dd ++ f.er ++ f.ec ++ f.eb ++ f.eq ++ f.rm ++ bit1 f.sat ++
      f.sseed ++ bit1 f.clr ++ 0#10)
  | .mxs f => some (0x2#4 ++ 0x03#8 ++ f.acc ++ bit1 f.restore ++ f.a ++ f.imm ++ 0#25)
  | .mxd f => some (0x2#4 ++ 0x04#8 ++ f.slot ++ f.sel ++ f.a ++ f.imm ++ 0#22)
  | .mxset ew => some (0x2#4 ++ 0x05#8 ++ ew ++ 0#36)
  | .dmv f => some (0x7#4 ++ 0x01#8 ++ f.a ++ f.imm ++ f.sc ++ f.q ++ 0#21)
  | _ => none

/-- Whether an instruction is one of the fixed classes and legal whatever the core's state (R184). -/
def sncLegal (i : CoreInstr) : Bool :=
  match i with
  | .ctrl o d a b bi _ => ctrlLegal o d a b bi
  | .sync o _ _ cmp _ _ => syncLegal o cmp
  | .mma f => mmaLegal f
  | .mxd f => f.sel != 3#2
  | .mxr _ => true
  | .mxs _ => true
  | .mxset _ => true
  | .dmv _ => true
  | _ => false

end Sys2Proof.Machine
end

