-- ==== Sys2Proof/Machine/Operands.lean ====
section
/-! DEFINITION. The operands of core instructions: scalar and address registers, vector elements by type, masks and lengths, and
the core's own local store. -/
namespace Sys2Proof.Machine
open Sys2Proof

/-! ### Scalar and address registers (R111, R113, R186) -/

/-- Scalar register `i`, modulo 32. -/
def Core.sreg (c : Core) (i : Nat) : Word := Tab.get c.s (i % 32) 0

/-- Writes scalar register `i`, modulo 32. -/
def Core.setS (c : Core) (i : Nat) (v : Word) : Core := { c with s := Tab.set c.s (i % 32) v 0 }

/-- Address register `i`, modulo 16. -/
def Core.areg (c : Core) (i : Nat) : Word := Tab.get c.a (i % 16) 0

/-- Writes address register `i`, modulo 16. -/
def Core.setA (c : Core) (i : Nat) (v : Word) : Core := { c with a := Tab.set c.a (i % 16) v 0 }

/-- The register that a register-file code names: 0 to 31 scalars, 32 to 47 address registers (R186). -/
def Core.rdCode (c : Core) (code : BitVec 6) : Word :=
  if code.toNat < 32 then c.sreg code.toNat else c.areg (code.toNat - 32)

/-- Writes the register that a code names (R186). -/
def Core.wrCode (c : Core) (code : BitVec 6) (v : Word) : Core :=
  if code.toNat < 32 then c.setS code.toNat v else c.setA (code.toNat - 32) v

/-- The FP64 or 64-bit value of a scalar pair: the named register, odd or even, holds the low word and the next one the high word;
s31 pairs with s0 (R113, log 31). -/
def Core.spair (c : Core) (i : Nat) : Nat := (c.sreg i).toNat + (c.sreg (i + 1)).toNat * 2 ^ 32

/-- Writes a scalar pair (R113). -/
def Core.setPair (c : Core) (i v : Nat) : Core := (c.setS i (BitVec.ofNat 32 v)).setS (i + 1) (BitVec.ofNat 32 (v / 2 ^ 32))

/-! ### Vector registers (R112, R114 to R118) -/

/-- How many elements of a TYPE a register holds (R112). -/
def tyCount (ty : Nat) : Nat := match ty with | 0 => 512 | 3 => 256 | 4 => 512 | _ => 1024

/-- The width in bits of a TYPE's elements (R112). -/
def tyBits (ty : Nat) : Nat := match ty with | 0 => 32 | 3 => 64 | 4 => 32 | _ => 16

/-- The element format of a TYPE (R192). -/
def tyElem (ty : Nat) : Elem :=
  match ty with
  | 0 => .flt fFP32
  | 1 => .flt fBF16
  | 2 => .flt fFP16
  | 3 => .flt fFP64
  | 4 => .int 32
  | _ => .int 16

/-- Whether a TYPE is a floating-point one. -/
def tyFloat (ty : Nat) : Bool := decide (ty < 4)

/-- The floating-point format of a TYPE; FP32 where it is an integer. -/
def tyFmt (ty : Nat) : Fmt := match ty with | 1 => fBF16 | 2 => fFP16 | 3 => fFP64 | _ => fFP32

/-- Lane `l` of vector register `r`, modulo 64. -/
def Core.lane (c : Core) (r l : Nat) : Word := Tab.get c.v (r % 64 * 512 + l) 0

/-- Writes a lane. -/
def Core.setLane (c : Core) (r l : Nat) (v : Word) : Core := { c with v := Tab.set c.v (r % 64 * 512 + l) v 0 }

/-- Element `i` of a vector register (R112). -/
def Core.elem (c : Core) (r ty i : Nat) : Nat :=
  match tyBits ty with
  | 32 => (c.lane r i).toNat
  | 64 => (c.lane r (2 * i)).toNat + (c.lane r (2 * i + 1)).toNat * 2 ^ 32
  | _ => bits (c.lane r (i / 2)).toNat (16 * (i % 2)) 16

/-- Writes element `i` of a vector register (R112). -/
def Core.setElem (c : Core) (r ty i v : Nat) : Core :=
  match tyBits ty with
  | 32 => c.setLane r i (BitVec.ofNat 32 v)
  | 64 => (c.setLane r (2 * i) (BitVec.ofNat 32 v)).setLane r (2 * i + 1) (BitVec.ofNat 32 (v / 2 ^ 32))
  | _ =>
    let w := (c.lane r (i / 2)).toNat
    c.setLane r (i / 2) (BitVec.ofNat 32
      (if i % 2 = 0 then w / 2 ^ 16 * 2 ^ 16 + v % 2 ^ 16 else w % 2 ^ 16 + v % 2 ^ 16 * 2 ^ 16))

/-- Mask register `r`, modulo 16. -/
def Core.mreg (c : Core) (r : Nat) : BitVec 1024 := Tab.get c.m (r % 16) 0

/-- Writes a mask register. -/
def Core.setM (c : Core) (r : Nat) (v : BitVec 1024) : Core := { c with m := Tab.set c.m (r % 16) v 0 }

/-- The vector length: the immediate or the named scalar, at most `count` (R114, R192). -/
def Core.vlen (c : Core) (vli : Bool) (vl : BitVec 11) (count : Nat) : Nat :=
  min count (if vli then vl.toNat else (c.sreg (vl.toNat % 32)).toNat)

/-- Whether element `i` is active under a write mask (R116, R117). -/
def Core.active (c : Core) (me : Bool) (mask : BitVec 4) (i : Nat) : Bool := !me || (c.mreg mask.toNat).getLsbD i

/-- Writes computed elements to a vector register: active ones their value, inactive ones 0 in zero mode and nothing in merge
mode (R117, R118). The list holds the values of elements 0 onward. -/
def Core.putVec (c : Core) (r ty : Nat) (me mz : Bool) (mask : BitVec 4) (vals : List Nat) : Core :=
  vals.zipIdx.foldl (fun e x =>
    if c.active me mask x.2 then e.setElem r ty x.2 x.1 else if mz then e.setElem r ty x.2 0 else e) c

/-- Writes computed bits to a mask register, below the length the list has (R116 to R118). -/
def Core.putMask (c : Core) (r : Nat) (me mz : Bool) (mask : BitVec 4) (vals : List Bool) : Core :=
  let old := (c.mreg r).toNat
  let new := vals.zipIdx.foldl (fun m x =>
    let b := if c.active me mask x.2 then x.1 else if mz then false else old.testBit x.2
    if b then m ||| 2 ^ x.2 else m) (old / 2 ^ vals.length * 2 ^ vals.length)
  c.setM r (BitVec.ofNat 1024 new)

/-- The scalar of a broadcast operand, as an element of the TYPE (R125). -/
def Core.scalarElem (c : Core) (r ty : Nat) : Nat :=
  match tyBits ty with
  | 64 => c.spair r
  | 32 => (c.sreg r).toNat
  | _ => (c.sreg r).toNat % 2 ^ 16

/-! ### The core's own local store (R126, R149, R256) -/

/-- Bytes of a local store. -/
def lsBytes : Nat := 0x800000

/-- Reads `len` bytes of core `n`'s own local store at offset `off`; beyond its end it is out of the map (R126). -/
def Dev.lsLoad (d : Dev) (n off len : Nat) : Dev × St × List Byte :=
  if off + len ≤ lsBytes then d.load (lsAddr n + off) len else (d, stOutOfMap, [])

/-- Writes bytes to core `n`'s own local store; `fin` says which granules, by flat address, hold finite elements only. -/
def Dev.lsStore (d : Dev) (n off : Nat) (bs : List Byte) (fin : Nat → Bool) : Dev × St :=
  if off + bs.length ≤ lsBytes then
    let r := d.store (lsAddr n + off) bs 0 fin
    (r.dev, r.st)
  else (d, stOutOfMap)

/-- Groups bytes at rising addresses into runs of neighbours. -/
def runsOf (bs : List (Nat × Byte)) : List (Nat × List Byte) :=
  match bs with
  | [] => []
  | (a, b) :: r => match runsOf r with
    | (a', t) :: rest => if a' = a + 1 then (a, b :: t) :: rest else (a, [b]) :: (a', t) :: rest
    | [] => [(a, [b])]

/-- Writes runs of bytes to a local store one after the other; the first refusal is the status, and the others land (R199). -/
def Dev.lsStoreRuns (d : Dev) (n : Nat) (rs : List (Nat × List Byte)) (fin : Nat → Bool) : Dev × St :=
  rs.foldl (fun x r =>
    let y := x.1.lsStore n r.1 r.2 fin
    (y.1, if x.2 = stOk then y.2 else x.2)) (d, stOk)

/-- Reads several pieces of a local store, in order, up to the first that fails. -/
def Dev.lsLoads (d : Dev) (n : Nat) (ps : List (Nat × Nat)) : Dev × St × List (List Byte) :=
  match ps with
  | [] => (d, stOk, [])
  | (o, len) :: r =>
    let x := d.lsLoad n o len
    if x.2.1 = stOk then
      let y := x.1.lsLoads n r
      (y.1, y.2.1, x.2.2 :: y.2.2)
    else (x.1, x.2.1, [])

/-! ### Orders that are not fixed (R145, R370) -/

/-- Takes the entry at a place out of a list. -/
def takeAt {α : Type} (xs : List α) (i : Nat) : List α := xs.take i ++ xs.drop (i + 1)

/-- Combines values two at a time, in an order and grouping that the free number `n` picks, until one is left. -/
def combineFree {α : Type} (op : α → α → α) (z : α) (xs : List α) (n fuel : Nat) : α :=
  match fuel with
  | 0 => xs.headD z
  | k + 1 =>
    if xs.length ≤ 1 then xs.headD z
    else
      let i := n % xs.length
      let rest := takeAt xs i
      let j := n / xs.length % rest.length
      combineFree op z (op (xs.getD i z) (rest.getD j z) :: takeAt rest j) (n / (xs.length * rest.length)) k

end Sys2Proof.Machine
end

