-- ==== Sys2Proof/Machine/Scoreboard.lean ====
section
/-! DEFINITION. The scoreboard of a core: which registers and which 4 KiB blocks of the local store an instruction claims (R179,
R180), and what a DMV instruction's transfer descriptors say (R257). -/
namespace Sys2Proof.Machine
open Sys2Proof

/-! ### Registers (R179). v0 to v63 are 0 to 63, masks 64 to 79, scalars 96 to 127, address registers 128 to 143, sets 160 to 163 -/

/-- Scalar `i`'s number. -/
def sId (i : Nat) : Nat := 96 + i % 32
/-- Address register `i`'s number. -/
def aId (i : Nat) : Nat := 128 + i % 16
/-- Vector register `i`'s number. -/
def vId (i : Nat) : Nat := i % 64
/-- Mask register `i`'s number. -/
def mId (i : Nat) : Nat := 64 + i % 16
/-- Accumulator set `i`'s number. -/
def accId (i : Nat) : Nat := 160 + i % 4
/-- The numbers of a scalar pair (R113). -/
def pairIds (i : Nat) : List Nat := [sId i, sId (i + 1)]
/-- The number of the register that a register-file code names (R186). -/
def codeId (c : BitVec 6) : Nat := if c.toNat < 32 then sId c.toNat else aId (c.toNat - 32)

/-- The scalar that holds a vector length, where a scalar does. -/
def vlIds (vli : Bool) (vl : BitVec 11) : List Nat := if vli then [] else [sId (vl.toNat % 32)]

/-- The second source of R192: a vector, or the scalar that SUB[6] broadcasts. -/
def VecF.vbIds (f : VecF) : List Nat :=
  if f.sub.getLsbD 6 then (if f.ty = 3 then pairIds f.vb.toNat else [sId f.vb.toNat]) else [vId f.vb.toNat]

/-- The mask and length registers of a vector instruction. -/
def VecF.ctlIds (f : VecF) : List Nat := vlIds f.vli f.vl ++ (if f.me then [mId f.mask.toNat] else [])

/-- How many destination registers a conversion fills (R120). -/
def cvtRegs (src dst : Nat) : Nat := max 1 (tyCount src / tyCount dst)

/-- The scalar of a reduction's or scan's value in a TYPE (R113). -/
def scalarIds (ty i : Nat) : List Nat := if ty = 3 then pairIds i else [sId i]

/-- Registers that a VXE arithmetic instruction reads. -/
def vxaReads (o : VxaOp) (f : VecF) : List Nat :=
  let va := vId f.va.toNat
  f.ctlIds ++ match o with
    | .abs => [va]
    | .neg => [va]
    | .fma => va :: vId f.vc.toNat :: f.vbIds
    | .sel => mId f.vc.toNat :: va :: f.vbIds
    | .bcast => scalarIds f.ty.toNat f.vb.toNat
    | .mand => [mId f.va.toNat, mId f.vb.toNat]
    | .mor => [mId f.va.toNat, mId f.vb.toNat]
    | .mxor => [mId f.va.toNat, mId f.vb.toNat]
    | .mnot => [mId f.va.toNat]
    | .mpop => [mId f.va.toNat]
    | .cvt _ => va :: (List.range 3).map (fun i => sId (f.vc.toNat + i))
    | .rotb => va :: f.vbIds ++ (if f.sub.getLsbD 0 then [] else [sId f.vc.toNat])
    | .perm => va :: f.vbIds
    | .red _ => [va]
    | .scan _ => va :: scalarIds f.ty.toNat (f.sub.toNat / 2) ++ (if f.vc.getLsbD 5 then [] else [mId f.vc.toNat])
    | .scanLr => va :: f.vbIds ++ scalarIds f.ty.toNat (f.sub.toNat / 2) ++ (if f.vc.getLsbD 5 then [] else [mId f.vc.toNat])
    | .topk => [va]
    | _ => va :: f.vbIds

/-- Registers that a VXE arithmetic instruction writes. -/
def vxaWrites (o : VxaOp) (f : VecF) : List Nat :=
  match o with
  | .cmp => [mId f.vd.toNat]
  | .mand => [mId f.vd.toNat]
  | .mor => [mId f.vd.toNat]
  | .mxor => [mId f.vd.toNat]
  | .mnot => [mId f.vd.toNat]
  | .mpop => [sId f.vd.toNat]
  | .cvt t => (List.range (cvtRegs f.ty.toNat t.toNat)).map (fun i => vId (f.vd.toNat + i))
  | .red _ => scalarIds f.ty.toNat f.vd.toNat
  | .scan _ => vId f.vd.toNat :: scalarIds f.ty.toNat (f.sub.toNat / 2)
  | .scanLr => vId f.vd.toNat :: scalarIds f.ty.toNat (f.sub.toNat / 2)
  | .topk => [vId f.vd.toNat, vId f.vb.toNat]
  | _ => [vId f.vd.toNat]

/-! The 17-bit field of the VXE memory class (R193). -/

/-- SQ, the first of the six scalars of a quantising instruction. -/
def MemF.sq (f : MemF) : Nat := f.f17.toNat / 256 % 32
/-- The scale-address register of a quantising instruction. -/
def MemF.scaleA (f : MemF) : Nat := f.f17.toNat / 8192 % 16
/-- RM of a quantising instruction. -/
def MemF.rm (f : MemF) : Nat := f.f17.toNat / 32 % 8
/-- SAT of a quantising instruction. -/
def MemF.sat (f : MemF) : Bool := f.f17.getLsbD 4
/-- The element format of a quantising instruction. -/
def MemF.fmt (f : MemF) : Nat := f.f17.toNat % 16
/-- The index register of a gather or scatter. -/
def MemF.idx (f : MemF) : Nat := f.f17.toNat / 2048 % 64
/-- IDXP of a gather or scatter. -/
def MemF.idxp (f : MemF) : Nat := f.f17.toNat / 512 % 4
/-- The element size in bytes of a gather or scatter. -/
def MemF.size (f : MemF) : Nat := 2 ^ (f.f17.toNat / 128 % 4)
/-- The scalar that bounds the index of a gather or scatter. -/
def MemF.bound (f : MemF) : Nat := f.f17.toNat / 4 % 32

/-- How many index registers a gather or scatter takes: two for 16-bit types, whose elements outnumber a register's indices
(log 8). -/
def MemF.idxRegs (f : MemF) : Nat := if tyBits f.ty.toNat = 16 then 2 else 1

/-- The six scalars of a quantising instruction. -/
def MemF.sqIds (f : MemF) : List Nat := (List.range 6).map (fun i => sId (f.sq + i))

/-- Registers that a VXE memory instruction reads. -/
def vxmReads (o : VxmOp) (f : MemF) (rows : Nat) : List Nat :=
  let ctl := vlIds f.vli f.vl ++ (if f.me then [mId f.mask.toNat] else [])
  let a := aId f.a.toNat
  let v := vId f.vr.toNat
  match o with
  | .ld => a :: ctl
  | .st => a :: v :: ctl
  | .ldq => a :: aId f.scaleA :: f.sqIds ++ ctl
  | .stq => a :: aId f.scaleA :: v :: f.sqIds ++ ctl
  | .stqs => a :: aId f.scaleA :: f.sqIds ++ (List.range rows).map (fun i => vId (f.vr.toNat + i)) ++ ctl
  | .gath => a :: sId f.bound :: (List.range f.idxRegs).map (fun i => vId (f.idx + i)) ++ ctl
  | .scat => a :: v :: sId f.bound :: (List.range f.idxRegs).map (fun i => vId (f.idx + i)) ++ ctl
  | .scadd => a :: v :: sId f.bound :: (List.range f.idxRegs).map (fun i => vId (f.idx + i)) ++ ctl
  | .xacc => a :: (List.range 3).map (fun i => sId (f.vr.toNat + i))
  | .sftl => [a]
  | .sfml => [a]
  | .rsx => [a, sId f.vr.toNat, sId (f.vr.toNat + 1)]
  | .rsm => [a, sId f.vr.toNat]

/-- Registers that a VXE memory instruction writes. -/
def vxmWrites (o : VxmOp) (f : MemF) : List Nat :=
  match o with
  | .ld => [vId f.vr.toNat]
  | .ldq => [vId f.vr.toNat]
  | .gath => [vId f.vr.toNat]
  | _ => []

/-- The scalars that fix how many registers an instruction reads or writes: ROWS of an STQS, r0 and r1 of an RSF. -/
def CoreInstr.spanIds (i : CoreInstr) : List Nat :=
  match i with
  | .vxm .stqs f => [sId (f.sq + 5)]
  | .rsu .rsf f => [sId f.va.toNat, sId f.vb.toNat]
  | _ => []

/-- Registers that an instruction reads; where `whole`, its span is not known and is taken whole. -/
def Core.reads (c : Core) (whole : Bool) (i : CoreInstr) : List Nat :=
  match i with
  | .ctrl o _ a b bi _ => (if o.readsA bi then [codeId a] else []) ++ (if o.readsB bi then [codeId b] else [])
  | .sync o s a _ _ _ => match o with
    | .waitw => [sId s.toNat, aId a.toNat]
    | .flagc => [sId s.toNat]
    | _ => []
  | .mma f => [accId f.acc.toNat, sId f.sm.toNat, sId f.sn.toNat, sId f.sk.toNat]
  | .mxr f => [accId f.acc.toNat, sId f.slo.toNat, sId f.shi.toNat] ++ pairIds f.sseed.toNat
  | .mxs f => aId f.a.toNat :: (if f.restore then [] else [accId f.acc.toNat])
  | .mxd f => [aId f.a.toNat]
  | .mxset _ => []
  | .vxa o f => vxaReads o f
  | .vxm o f => vxmReads o f (if whole then 32 else min 32 (c.sreg (f.sq + 5)).toNat)
  | .sfu o f => match o with
    | .sfn => vId f.va.toNat :: f.ctlIds
    | .gact => vId f.va.toNat :: f.vbIds ++ f.ctlIds
    | .sfmp => vId f.va.toNat :: (if f.sub.getLsbD 0 then [] else f.vbIds) ++ f.ctlIds
    | .sftb => [sId f.va.toNat]
    | .sfts => [sId f.va.toNat]
    | .sfmode => []
  | .rsu o f => match o with
    | .rsq => vId f.va.toNat :: f.ctlIds
    | .rsf => [sId f.va.toNat, sId f.vb.toNat, sId f.vc.toNat]
  | .dmv f => [aId f.a.toNat, sId f.sc.toNat]

/-- How many rows an RSF or RSX reads (R172). -/
def rowSpan (r0 r1 : Word) : Nat := if r1.toNat < r0.toNat then 0 else min r1.toNat (r0.toNat + 31) - r0.toNat + 1

/-- Registers that an instruction writes; where `whole`, its span is not known and is taken whole. -/
def Core.writes (c : Core) (whole : Bool) (i : CoreInstr) : List Nat :=
  match i with
  | .ctrl o d _ _ _ _ => if o.writesD then [codeId d] else []
  | .sync o s _ _ _ _ => match o with
    | .flagr => [sId s.toNat]
    | _ => []
  | .mma f => [accId f.acc.toNat]
  | .mxr f => if f.clr then [accId f.acc.toNat] else []
  | .mxs f => if f.restore then [accId f.acc.toNat] else []
  | .mxd _ => []
  | .mxset _ => []
  | .vxa o f => vxaWrites o f
  | .vxm o f => vxmWrites o f
  | .sfu o f => match o with
    | .sfn => [vId f.vd.toNat]
    | .gact => [vId f.vd.toNat]
    | .sfmp => [vId f.vd.toNat]
    | _ => []
  | .rsu o f => match o with
    | .rsq => []
    | .rsf => if f.sub.getLsbD 6 then
        (List.range (if whole then 32 else rowSpan (c.sreg f.va.toNat) (c.sreg f.vb.toNat))).map (fun i => sId (f.vd.toNat + i))
      else [vId f.vd.toNat]
  | .dmv _ => []

/-! ### Blocks of the local store (R180) -/

/-- A claim of the blocks from `lo` to `hi`. -/
structure Claim where
  lo : Nat
  hi : Nat
  wr : Bool
  deriving DecidableEq, Repr

/-- The claim of the bytes from `lo` up to but not including `hi`, cut to the store; none where there are no bytes. -/
def claimOf (lo hi : Int) (wr : Bool) : List Claim :=
  let l := (max lo 0).toNat
  let h := (min hi (lsBytes : Int)).toNat
  if l < h then [⟨l / 4096, (h - 1) / 4096, wr⟩] else []

/-- Whether two claims are in conflict (R180). -/
def Claim.clash (x y : Claim) : Bool := decide (x.lo ≤ y.hi ∧ y.lo ≤ x.hi) && (x.wr || y.wr)

/-- The bytes that a descriptor reaches over `n0` by `n1` storage positions of format `fmt`. -/
def TDesc.span (t : TDesc) (fmt n0 n1 : Nat) : Int × Int :=
  let b : Int := t.base
  let st : Int := if t.rank ≥ 2 then signed 64 (t.strides.getD 1 0) * ((n1 : Int) - 1) else 0
  (b + min st 0, b + max st 0 + (((if t.rank = 0 then 1 else n0) * elemBits fmt + 7) / 8 : Nat))

/-- The claims of a slot's descriptor over `n0` by `n1` logical positions under the block scaling `sc`. -/
def TDesc.claims (t : TDesc) (fmt sc n0 n1 : Nat) (tr wr : Bool) : List Claim :=
  if n0 = 0 ∨ n1 = 0 then []
  else
    let m0 := if tr then n1 else n0
    let m1 := if tr then n0 else n1
    let s := t.span fmt m0 m1
    claimOf s.1 s.2 wr ++
      (if sc = 0 then []
       else claimOf t.scaleBase (t.scaleBase + t.scaleIndex sc [m0 - 1, m1 - 1] + 1) wr)

/-- The descriptor in slot `i` of a core. -/
def Core.slot (c : Core) (i : Nat) : Slot := Tab.get c.slots (i % 16) Slot.reset

/-- Slot `i`'s descriptor, sharding ignored (R216). -/
def Core.slotDesc (c : Core) (i : Nat) : TDesc :=
  let t := TDesc.parse (c.slot i).desc
  { t with sharded := false, shards := [] }

/-- Rows of the output tile of a mode (R77); 3 behaves as Square. -/
def modeRows (mode : Nat) : Nat := match mode with | 1 => 32 | 2 => 8 | _ => 128

/-- Rows and columns of a class's tile (R77, R78). -/
def tileOf (cls mode : Nat) : Nat × Nat := if cls = 0 then (modeRows mode, 16384 / modeRows mode) else (32, 32)

/-- M, N and K of an MMA after R82's and R84's limits. -/
def Core.mmaDims (c : Core) (f : MmaF) : Nat × Nat × Nat :=
  let t := tileOf f.cls.toNat f.mode.toNat
  (min ((c.sreg f.sm.toNat).toNat % 2 ^ 24) t.1, min ((c.sreg f.sn.toNat).toNat % 2 ^ 24) t.2, (c.sreg f.sk.toNat).toNat % 2 ^ 24)

/-- Whether B is read as a 2:4-compressed operand (R97): FP8, FP4 and BF16 only. -/
def MmaF.sparse (f : MmaF) : Bool := f.formB = 2 && [0, 1, 4, 7].contains f.fmtB.toNat

/-- Whether an operand is read transposed: its form, and its descriptor's TR, which has effect from rank 2 on (R82, R209, R211, R217). -/
def MmaF.trA (f : MmaF) (t : TDesc) : Bool := (f.formA == 1) != (decide (t.rank ≥ 2) && t.tr)
/-- As `trA`, for a dense B. -/
def MmaF.trB (f : MmaF) (t : TDesc) : Bool := !f.sparse && ((f.formB == 1) != (decide (t.rank ≥ 2) && t.tr))

/-- Rows of a set by its tag (R106). -/
def AccTag.rows (t : AccTag) : Nat := match t.cls with | .lp => modeRows t.mode | _ => 32
/-- Columns of a set by its tag. -/
def AccTag.cols (t : AccTag) : Nat := match t.cls with | .lp => 16384 / modeRows t.mode | _ => 32

/-- Set `i` of a core. -/
def Core.accSet (c : Core) (i : Nat) : AccSet := Tab.get c.acc (i % 4) AccSet.reset

/-- The rows that an MXR reads: first, number (R106). -/
def Core.mxrRows (c : Core) (f : MxrF) : Nat × Nat :=
  let r := (c.accSet f.acc.toNat).tag.rows
  let r0 := (c.sreg f.slo.toNat).toNat
  let r1 := min (c.sreg f.shi.toNat).toNat (r - 1)
  (r0, if r0 ≥ r ∨ (c.sreg f.shi.toNat).toNat < r0 then 0 else r1 - r0 + 1)

/-- Bytes of a set in raw form (R110). -/
def AccTag.rawBytes (t : AccTag) : Nat := match t.cls with | .lp => if t.int then 131072 else 65536 | _ => 81920

/-- A transfer descriptor's fields (R257). -/
structure XferD where
  kind    : Nat
  notify  : Bool
  len     : Nat
  src     : Nat
  dst     : Nat
  rows    : Nat
  sstride : Nat
  dstride : Nat
  stage   : Nat
  slen    : Nat
  note    : Nat
  deriving DecidableEq, Repr

/-- Reads a transfer descriptor (R257). -/
def XferD.parse (b : List Byte) : XferD :=
  ⟨field b 0 1, bit (field b 1 1) 0, field b 4 4, field b 8 8, field b 0x10 8, field b 0x18 4, field b 0x20 8, field b 0x28 8,
   field b 0x30 8, max 4096 (field b 0x38 4), field b 0x3C 4 / 4 * 4⟩

/-- Rows that a transfer moves. -/
def XferD.nrows (x : XferD) : Nat := if x.kind = 2 then x.rows else 1

/-- The claims of one side of a transfer on the core's own local store. -/
def XferD.side (x : XferD) (n a stride : Nat) (wr : Bool) : List Claim :=
  if x.len = 0 ∨ x.nrows = 0 then []
  else
    let b : Int := (a : Int) - lsAddr n
    let st : Int := if x.kind = 2 then signed 64 stride * ((x.nrows : Int) - 1) else 0
    claimOf (b + min st 0) (b + max st 0 + x.len) wr

/-- The claims of a transfer descriptor. -/
def XferD.claims (x : XferD) (n : Nat) : List Claim :=
  (if x.kind = 1 ∨ x.kind = 2 then x.side n x.src x.sstride false else []) ++
  (if 1 ≤ x.kind ∧ x.kind ≤ 3 then x.side n x.dst x.dstride true else []) ++
  (if x.notify then claimOf x.note (x.note + 4) true else [])

/-- The local-store offset of the first descriptor of a DMV instruction, 64 B-aligned (R194, R257). -/
def Core.dmvOff (c : Core) (f : DmvF) : Nat := ((c.areg f.a.toNat).toNat + 64 * f.imm.toNat) / 64 * 64

/-- The address of an MXS (R191). -/
def Core.mxsAddr (c : Core) (f : MxsF) : Nat := (c.areg f.a.toNat).toNat + 64 * f.imm.toNat

/-- The tag that a restore gives a set: the one saved with the raw form at that address, which the raw form does not carry; the
set's own where nothing was saved there (R110, log 12). -/
def Core.restoreTag (c : Core) (f : MxsF) : AccTag :=
  match Tab.get c.savedTags (c.mxsAddr f) none with
  | some t => t
  | none => (c.accSet f.acc.toNat).tag

/-- The address of a VXE memory access before its low bits are dropped (R126, R193). -/
def Core.memAddr (c : Core) (f : MemF) (unit : Nat) : Nat := (c.areg f.a.toNat).toNat + unit * f.f17.toNat

/-- The claims of an MMA. -/
def Core.mmaClaims (c : Core) (f : MmaF) : List Claim :=
  let (m, n, k) := c.mmaDims f
  if m = 0 ∨ n = 0 ∨ k = 0 then []
  else
    let ta := c.slotDesc f.da.toNat
    let tb := c.slotDesc f.db.toNat
    let tc := c.slotDesc f.dc.toNat
    let sa := ta.operandScaling f.fmtA.toNat
    let sb := tb.operandScaling f.fmtB.toNat
    let a := ta.claims f.fmtA.toNat sa k m (f.trA ta) false
    let b := if f.sparse then
        tb.claims f.fmtB.toNat 0 (ceilDiv k 4 * 2) n false false ++
        (if sb = 0 then [] else claimOf tb.scaleBase (tb.scaleBase + (ceilDiv (tb.size 0) 16 * (n - 1) + ceilDiv k 32 : Nat)) false) ++
        claimOf (c.slot f.db.toNat).metaAddr ((c.slot f.db.toNat).metaAddr + n * ceilDiv (tb.size 0) 4) false
      else tb.claims f.fmtB.toNat sb k n (f.trB tb) false
    let mask (i rows cols : Nat) : List Claim :=
      let p := (c.slot i).mask
      if p = 0 then [] else claimOf p (p + ceilDiv (ceilDiv rows 32 * ceilDiv cols 32) 8) false
    a ++ b ++ mask f.da.toNat m k ++ mask f.db.toNat k n ++ (if f.init then tc.claims tc.fmt (tc.mxaScaling tc.fmt) n m false false else [])

/-- The claims of an MXR. -/
def Core.mxrClaims (c : Core) (f : MxrF) : List Claim :=
  let (r0, cnt) := c.mxrRows f
  let cols := (c.accSet f.acc.toNat).tag.cols
  if cnt = 0 then []
  else
    let d := c.slotDesc f.dd.toNat
    let vec (i : BitVec 4) (len : Nat) : List Claim :=
      if i = 0 then [] else let t := c.slotDesc i.toNat; t.claims t.fmt (t.mxaScaling t.fmt) len 1 false false
    d.claims d.fmt (d.mxaScaling d.fmt) cols (r0 + cnt) false true ++ vec f.er (r0 + cnt) ++ vec f.ec cols ++ vec f.eb cols ++
      (if f.eq = 0 then [] else let t := c.slotDesc f.eq.toNat; t.claims t.fmt (t.mxaScaling t.fmt) cols (r0 + cnt) false false)

/-- The claims of a VXE memory instruction. -/
def Core.vxmClaims (c : Core) (o : VxmOp) (f : MemF) : List Claim :=
  let a : Nat := (c.areg f.a.toNat).toNat
  let sa : Nat := (c.areg f.scaleA).toNat
  let cnt := tyCount f.ty.toNat
  let at64 := c.memAddr f 64 / 64 * 64
  let at32 := c.memAddr f 32 / 32 * 32
  let el : Nat := ceilDiv (cnt * elemBits f.fmt) 8
  let tab := (c.sreg f.bound).toNat * f.size
  match o with
  | .ld => claimOf at64 (at64 + 2048 : Nat) false
  | .st => claimOf at64 (at64 + 2048 : Nat) true
  | .ldq => claimOf a (a + el : Nat) false ++ claimOf sa (sa + cnt / 32 + 1 : Nat) false
  | .stq => claimOf a (a + el : Nat) true ++ claimOf sa (sa + cnt / 32 : Nat) true
  | .stqs =>
    let st : Int := (c.sreg (f.sq + 4)).toNat * 31
    claimOf ((a : Int) + min st 0) ((a : Int) + max st 0 + 2048) true ++ claimOf sa (sa + cnt / 32 : Nat) true
  | .gath => claimOf a (a + tab : Nat) false
  | .scat => claimOf a (a + tab : Nat) true
  | .scadd => claimOf a (a + tab : Nat) true
  | .xacc =>
    let n := 80 * (c.sreg f.vr.toNat).toNat
    let s1 := (c.sreg (f.vr.toNat + 1)).toNat
    let s2 := (c.sreg (f.vr.toNat + 2)).toNat
    claimOf (c.memAddr f 64) (c.memAddr f 64 + n : Nat) true ++ claimOf s1 (s1 + n : Nat) false ++ claimOf s2 (s2 + n : Nat) false
  | .sftl => claimOf at64 (at64 + 8256 : Nat) false
  | .sfml => claimOf at64 (at64 + 192 : Nat) false
  | .rsx => claimOf at32 (at32 + 32 * rowSpan (c.sreg f.vr.toNat) (c.sreg (f.vr.toNat + 1)) : Nat) true
  | .rsm => claimOf at32 (at32 + 32 * (c.sreg f.vr.toNat).toNat : Nat) true

/-- The most transfer descriptors of one DMV instruction that fit in a local store. -/
def dmvMax : Nat := lsBytes / 64

/-- How many transfer descriptors a DMV instruction takes. -/
def Core.dmvCount (c : Core) (f : DmvF) : Nat := min dmvMax (c.sreg f.sc.toNat).toNat

/-- The claim of a DMV instruction on its transfer descriptors. -/
def Core.dmvListClaim (c : Core) (f : DmvF) : List Claim := claimOf (c.dmvOff f) (c.dmvOff f + 64 * c.dmvCount f : Nat) false

/-- The transfer descriptors of a DMV instruction: those it has read where it has started, or those in the local store. -/
def Dev.dmvDescs (d : Dev) (n : Nat) (e : QEntry) (f : DmvF) : List (List Byte) :=
  let c := d.core n
  if e.started then (c.xfers.filter (fun x => x.seq == e.seq)).map (·.raw)
  else (List.range (c.dmvCount f)).map (fun i => d.peek (lsAddr n + c.dmvOff f + 64 * i) 64)

/-- The claims of a queued instruction on core `n`'s local store (R180). -/
def Dev.claims (d : Dev) (n : Nat) (e : QEntry) : List Claim :=
  let c := d.core n
  match e.instr with
  | .mma f => c.mmaClaims f
  | .mxr f => c.mxrClaims f
  | .mxs f =>
    let a := c.mxsAddr f
    let t := if f.restore then c.restoreTag f else (c.accSet f.acc.toNat).tag
    claimOf a (a + t.rawBytes : Nat) (!f.restore)
  | .mxd f =>
    let a := (c.areg f.a.toNat).toNat + 8 * f.imm.toNat
    if f.sel = 0 then claimOf a (a + 128 : Nat) false else []
  | .vxm o f => c.vxmClaims o f
  | .dmv f => c.dmvListClaim f ++ (d.dmvDescs n e f).flatMap (fun x => (XferD.parse x).claims n)
  | _ => []

/-! ### Release (R178, R179) -/

/-- Whether two lists share a number. -/
def meets (xs ys : List Nat) : Bool := xs.any ys.contains

/-- What an instruction of the queue reads and writes: its registers (R179). -/
structure Foot where
  entry  : QEntry
  reads  : List Nat
  writes : List Nat

/-- The registers of every queued instruction, in program order: a span whose scalars an earlier instruction has still to write is
taken whole (R179, log 29). -/
def Core.feet (c : Core) : List Foot :=
  c.queue.foldl (fun fs e =>
    let whole := fs.any (fun y => !y.entry.ran && meets y.writes e.instr.spanIds)
    fs ++ [⟨e, c.reads whole e.instr, c.writes whole e.instr⟩]) []

/-- Whether an earlier instruction that has not had its effect holds `x` back from its registers (R179). -/
def Core.hazard (c : Core) (y : Foot) (x : CoreInstr) : Bool :=
  !y.entry.ran && (meets y.writes (c.reads false x) || meets y.reads (c.writes false x) || meets y.writes (c.writes false x))

/-- Whether a token conflict holds `x` back behind an earlier `y`; the VXM queue's own do not count (R180). -/
def Dev.tokenClash (d : Dev) (n : Nat) (y x : QEntry) : Bool :=
  !(y.eng == .vxm && x.eng == .vxm) &&
    (d.claims n y).any (fun a => (d.claims n x).any (fun b => a.clash b))

/-- Whether an earlier instruction lets a later one of the same queue start: it has had its effect, or it is one of those that
go on beside their engine (R162, R194). -/
def QEntry.lets (y : QEntry) : Bool :=
  y.ran || (y.started && match y.instr with
    | .vxm .sftl _ => true
    | .vxm .sfml _ => true
    | .sfu .sftb _ => true
    | .dmv _ => true
    | _ => false)

/-- Whether a waiting RSM holds back the RSU's queue (R175). -/
def rsmHolds (y x : QEntry) : Bool :=
  x.eng == .rsu && !y.ran && match y.instr with | .vxm .rsm _ => true | _ => false

/-- Whether an instruction touches the local store (R180). -/
def CoreInstr.touchesLs (i : CoreInstr) : Bool :=
  match i with
  | .mma _ => true
  | .mxr _ => true
  | .mxs _ => true
  | .mxd _ => true
  | .vxm _ _ => true
  | .dmv _ => true
  | _ => false

/-- Whether what fixes `y`'s reach is still to be written by one of the instructions `zs` before it: a scalar or address register, an
operand slot, the form of the set that an MXR or an MXS names, the transfer descriptors of a DMV instruction. Its blocks are not
known then, and every later access of the local store waits (log 29). -/
def Dev.reachOpen (d : Dev) (n : Nat) (zs : List Foot) (y : QEntry) : Bool :=
  let c := d.core n
  let regs := (c.reads false y.instr).filter (fun i => decide (96 ≤ i ∧ i < 144))
  y.instr.touchesLs && zs.any (fun z => decide (z.entry.seq < y.seq) && !z.entry.ran && (meets z.writes regs ||
    (match y.instr, z.entry.instr with
      | .mma _, .mxd _ => true
      | .mxr f, w => (match w with | .mxd _ => true | _ => false) || z.writes.contains (accId f.acc.toNat)
      | .mxs f, _ => z.writes.contains (accId f.acc.toNat)
      | .dmv f, _ => !y.started && (d.claims n z.entry).any (fun a => (c.dmvListClaim f).any (fun b => a.clash b))
      | _, _ => false)))

/-- Whether instruction `x` of core `n` may start (R178 to R180). -/
def Dev.released (d : Dev) (n : Nat) (x : QEntry) : Bool :=
  let c := d.core n
  let fs := c.feet.filter (fun y => decide (y.entry.seq < x.seq))
  fs.all (fun y => (y.entry.eng != x.eng || y.entry.lets) && !(c.hazard y x.instr) &&
    (y.entry.ran || (!(d.tokenClash n y.entry x) && !(rsmHolds y.entry x) &&
      !(x.instr.touchesLs && d.reachOpen n fs y.entry))))

/-- Whether the scoreboard holds as many claiming instructions as it can (R181). -/
def Core.sbFull (c : Core) : Bool := decide ((c.queue.filter (fun y => y.instr.touchesLs)).length ≥ 48)

end Sys2Proof.Machine
end

