-- ==== Sys2Proof/Machine/FrontEnd.lean ====
section
/-! DEFINITION. The front end of a core: fetch and issue, control and sync instructions, the end of instructions, faults and
stops (R176 to R204). -/
namespace Sys2Proof.Machine
open Sys2Proof

/-- A meaning on the block's state, with the queue of commands left as it is. -/
def State.act (s : State) (f : Dev → Dev) : Host.Outcome State Fault Refusal := .next { s with dev := f s.dev }

/-! ### Program counter, loops, branches (R186 to R188) -/

/-- Loops back, or ends loops whose body the program counter has left at its end (R187). -/
def loopBack (pc : Nat) (fs : List LoopFrame) : Nat × List LoopFrame :=
  match fs with
  | [] => (pc, [])
  | f :: r => if pc = f.stop then (if f.left > 1 then (f.first, { f with left := f.left - 1 } :: r) else loopBack pc r) else (pc, f :: r)

/-- Continues at `pc`, which instructions in order have reached. -/
def Core.reach (c : Core) (pc : Nat) : Core := let x := loopBack pc c.loops; { c with pc := x.1, loops := x.2 }

/-- Continues after the present instruction. -/
def Core.next (c : Core) : Core := c.reach (c.pc + 8)

/-- A taken branch to `target` ends the loops whose body it leaves (R187). -/
def Core.jump (c : Core) (target : Nat) : Core :=
  { c with pc := target, loops := c.loops.filter (fun f => decide (f.first ≤ target ∧ target < f.stop)) }

/-- The target of a branch: PC + 8 × IMM32, signed, modulo 2^32 (R186, log 7). -/
def Core.target (c : Core) (dist : Word) : Nat := (BitVec.ofNat 32 c.pc + 8 * dist).toNat

/-! ### Ends, faults, stops (R196 to R200) -/

/-- Whether the front end may issue: the core is RUNNING, waits for nothing, has not been halted, and its scoreboard has room
(R181). -/
def Core.issuing (c : Core) : Bool := c.status == .running && c.wait.isNone && c.halt.isNone && !c.sbFull

/-- Halts issue: the first reason stays. -/
def Core.haltWith (c : Core) (reason : Nat) (st : St) (pc : Nat) : Core :=
  { c with halt := match c.halt with | none => some ⟨reason, st, pc⟩ | some h => some h }

/-- A fault of the front end itself at the present instruction (R184, R199). -/
def Core.frontFault (c : Core) (st : St) : Core := c.haltWith 1 st c.pc

/-- Records how a run ended (R198). -/
def Dev.endRun (d : Dev) (n reason : Nat) (st : St) (pc : Nat) : Dev :=
  let c := d.core n
  let d := d.setCore n { c with run := none, lastPc := pc, lastWhy := reason }
  match c.run with
  | some (r, k) => { d with runDone := d.runDone ++ [⟨r, k, n, reason, st, pc, none⟩] }
  | none => d

/-- Takes a pending action at a core that does not run: a code region is set, a stop is discharged; its clock runs again (R200,
R201, R203, R467). -/
def Dev.takeAction (d : Dev) (n : Nat) (a : PendAct) : Dev :=
  match a with
  | .load r k base len _ =>
    let c := d.core n
    { d.setCore n { c with codeBase := base, codeLen := len, cache := [], retained := false, gated := false } with acks := d.acks ++ [(r, k, n)] }
  | .stop r k => { d.setCore n { d.core n with gated := false } with acks := d.acks ++ [(r, k, n)] }

/-- The result of an earlier run at core `n` keeps that core's flags before the next run starts (R331). -/
def RunRes.keepFlags (x : RunRes) (n : Nat) (w : Word) : RunRes :=
  if x.core = n ∧ x.flags = none then { x with flags := some w } else x

/-- Starts a run at a core that is IDLE or STOPPED (R198, R332). -/
def Dev.startRun (d : Dev) (n : Nat) (q : RunReq) : Dev :=
  let c := d.core n
  { d with runDone := d.runDone.map (fun (x : RunRes) => x.keepFlags n c.cflags) }.setCore n { c with
    status := .running, pc := q.entry / 8 * 8, loops := [], wait := none, halt := none, run := some (q.ring, q.count),
    cflags := if q.clrf then 0 else c.cflags, curTag := 0, retained := false, gated := false }

/-- What follows when a core has become IDLE or STOPPED: pending actions are taken in order, then the next run that waits
starts (R198, R200, R201). -/
def Dev.settle (d : Dev) (n : Nat) : Dev :=
  let c := d.core n
  let d := d.setCore n { c with actions := [] }
  let d := c.actions.foldl (fun e a => e.takeAction n a) d
  match c.runQ with
  | [] => d
  | q :: rest => (d.setCore n { d.core n with runQ := rest }).startRun n q

/-- A core becomes IDLE at END (R189, R196). -/
def Dev.toIdle (d : Dev) (n : Nat) : Dev :=
  let c := d.core n
  ((d.setCore n { c with status := .idle, wait := none, stopReq := false }).endRun n 0 stOk c.pc).settle n

/-- A core becomes STOPPED for the reason it was halted (R199, R200). -/
def Dev.toStopped (d : Dev) (n : Nat) (h : Halt) : Dev :=
  let c := d.core n
  ((d.setCore n { c with status := .stopped, wait := none, halt := none, stopReq := false }).endRun n h.reason h.status h.pc).settle n

/-- An immediate CORE_STOP has taken effect once everything started has finished (R200). -/
def Dev.settleStop (d : Dev) (n : Nat) : Dev :=
  let c := d.core n
  match c.halt with
  | some h => if h.reason = 2 ∧ c.queue.isEmpty ∧ c.wait.isNone then d.toStopped n h else d
  | none => d

/-- An immediate CORE_STOP at a core: issue stops, what has not started is discarded, waits that take no instruction are given
up; a WAITW waits for its cancellation, and so does what has started at a core that is stopping for a fault already (R200,
log 30). -/
def Dev.stopNow (d : Dev) (n : Nat) : Dev :=
  let c := d.core n
  match c.status with
  | .running =>
    let w := match c.wait with
      | some (.waitw o k v) => some (.waitw o k v)
      | _ => none
    ((d.setCore n { (c.haltWith 2 stOk c.pc) with queue := c.queue.filter (fun e => e.started), wait := w, stopReq := true })).settleStop n
  | _ => d

/-! ### Engine instructions -/

/-- Replaces the entry of a queue that has the same place in program order. -/
def Core.setEntry (c : Core) (e : QEntry) : Core := { c with queue := c.queue.map (fun y => if y.seq = e.seq then e else y) }

/-- A fault of an engine's instruction: it and the later ones of its own queue are discarded, issue stops, and a wait of the
front end ends (R199). -/
def Core.engineFault (c : Core) (e : QEntry) (st : St) : Core :=
  let c := c.haltWith 1 st e.pc
  { c with queue := c.queue.filter (fun y => !(y.eng == e.eng && decide (e.seq ≤ y.seq))), wait := none }

/-- What an engine's instruction does: the block after it, its fault (OK where none), the flags it sets when it finishes, whether
its effect is whole. -/
structure Eff where
  dev   : Dev
  st    : St
  flags : Nat
  ran   : Bool

/-- The next instruction that engine `eng` of core `n` would start (R178). -/
def Core.head (c : Core) (eng : Eng) : Option QEntry := c.queue.find? (fun e => e.eng == eng && !e.started)

/-- Starts the head of an engine's queue where it is one that `pick` answers for and the scoreboard releases it (R178, R179);
otherwise nothing happens. -/
def Dev.runHead (d : Dev) (n : Nat) (eng : Eng) (pick : CoreInstr → Option (Dev → QEntry → Eff)) : Dev :=
  let c := d.core n
  match c.status, c.head eng with
  | .running, some e =>
    match pick e.instr with
    | none => d
    | some f =>
      if d.released n e then
        let x := f d e
        let c := x.dev.core n
        if x.st = stWait then d
        else if x.st = stOk then
          x.dev.setCore n (c.setEntry { e with started := true, ran := x.ran, flags := BitVec.ofNat 32 x.flags })
        else (x.dev.setCore n (c.engineFault e x.st)).settleStop n
      else d
  | _, _ => d

/-- The flags of a finished instruction are set and it leaves its queue (R195). -/
def Dev.finish (d : Dev) (n : Nat) (e : QEntry) : Dev :=
  let c := d.core n
  (d.setCore n { c.setFlags e.flags with queue := c.queue.filter (fun y => y.seq ≠ e.seq) }).settleStop n

/-- INSTRUCTION_FINISH (R195): the oldest instruction of an engine that has had its effect finishes. -/
def execInstructionFinish (core : Fin 96) (eng : Eng) (s : State) : Host.Outcome State Fault Refusal :=
  s.act (fun d => match (d.core core).queue.find? (fun e => e.eng == eng && e.ran) with
    | some e => d.finish core e
    | none => d)

/-! ### Fetch and issue (R176, R177, R181, R202) -/

/-- The cached line that holds a code address (R202). -/
def Core.line (c : Core) (a : Nat) : Option CacheLine := c.cache.find? (fun l => l.addr == a / 64 * 64)

/-- Puts a line into its set of the instruction cache; the victim of a full set is free (R202, log 18). -/
def Dev.cacheFill (d : Dev) (n a : Nat) (bytes : List Byte) : Dev :=
  let c := d.core n
  let a := a / 64 * 64
  if (c.line a).isSome then d
  else
    let same := c.cache.filter (fun l => l.addr / 64 % 1024 == a / 64 % 1024)
    match (List.range 4).find? (fun w => same.all (fun l => l.way != w)) with
    | some w => d.setCore n { c with cache := c.cache ++ [⟨w, a, bytes⟩] }
    | none =>
      let x := d.draw
      let w := x.1 % 4
      x.2.setCore n { c with cache := c.cache.filter (fun l => !(l.addr / 64 % 1024 == a / 64 % 1024 && l.way == w)) ++ [⟨w, a, bytes⟩] }

/-- Where the near tier ended when the descriptor of a core's run started (R295). -/
def Dev.runTop (d : Dev) (n : Nat) : Nat :=
  match (d.core n).run with
  | none => d.nearTop
  | some (r, k) => match ((d.ring r).started ++ (d.ring r).orphans).find? (fun y => y.count == k) with
    | some y => y.nearTop
    | none => d.nearTop

/-- ICACHE_FILL (R199, R202): the line that misses is filled whole and the next two are prefetched; an uncorrectable error in the
line stops the core, and so does a line that an unmapping has taken since its CORE_RUN started, as CAPACITY_REDUCED (R295). -/
def execIcacheFill (core : Fin 96) (off : Nat) (s : State) : Host.Outcome State Fault Refusal :=
  s.act (fun d =>
    let c := d.core core
    let a := (c.codeBase + off) / 64 * 64
    if c.status = .running ∧ off < c.codeLen ∧ (c.line a).isNone then
      let x := d.load a 64
      if x.2.1 = stOk then
        [a + 64, a + 128].foldl (fun e p =>
          if ((e.core core).line p).isSome then e
          else
            let y := e.load p 64
            if y.2.1 = stOk then y.1.cacheFill core p y.2.2 else y.1) (x.1.cacheFill core a x.2.2)
      else
        let c := x.1.core core
        x.1.setCore core (c.haltWith 1 (x.1.capStatus (d.runTop core) x.2.1 (x.1.badAddr a 64)) off)
    else d)

/-- The queue of an instruction; none for control and sync (R177). -/
def CoreInstr.eng (i : CoreInstr) : Option Eng :=
  match i with
  | .ctrl _ _ _ _ _ _ => none
  | .sync _ _ _ _ _ _ => none
  | .mma _ => some .mxa
  | .mxr _ => some .mxa
  | .mxs _ => some .mxa
  | .mxd _ => some .mxa
  | .mxset _ => some .mxa
  | .vxa _ _ => some .vxa
  | .vxm _ _ => some .vxm
  | .sfu _ _ => some .sfu
  | .rsu _ _ => some .rsu
  | .dmv _ => some .dmv

/-- The depth of a queue (R177). -/
def engDepth (e : Eng) : Nat := match e with | .mxa => 16 | .vxa => 32 | .vxm => 32 | .sfu => 16 | .rsu => 16 | .dmv => 32

/-- What the front end finds at the program counter: an instruction, a fault, or nothing yet (R199, R202). -/
inductive Fetched where
  | instr (i : CoreInstr)
  | fault (st : St)
  | miss
  deriving DecidableEq, Repr

/-- Fetches and decodes the word at the program counter (R183, R184, R199, R202). -/
def Dev.fetch (d : Dev) (n : Nat) : Fetched :=
  let c := d.core n
  if c.codeLen ≤ c.pc then .fault stOutOfMap
  else match c.line (c.codeBase + c.pc) with
    | none => .miss
    | some l => match decodeSnc (d.rd F.TRANSLATOR_VER) (BitVec.ofNat 64 (field l.data ((c.codeBase + c.pc) % 64) 8)) with
      | some i => .instr i
      | none => .fault stBadOpcode

/-- Issues up to `k` instructions into engine queues, one to a queue, up to the first that cannot issue; a control or sync
instruction is executed by its own command (R176, R177, R181). -/
def Dev.issueGo (d : Dev) (n : Nat) (used : List Eng) (k : Nat) : Dev :=
  match k with
  | 0 => d
  | j + 1 =>
    let c := d.core n
    if c.issuing then
      match d.fetch n with
      | .miss => d
      | .fault st => d.setCore n (c.frontFault st)
      | .instr i => match i.eng with
        | none => d
        | some e =>
          if used.contains e || decide ((c.queue.filter (fun y => y.eng == e && !y.started)).length ≥ engDepth e) then d
          else
            let c' := { c with queue := c.queue ++ [(⟨c.nextSeq, c.pc, e, i, false, false, 0⟩ : QEntry)], nextSeq := c.nextSeq + 1 }
            (d.setCore n c'.next).issueGo n (e :: used) j
    else d

/-- INSTRUCTION_ISSUE (R176): the front end issues up to four instructions in program order. -/
def execInstructionIssue (core : Fin 96) (s : State) : Host.Outcome State Fault Refusal := s.act (fun d => d.issueGo core [] 4)

/-- CORE_FAULT_STOP (R199): everything that remained has finished; the core is STOPPED and logs its Error record (R92, R149). -/
def execCoreFaultStop (core : Fin 96) (s : State) : Host.Outcome State Fault Refusal :=
  s.act (fun d =>
    let c := d.core core
    match c.status, c.halt with
    | .running, some h =>
      if h.reason = 1 ∧ c.queue.isEmpty then
        (d.log 3 core h.status.toNat (statusPayload h.pc 0xFFFFFFFF 0xFFFF 1 false 0xFFFF)).toStopped core h
      else d
    | _, _ => d)

/-- CORE_STOP_CANCEL (R200): what still runs 65,536 cycles after an immediate CORE_STOP is cancelled; DMV transfers that have
started run on. -/
def execCoreStopCancel (core : Fin 96) (s : State) : Host.Outcome State Fault Refusal :=
  s.act (fun d =>
    let c := d.core core
    match c.status, c.halt with
    | .running, some h =>
      if h.reason = 2 ∨ c.stopReq then
        (d.setCore core { c with queue := c.queue.filter (fun e => e.ran || e.eng == .dmv), staging := [], wait := none }).settleStop core
      else d
    | _, _ => d)

/-! ### Control instructions (R186 to R188) -/

/-- Whether no earlier instruction holds a control or sync instruction back from its registers (R179). -/
def Core.ready (c : Core) (i : CoreInstr) : Bool := c.feet.all (fun y => !(c.hazard y i))

/-- Executes a control instruction in place: an illegal register code stops the core, registers that are not ready hold it
(R179, R184, R186). -/
def Dev.ctrl (d : Dev) (n : Nat) (o : CtrlOp) (rd ra rb : BitVec 6) (bi : Bool) (imm : Word) (f : Core → Core) : Dev :=
  let c := d.core n
  if c.issuing then
    if ctrlLegal o rd ra rb bi then
      if c.ready (.ctrl o rd ra rb bi imm) then d.setCore n (f c) else d
    else d.setCore n (c.frontFault stBadOpcode)
  else d

/-- The value of a second operand (R186). -/
def Core.srcVal (c : Core) (x : Src) : Word := match x with | .reg k => c.rdCode k | .imm v => v
/-- B of a second operand. -/
def srcCode (x : Src) : BitVec 6 := match x with | .reg k => k | .imm _ => 0
/-- BI of a second operand. -/
def srcBi (x : Src) : Bool := match x with | .reg _ => false | .imm _ => true
/-- IMM32 of a second operand. -/
def srcImm (x : Src) : Word := match x with | .reg _ => 0 | .imm v => v

/-- D ← A op second operand (R186). -/
def Dev.alu (d : Dev) (n : Nat) (o : CtrlOp) (rd ra : BitVec 6) (x : Src) (f : Word → Word → Word) : Dev :=
  d.ctrl n o rd ra (srcCode x) (srcBi x) (srcImm x) (fun c => (c.wrCode rd (f (c.rdCode ra) (c.srcVal x))).next)

/-- A conditional branch by IMM32, which with BI = 1 (no `rb`) is the second operand too (R186). -/
def Dev.branch (d : Dev) (n : Nat) (o : CtrlOp) (ra : BitVec 6) (rb : Option (BitVec 6)) (dist : Word) (f : Word → Word → Bool) : Dev :=
  d.ctrl n o 0 ra (rb.getD 0) rb.isNone dist (fun c =>
    if f (c.rdCode ra) ((rb.map c.rdCode).getD dist) then c.jump (c.target dist) else c.next)

/-- SLI (R186). -/
def execSli (core : Fin 96) (d : BitVec 6) (imm : Word) (s : State) : Host.Outcome State Fault Refusal :=
  s.act (fun e => e.ctrl core .sli d 0 0 false imm (fun c => (c.wrCode d imm).next))

/-- SMOV (R186). -/
def execSmov (core : Fin 96) (d a : BitVec 6) (s : State) : Host.Outcome State Fault Refusal :=
  s.act (fun e => e.ctrl core .smov d a 0 false 0 (fun c => (c.wrCode d (c.rdCode a)).next))

/-- SADD (R186). -/
def execSadd (core : Fin 96) (d a : BitVec 6) (src : Src) (s : State) : Host.Outcome State Fault Refusal :=
  s.act (fun e => e.alu core .sadd d a src (fun x y => x + y))

/-- SSUB (R186). -/
def execSsub (core : Fin 96) (d a : BitVec 6) (src : Src) (s : State) : Host.Outcome State Fault Refusal :=
  s.act (fun e => e.alu core .ssub d a src (fun x y => x - y))

/-- SMUL keeps the low 32 bits (R186). -/
def execSmul (core : Fin 96) (d a : BitVec 6) (src : Src) (s : State) : Host.Outcome State Fault Refusal :=
  s.act (fun e => e.alu core .smul d a src (fun x y => x * y))

/-- SAND (R186). -/
def execSand (core : Fin 96) (d a : BitVec 6) (src : Src) (s : State) : Host.Outcome State Fault Refusal :=
  s.act (fun e => e.alu core .sand d a src (fun x y => x &&& y))

/-- SOR (R186). -/
def execSor (core : Fin 96) (d a : BitVec 6) (src : Src) (s : State) : Host.Outcome State Fault Refusal :=
  s.act (fun e => e.alu core .sor d a src (fun x y => x ||| y))

/-- SXOR (R186). -/
def execSxor (core : Fin 96) (d a : BitVec 6) (src : Src) (s : State) : Host.Outcome State Fault Refusal :=
  s.act (fun e => e.alu core .sxor d a src (fun x y => x ^^^ y))

/-- SSHL, the count modulo 32 (R186). -/
def execSshl (core : Fin 96) (d a : BitVec 6) (src : Src) (s : State) : Host.Outcome State Fault Refusal :=
  s.act (fun e => e.alu core .sshl d a src (fun x y => x <<< (y.toNat % 32)))

/-- SSHR, logical, the count modulo 32 (R186). -/
def execSshr (core : Fin 96) (d a : BitVec 6) (src : Src) (s : State) : Host.Outcome State Fault Refusal :=
  s.act (fun e => e.alu core .sshr d a src (fun x y => x >>> (y.toNat % 32)))

/-- SSRA, arithmetic, the count modulo 32 (R186). -/
def execSsra (core : Fin 96) (d a : BitVec 6) (src : Src) (s : State) : Host.Outcome State Fault Refusal :=
  s.act (fun e => e.alu core .ssra d a src (fun x y => x.sshiftRight (y.toNat % 32)))

/-- SMIN, signed (R186). -/
def execSmin (core : Fin 96) (d a : BitVec 6) (src : Src) (s : State) : Host.Outcome State Fault Refusal :=
  s.act (fun e => e.alu core .smin d a src (fun x y => if x.slt y then x else y))

/-- SMAX, signed (R186). -/
def execSmax (core : Fin 96) (d a : BitVec 6) (src : Src) (s : State) : Host.Outcome State Fault Refusal :=
  s.act (fun e => e.alu core .smax d a src (fun x y => if x.slt y then y else x))

/-- B (R186). -/
def execB (core : Fin 96) (dist : Word) (s : State) : Host.Outcome State Fault Refusal :=
  s.act (fun e => e.ctrl core .b 0 0 0 false dist (fun c => c.jump (c.target dist)))

/-- BEQ (R186). -/
def execBeq (core : Fin 96) (a : BitVec 6) (b : Option (BitVec 6)) (dist : Word) (s : State) : Host.Outcome State Fault Refusal :=
  s.act (fun e => e.branch core .beq a b dist (fun x y => x == y))

/-- BNE (R186). -/
def execBne (core : Fin 96) (a : BitVec 6) (b : Option (BitVec 6)) (dist : Word) (s : State) : Host.Outcome State Fault Refusal :=
  s.act (fun e => e.branch core .bne a b dist (fun x y => x != y))

/-- BLT, signed (R186). -/
def execBlt (core : Fin 96) (a : BitVec 6) (b : Option (BitVec 6)) (dist : Word) (s : State) : Host.Outcome State Fault Refusal :=
  s.act (fun e => e.branch core .blt a b dist (fun x y => x.slt y))

/-- BGE, signed (R186). -/
def execBge (core : Fin 96) (a : BitVec 6) (b : Option (BitVec 6)) (dist : Word) (s : State) : Host.Outcome State Fault Refusal :=
  s.act (fun e => e.branch core .bge a b dist (fun x y => !x.slt y))

/-- BLTU (R186). -/
def execBltu (core : Fin 96) (a : BitVec 6) (b : Option (BitVec 6)) (dist : Word) (s : State) : Host.Outcome State Fault Refusal :=
  s.act (fun e => e.branch core .bltu a b dist (fun x y => x.ult y))

/-- BGEU (R186). -/
def execBgeu (core : Fin 96) (a : BitVec 6) (b : Option (BitVec 6)) (dist : Word) (s : State) : Host.Outcome State Fault Refusal :=
  s.act (fun e => e.branch core .bgeu a b dist (fun x y => !x.ult y))

/-- A loop of `count` passes over `body` instructions (R187); a fifth nested one is illegal (R184). -/
def Core.startLoop (c : Core) (count body : Nat) : Core :=
  if c.loops.length ≥ 4 then c.frontFault stBadOpcode
  else if count = 0 ∨ body = 0 then c.reach (c.pc + 8 + 8 * body)
  else { c with pc := c.pc + 8, loops := ⟨c.pc + 8, c.pc + 8 + 8 * body, count⟩ :: c.loops }

/-- LOOP: the count is a scalar, or IMM32[31:16]; the body is the IMM32[15:0] instructions that follow (R187). -/
def execLoop (core : Fin 96) (a : BitVec 6) (bi : Bool) (imm : Word) (s : State) : Host.Outcome State Fault Refusal :=
  s.act (fun e => e.ctrl core .loop 0 a 0 bi imm (fun c =>
    c.startLoop (if bi then imm.toNat / 2 ^ 16 else (c.rdCode a).toNat) (imm.toNat % 2 ^ 16)))

/-- PBLK skips the next IMM32[15:0] instructions where the scalar is 0; past the end of a loop's body it is illegal
(R184, R188). -/
def execPblk (core : Fin 96) (a : BitVec 6) (imm : Word) (s : State) : Host.Outcome State Fault Refusal :=
  s.act (fun e => e.ctrl core .pblk 0 a 0 false imm (fun c =>
    let past := c.pc + 8 + 8 * (imm.toNat % 2 ^ 16)
    if c.loops.any (fun f => decide (f.stop < past)) then c.frontFault stBadOpcode
    else if c.rdCode a = 0 then c.reach past else c.next))

/-- PTAG makes tag IMM32[5:0] current (R332). -/
def execPtag (core : Fin 96) (imm : Word) (s : State) : Host.Outcome State Fault Refusal :=
  s.act (fun e => e.ctrl core .ptag 0 0 0 false imm (fun c => { c.next with curTag := imm.toNat % 64 }))

/-- CID (R186). -/
def execCid (core : Fin 96) (d : BitVec 6) (s : State) : Host.Outcome State Fault Refusal :=
  s.act (fun e => e.ctrl core .cid d 0 0 false 0 (fun c => (c.wrCode d (BitVec.ofNat 32 core.val)).next))

/-! ### Sync instructions (R189, R201) -/

/-- Whether the engines of EMASK have finished everything (R189). -/
def Core.drained (c : Core) (emask : BitVec 6) : Bool :=
  c.queue.all (fun e => !(match e.eng with
    | .mxa => emask.getLsbD 0
    | .vxa => emask.getLsbD 1
    | .vxm => emask.getLsbD 2
    | .sfu => emask.getLsbD 3
    | .rsu => emask.getLsbD 4
    | .dmv => emask.getLsbD 5))

/-- Takes the pending actions at a YIELD, in order of arrival: a code region is set and the core goes on at its ENTRY, a stop
makes it STOPPED (R201, R203, log 30). -/
def Dev.yieldActions (d : Dev) (n : Nat) (yieldPc : Nat) : Dev :=
  let c := d.core n
  let load (e : Dev) (a : PendAct) : Dev :=
    match a with
    | .load _ _ _ _ entry => (let e := e.takeAction n a; e.setCore n { e.core n with pc := entry / 8 * 8, loops := [] })
    | .stop _ _ => e.takeAction n a
  let d := c.actions.foldl load (d.setCore n { c with actions := [], wait := none, pc := c.pc })
  if c.actions.any (fun a => match a with | .stop _ _ => true | .load _ _ _ _ _ => false) then d.toStopped n ⟨3, stOk, yieldPc⟩ else d

/-- What a waiting sync instruction does when its drain is done (R189, R201). -/
def Dev.drainDone (d : Dev) (n : Nat) : Dev :=
  let c := d.core n
  match c.wait with
  | some .endProg => if c.drained 0x3F then d.toIdle n else d
  | some (.drain m) => if c.drained m then d.setCore n { c.next with wait := none } else d
  | some (.flagr s) => if c.drained 0x3F then d.setCore n { (c.setS s.toNat c.cflags).next with wait := none } else d
  | some (.flagc v) => if c.drained 0x3F then d.setCore n { (c.clearFlags v).next with wait := none } else d
  | some .yield => if c.drained 0x3F then d.yieldActions n c.pc else d
  | _ => d

/-- Executes a sync instruction in place: `f` sets its wait, and a drain that is done already takes its action at once. -/
def Dev.sync (d : Dev) (n : Nat) (o : SyncOp) (s : BitVec 5) (a : BitVec 4) (cmp : BitVec 3) (f : Core → Core) : Dev :=
  let c := d.core n
  if c.issuing then
    if syncLegal o cmp then
      if c.ready (.sync o s a cmp 0 0) then (d.setCore n (f c)).drainDone n else d
    else d.setCore n (c.frontFault stBadOpcode)
  else d

/-- YIELD (R201): goes on where nothing is pending, or waits for its drain. -/
def execYield (core : Fin 96) (s : State) : Host.Outcome State Fault Refusal :=
  s.act (fun d => d.sync core .yield 0 0 0 (fun c => if c.actions.isEmpty then c.next else { c with wait := some .yield }))

/-- END (R189). -/
def execEndProg (core : Fin 96) (s : State) : Host.Outcome State Fault Refusal :=
  s.act (fun d => d.sync core .endProg 0 0 0 (fun c => { c with wait := some .endProg }))

/-- DRAIN (R189). -/
def execDrain (core : Fin 96) (emask : BitVec 6) (s : State) : Host.Outcome State Fault Refusal :=
  s.act (fun d => d.sync core .drain 0 0 0 (fun c => { c with wait := some (.drain emask) }))

/-- FLAGR (R189). -/
def execFlagr (core : Fin 96) (s : BitVec 5) (st : State) : Host.Outcome State Fault Refusal :=
  st.act (fun d => d.sync core .flagr s 0 0 (fun c => { c with wait := some (.flagr s) }))

/-- FLAGC (R189). -/
def execFlagc (core : Fin 96) (s : BitVec 5) (st : State) : Host.Outcome State Fault Refusal :=
  st.act (fun d => d.sync core .flagc s 0 0 (fun c => { c with wait := some (.flagc (c.sreg s.toNat)) }))

/-- Whether a word compares to a value as CMP names (R189). -/
def cmpHolds (cmp : BitVec 3) (w v : Word) : Bool :=
  match cmp.toNat with
  | 0 => w == v
  | 1 => w != v
  | 2 => !w.ult v
  | _ => !w.slt v

/-- Reads the word that a WAITW waits on, and lets it go where the comparison holds; an uncorrectable word stops the core
(R189, R199). -/
def Dev.pollWaitw (d : Dev) (n : Nat) : Dev :=
  let c := d.core n
  match c.status, c.wait with
  | .running, some (.waitw off cmp v) =>
    let x := d.lsLoad n off 4
    let c := x.1.core n
    if x.2.1 = stOk then
      if cmpHolds cmp (BitVec.ofNat 32 (leNat x.2.2)) v then
        (match c.halt with
          | none => x.1.setCore n { c.next with wait := none }
          | some _ => (x.1.setCore n { c with wait := none }).settleStop n)
      else x.1
    else (x.1.setCore n { (c.frontFault x.2.1) with wait := none }).settleStop n
  | _, _ => d

/-- WAITW (R189): bits [1:0] of the offset are ignored; an offset outside the local store stops the core (R199). The word is read at
once, and again at each WAITW_RELEASE. -/
def execWaitw (core : Fin 96) (s : BitVec 5) (a : BitVec 4) (cmp : BitVec 3) (imm : BitVec 21) (st : State) :
    Host.Outcome State Fault Refusal :=
  st.act (fun d =>
    let e := d.sync core .waitw s a cmp (fun c =>
      let off := ((c.areg a.toNat).toNat + 4 * imm.toNat) / 4 * 4
      if off < lsBytes then { c with wait := some (.waitw off cmp (c.sreg s.toNat)) } else c.frontFault stOutOfMap)
    if (d.core core).issuing then e.pollWaitw core else e)

/-- ENGINE_DRAIN_DONE (R189, R201). -/
def execEngineDrainDone (core : Fin 96) (s : State) : Host.Outcome State Fault Refusal :=
  s.act (fun d => match (d.core core).status, (d.core core).halt with
    | .running, none => d.drainDone core
    | _, _ => d)

/-- WAITW_RELEASE (R189): the word is read again, and issue resumes where the comparison holds. -/
def execWaitwRelease (core : Fin 96) (s : State) : Host.Outcome State Fault Refusal := s.act (fun d => d.pollWaitw core)

end Sys2Proof.Machine
end

