-- ==== Sys2Proof/Machine/Mxa.lean ====
section
/-! DEFINITION. The matrix array: MMA, MXR, MXS, MXD, MXSET (R76 to R110, R190, R191, R216 to R218, R540). -/
namespace Sys2Proof.Machine
open Sys2Proof

/-! ### Reading operands -/

/-- An element to read: where it lies, its format, its scale byte where it has one. -/
structure EReq where
  loc   : Loc
  fmt   : Nat
  scale : Option Nat
  deriving DecidableEq, Repr

/-- The request for a logical index, or none for a pad element (R211, R213, R214). -/
def TDesc.req (t : TDesc) (fmt mode : Nat) (tr : Bool) (x : List Nat) : Option EReq :=
  let s := t.storage tr x
  if t.isPad mode s then none
  else some ⟨t.locS fmt s, fmt, if mode = 0 then none else some (t.scaleAddr mode s)⟩

/-- Reads one element from core `n`'s local store (R49, R50, R216). -/
def Dev.readReq (d : Dev) (n : Nat) (q : EReq) : Dev × St × FVal :=
  let x := d.lsLoad n q.loc.addr q.loc.n
  if x.2.1 = stOk then
    match q.scale with
    | none => (x.1, stOk, scaledValue q.fmt (q.loc.extract x.2.2) none)
    | some a =>
      let y := x.1.lsLoad n a 1
      if y.2.1 = stOk then (y.1, stOk, scaledValue q.fmt (q.loc.extract x.2.2) (some (leNat y.2.2))) else (y.1, y.2.1, FVal.zero)
  else (x.1, x.2.1, FVal.zero)

/-- Reads elements in order, up to the first that fails; what is not read is +0. -/
def Dev.readReqs (d : Dev) (n : Nat) (qs : List (Option EReq)) : Dev × St × List FVal :=
  let r := qs.foldl (fun (x : Dev × St × List FVal) q =>
    if x.2.1 = stOk then
      match q with
      | none => (x.1, stOk, FVal.zero :: x.2.2)
      | some q =>
        let y := x.1.readReq n q
        (y.1, y.2.1, y.2.2 :: x.2.2)
    else x) (d, stOk, [])
  (r.1, r.2.1, r.2.2.reverse)

/-- The granules that an element lies in are all flagged finite, and its scale is not 0xFF (R99, R101); what lies outside the local
store is neither, since reading it ends the MMA (R216). -/
def Dev.reqFinite (d : Dev) (n : Nat) (q : Option EReq) : Bool :=
  match q with
  | none => true
  | some q =>
    decide (q.loc.addr + q.loc.n ≤ lsBytes) &&
    (unitsOf (lsAddr n + q.loc.addr) q.loc.n 16).all d.mem.finite.contains &&
    (match q.scale with
      | none => true
      | some a => decide (a < lsBytes) && d.peek (lsAddr n + a) 1 != [0xFF])

/-- The value of an element as it is stored, taken without an access: an element of a skipped group, whose finite value decides no
more than the sign of a zero sum (R48, R87, R99). -/
def Dev.peekReq (d : Dev) (n : Nat) (q : Option EReq) : FVal :=
  match q with
  | none => FVal.zero
  | some q => scaledValue q.fmt (q.loc.extract (d.peek (lsAddr n + q.loc.addr) q.loc.n))
      (q.scale.map (fun a => leNat (d.peek (lsAddr n + a) 1)))

/-- Cuts a list into pieces of `n`. -/
def pieces {α : Type} (n : Nat) (xs : List α) (fuel : Nat) : List (List α) :=
  match fuel with
  | 0 => []
  | f + 1 => if xs.isEmpty then [] else xs.take n :: pieces n (xs.drop n) f

/-- Reads a block mask; without one every bit is 1 (R98). -/
def Dev.readMask (d : Dev) (n addr bits : Nat) : Dev × St × Option Nat :=
  if addr = 0 then (d, stOk, none)
  else
    let x := d.lsLoad n addr (ceilDiv bits 8)
    (x.1, x.2.1, some (leNat x.2.2))

/-- Whether block `i` of a mask is marked as zero. -/
def maskedAt (m : Option Nat) (i : Nat) : Bool := match m with | none => false | some v => !v.testBit i

/-! ### MMA (R82 to R103, R540) -/

/-- The class that an MMA names (R76). -/
def MmaF.accClass (f : MmaF) : AccClass := match f.cls.toNat with | 1 => .f32x | 2 => .f64x | _ => .lp

/-- Whether an MMA multiplies integers. -/
def MmaF.isInt (f : MmaF) : Bool := f.fmtA = 5 || f.fmtA = 6

/-- The tag that an MMA's set has after a clear (R79). -/
def MmaF.tag (f : MmaF) : AccTag :=
  ⟨f.accClass, if f.cls = 0 then (match f.mode.toNat with | 1 => 1 | 2 => 2 | _ => 0) else 0, f.isInt⟩

/-- A set cleared under a tag, with EW for the F64X class (R79, R82). -/
def AccSet.cleared (t : AccTag) (ew : BitVec 16) : AccSet :=
  match t.cls with
  | .f64x => ⟨t, [], [], (List.range 1024).map (fun i => (i, ExAcc.clear true ew))⟩
  | _ => ⟨t, [], [], []⟩

/-- What an unlisted exact accumulator of a set holds: FP32-mode zero. -/
def exZero : ExAcc := ExAcc.clear false 0

/-- Everything an MMA has read: A by rows and B by columns, K in groups of 32 positions, each B element with its position in the
group; C by rows. -/
structure MmaIn where
  a : List (List (List FVal))
  b : List (List (List (Nat × FVal)))
  c : List (List FVal)

/-- The exact sum of a group's products (R61): a sum of negative zeros alone is −0, any other exact zero +0 (R48). -/
def dotGroup (a : List FVal) (b : List (Nat × FVal)) : FVal :=
  match b.map (fun p => (a.getD p.1 FVal.zero).mul p.2) with
  | [] => FVal.zero
  | p :: rest => rest.foldl (fun s q => s.add q) p

/-- The groups of one output in ascending K. -/
def groupsOf (a : List (List FVal)) (b : List (List (Nat × FVal))) : List (List FVal × List (Nat × FVal)) := a.zip b

/-- An FP32 sum rounded once, with its flags (R61, R63). -/
def addF32 (acc : Word) (v : FVal) : Word × Nat := toF32 ((f32 acc).add v)

/-- One output of the LP class with float operands: C first, then the groups (R61 to R63, R540). -/
def outF32 (acc : Word) (c : Option FVal) (gs : List (List FVal × List (Nat × FVal))) : Word × Nat :=
  let z := match c with | none => (acc, 0) | some v => addF32 acc v
  gs.foldl (fun r g =>
    let y := addF32 r.1 (dotGroup g.1 g.2)
    (y.1, r.2 ||| y.2)) z

/-- The integer that an integer value holds. -/
def FVal.toInt (v : FVal) : Int := match v with | .fin n m e => sgn n (m * 2 ^ e.toNat) | _ => 0

/-- One output of the LP class with integer operands, modulo 2^48 (R64, R540). -/
def outInt (acc : BitVec 48) (c : Option FVal) (gs : List (List FVal × List (Nat × FVal))) : BitVec 48 × Nat :=
  let z : BitVec 48 × Nat := match c with
    | none => (acc, 0)
    | some v => let y := encodeInt 48 rne v; (acc + BitVec.ofNat 48 y.1, y.2)
  (gs.foldl (fun (r : BitVec 48) g =>
    g.2.foldl (fun (t : BitVec 48) p => t + BitVec.ofInt 48 ((g.1.getD p.1 FVal.zero).toInt * p.2.toInt)) r) z.1, z.2)

/-- One output of an exact class: C and each product are terms (R66 to R70). -/
def outEx (acc : ExAcc) (c : Option FVal) (gs : List (List FVal × List (Nat × FVal))) : ExAcc × Nat :=
  let z := match c with | none => (acc, 0) | some v => acc.add v
  gs.foldl (fun r g => g.2.foldl (fun (t : ExAcc × Nat) p =>
    let y := t.1.add ((g.1.getD p.1 FVal.zero).mul p.2)
    (y.1, t.2 ||| y.2)) r) z

/-- Applies what was read to a set: the set and the flags (R61 to R70, R85, R87). -/
def AccSet.mma (t : AccSet) (x : MmaIn) (init : Bool) : AccSet × Nat :=
  let cols := t.tag.cols
  x.a.zipIdx.foldl (fun (r : AccSet × Nat) row =>
    x.b.zipIdx.foldl (fun (r : AccSet × Nat) col =>
      let i := row.2 * cols + col.2
      let c := if init then some ((x.c.getD row.2 []).getD col.2 FVal.zero) else none
      let gs := groupsOf row.1 col.1
      match t.tag.cls with
      | .lp =>
        if t.tag.int then
          let y := outInt (Tab.get r.1.int i 0) c gs
          ({ r.1 with int := Tab.set r.1.int i y.1 0 }, r.2 ||| y.2)
        else
          let y := outF32 (Tab.get r.1.fp i 0) c gs
          ({ r.1 with fp := Tab.set r.1.fp i y.1 0 }, r.2 ||| y.2)
      | _ =>
        let y := outEx (Tab.get r.1.ex i exZero) c gs
        ({ r.1 with ex := Tab.set r.1.ex i y.1 exZero }, r.2 ||| y.2)) r) (t, 0)

/-- The kept elements of column `col` of a 2:4 operand in group `g`: what to read, by place in the group (R94 to R96). A slot of rank 0
holds the one element at BASE, with the scale at SCALE_BASE (R209, R214). -/
def sparseReqs (t : TDesc) (fmt mode k col g : Nat) : List (Option EReq) :=
  let hi := min (ceilDiv k 4) (8 * (g + 1))
  (List.range (2 * (hi - 8 * g))).map (fun i =>
    let c := 16 * g + i
    let s := t.storage false [c, col]
    if t.isPad mode s then none
    else some ⟨t.locS fmt s, fmt,
      if mode = 0 then none
      else some ((if t.rank = 0 then t.scaleBase else t.scaleBase + c / 16 + ceilDiv (t.size 0) 16 * col) % 2 ^ 64)⟩)

/-- Where the metadata of a column's group starts, and how many groups of four positions it covers (R94). -/
def sparseMeta (metaAddr size0 k col g : Nat) : Nat × Nat :=
  (metaAddr + col * ceilDiv size0 4 + 4 * g, min (ceilDiv k 4) (8 * (g + 1)) - 8 * g)

/-- The positions in the group that metadata bytes name for the kept elements of `cnt` groups of four (R94, R95). -/
def nibblePlaces (bs : List Byte) (cnt : Nat) : List Nat :=
  (List.range cnt).flatMap (fun j =>
    let nib := bits (field bs (j / 2) 1) (4 * (j % 2)) 4
    [4 * j + nib % 4, 4 * j + nib / 4])

/-- The positions in the group that a column's metadata names for its kept elements (R94, R95). -/
def Dev.sparsePos (d : Dev) (n metaAddr size0 k col g : Nat) : Dev × St × List Nat :=
  let m := sparseMeta metaAddr size0 k col g
  let x := d.lsLoad n m.1 (ceilDiv m.2 2)
  (x.1, x.2.1, nibblePlaces x.2.2 m.2)

/-- The same positions, taken without an access. -/
def Dev.sparsePlaces (d : Dev) (n metaAddr size0 k col g : Nat) : List Nat :=
  let m := sparseMeta metaAddr size0 k col g
  nibblePlaces (d.peek (lsAddr n + m.1) (ceilDiv m.2 2)) m.2

/-- Reads B's column `col` in group `g`: each element with its place in the group (R94, R217); a metadata index at or above K names
no position. -/
def Dev.readB (d : Dev) (n : Nat) (f : MmaF) (t : TDesc) (mode k col g : Nat) (masked skip : Bool) : Dev × St × List (Nat × FVal) :=
  let len := min 32 (k - 32 * g)
  if masked then (d, stOk, (List.range len).map (fun i => (i, FVal.zero)))
  else if skip && !f.sparse then
    (d, stOk, (List.range len).map (fun i => (i, d.peekReq n (t.req f.fmtB.toNat mode (f.trB t) [32 * g + i, col]))))
  else if skip then
    let ps := d.sparsePlaces n ((d.core n).slot f.db.toNat).metaAddr (t.size 0) k col g
    (d, stOk, (ps.zip ((sparseReqs t f.fmtB.toNat mode k col g).map (d.peekReq n))).filter (fun v => decide (v.1 < len)))
  else if f.sparse then
    let p := d.sparsePos n ((d.core n).slot f.db.toNat).metaAddr (t.size 0) k col g
    if p.2.1 = stOk then
      let x := p.1.readReqs n (sparseReqs t f.fmtB.toNat mode k col g)
      (x.1, x.2.1, (p.2.2.zip x.2.2).filter (fun v => decide (v.1 < len)))
    else (p.1, p.2.1, [])
  else
    let x := d.readReqs n ((List.range len).map (fun i => t.req f.fmtB.toNat mode (f.trB t) [32 * g + i, col]))
    (x.1, x.2.1, x.2.2.zipIdx.map (fun v => (v.2, v.1)))

/-- Runs readers in order, up to the first that fails. -/
def Dev.readList {α β : Type} (d : Dev) (xs : List α) (f : Dev → α → Dev × St × β) : Dev × St × List β :=
  let r := xs.foldl (fun (x : Dev × St × List β) a =>
    if x.2.1 = stOk then
      let y := f x.1 a
      (y.1, y.2.1, y.2.2 :: x.2.2)
    else x) (d, stOk, [])
  (r.1, r.2.1, r.2.2.reverse)

/-- The requests of A's row `m` in group `g` (R217). -/
def aReqs (f : MmaF) (t : TDesc) (mode k m g : Nat) : List (Option EReq) :=
  (List.range (min 32 (k - 32 * g))).map (fun i => t.req f.fmtA.toNat mode (f.trA t) [32 * g + i, m])

/-- The requests of B's column in group `g`, for the test of R99. -/
def bReqs (f : MmaF) (t : TDesc) (mode k col g : Nat) : List (Option EReq) :=
  if f.sparse then sparseReqs t f.fmtB.toNat mode k col g
  else (List.range (min 32 (k - 32 * g))).map (fun i => t.req f.fmtB.toNat mode (f.trB t) [32 * g + i, col])

/-- Whether group `g` is skipped: every block of one operand is masked and the partner's elements are all flagged finite (R99). -/
def Dev.skips (d : Dev) (n : Nat) (f : MmaF) (ta tb : TDesc) (ma mb : Nat) (ka kb : Option Nat) (m nn k g : Nat) : Bool :=
  let kg := ceilDiv k 32
  let allA := (List.range (ceilDiv m 32)).all (fun i => maskedAt ka (i * kg + g))
  let allB := (List.range (ceilDiv nn 32)).all (fun i => maskedAt kb (g * ceilDiv nn 32 + i))
  let finA := (List.range m).all (fun i => (aReqs f ta ma k i g).all (d.reqFinite n))
  let finB := (List.range nn).all (fun i => (bReqs f tb mb k i g).all (d.reqFinite n))
  (allA && finB) || (allB && finA)

/-- A's row `m` in group `g`: zeros where its block is masked, the stored values where the group is skipped, and otherwise read
(R98, R99). -/
def Dev.readA (d : Dev) (n : Nat) (f : MmaF) (t : TDesc) (mode k m g : Nat) (masked skip : Bool) : Dev × St × List FVal :=
  if masked then (d, stOk, List.replicate (min 32 (k - 32 * g)) FVal.zero)
  else if skip then (d, stOk, (aReqs f t mode k m g).map (d.peekReq n))
  else d.readReqs n (aReqs f t mode k m g)

/-- Reads all operands of an MMA: masks, A, B, C (R88, R98, R99, R217, R540). -/
def Dev.readMma (d : Dev) (n : Nat) (f : MmaF) : Dev × St × MmaIn :=
  let c := d.core n
  let (m, nn, k) := c.mmaDims f
  let ta := c.slotDesc f.da.toNat
  let tb := c.slotDesc f.db.toNat
  let tc := c.slotDesc f.dc.toNat
  let ma := ta.operandScaling f.fmtA.toNat
  let mb := tb.operandScaling f.fmtB.toNat
  let mc := tc.mxaScaling tc.fmt
  let kg := ceilDiv k 32
  let x1 := d.readMask n (c.slot f.da.toNat).mask (ceilDiv m 32 * kg)
  if x1.2.1 ≠ stOk then (x1.1, x1.2.1, ⟨[], [], []⟩)
  else
    let x2 := x1.1.readMask n (c.slot f.db.toNat).mask (kg * ceilDiv nn 32)
    if x2.2.1 ≠ stOk then (x2.1, x2.2.1, ⟨[], [], []⟩)
    else
      let ka := x1.2.2
      let kb := x2.2.2
      let sk := (List.range kg).map (x2.1.skips n f ta tb ma mb ka kb m nn k)
      let y1 := x2.1.readList (List.range m) (fun e i => e.readList (List.range kg) (fun e g =>
        e.readA n f ta ma k i g (maskedAt ka (i / 32 * kg + g)) (sk.getD g false)))
      if y1.2.1 ≠ stOk then (y1.1, y1.2.1, ⟨[], [], []⟩)
      else
        let y2 := y1.1.readList (List.range nn) (fun e j => e.readList (List.range kg) (fun e g =>
          e.readB n f tb mb k j g (maskedAt kb (g * ceilDiv nn 32 + j / 32)) (sk.getD g false)))
        if y2.2.1 ≠ stOk then (y2.1, y2.2.1, ⟨[], [], []⟩)
        else if f.init then
          let y3 := y2.1.readList (List.range m) (fun e i =>
            e.readReqs n ((List.range nn).map (fun j => tc.req tc.fmt mc false [j, i])))
          (y3.1, y3.2.1, ⟨y1.2.2, y2.2.2, y3.2.2⟩)
        else (y2.1, stOk, ⟨y1.2.2, y2.2.2, []⟩)

/-- Whether an MMA would read an ordinary MX operand transposed (R54, R92, R218). That every element of it is masked or pad, so that none
would be read, changes nothing here, DEDUCED (log 58). -/
def Core.scaleAxis (c : Core) (f : MmaF) : Bool :=
  let ta := c.slotDesc f.da.toNat
  let tb := c.slotDesc f.db.toNat
  (f.trA ta && ta.operandScaling f.fmtA.toNat == 1) || (f.trB tb && tb.operandScaling f.fmtB.toNat == 1)

/-- The effect of an MMA. -/
def Dev.mmaEff (d : Dev) (n : Nat) (f : MmaF) : Eff :=
  let c := d.core n
  let (m, nn, k) := c.mmaDims f
  if m = 0 ∨ nn = 0 ∨ k = 0 then ⟨d, stOk, 0, true⟩
  else if c.scaleAxis f then ⟨d, stScaleAxis, 0, false⟩
  else
    let x := d.readMma n f
    if x.2.1 ≠ stOk then ⟨x.1, x.2.1, 0, false⟩
    else
      let c := x.1.core n
      let t := c.accSet f.acc.toNat
      let re := decide (t.tag ≠ f.tag)
      let t' := if f.clear || re then AccSet.cleared f.tag c.ew else t
      let y := t'.mma x.2.2 f.init
      ⟨x.1.setCore n { c with acc := Tab.set c.acc f.acc.toNat y.1 AccSet.reset }, stOk,
       y.2 ||| (if !f.clear && re then flagRetag else 0), true⟩

/-- MMA (R82): multiply and accumulate into a set. -/
def execMma (core : Fin 96) (s : State) : Host.Outcome State Fault Refusal :=
  s.act (fun d => d.runHead core .mxa (fun i => match i with | .mma f => some (fun e _ => e.mmaEff core f) | _ => none))

/-! ### Writing tensors from a core -/

/-- An element to write: where it lies, its encoding, whether it is finite. -/
structure EPut where
  loc : Loc
  raw : Nat
  fin : Bool
  deriving DecidableEq, Repr

/-- Bytes to write over a store, by offset. -/
abbrev Over := List Host.Cell

/-- An element's bytes put over what the store holds at its place. -/
def Dev.putOver (d : Dev) (base : Nat) (o : Tab (Option Byte)) (p : EPut) : Tab (Option Byte) :=
  let old := (List.range p.loc.n).map (fun i => match Tab.get o (p.loc.addr + i) none with
    | some b => b
    | none => (d.peek (base + p.loc.addr + i) 1).headD 0)
  (p.loc.insert old p.raw).zipIdx.foldl (fun t x => Tab.put t (p.loc.addr + x.2) (some x.1)) o

/-- Writes elements and scale bytes to core `n`'s local store, checked in full before anything is written; a granule is flagged
finite where every element written to it is (R101, R199). -/
def Dev.putElems (d : Dev) (n : Nat) (ps : List EPut) : Dev × St :=
  if ps.all (fun p => decide (p.loc.addr + p.loc.n ≤ lsBytes)) then
    let o := ps.foldl (d.putOver (lsAddr n)) []
    let bad := ps.foldl (fun (t : NatSet) p => if p.fin then t else
      (unitsOf (lsAddr n + p.loc.addr) p.loc.n 16).foldl NatSet.ins t) []
    d.lsStoreRuns n (runsOf (o.filterMap (fun x => x.2.map (fun b => (x.1, b))))) (fun g => !bad.contains g)
  else (d, stOutOfMap)

/-- Whether an encoded element with its scale byte is finite. -/
def rawFinite (fmt raw scale : Nat) : Bool :=
  scale != 0xFF && (match (elemOf fmt).decode raw with | .fin _ _ _ => true | _ => false)

/-- A scale byte to write. -/
def scalePut (a x : Nat) : EPut := ⟨⟨a, 1, 0, 8⟩, x, x != 0xFF⟩

/-! ### MXR (R106 to R109) -/

/-- The value of output (row, col) of a set, before conversion: its FP32, integer or exact value. -/
def AccSet.value (t : AccSet) (row col : Nat) : FVal :=
  let i := row * t.tag.cols + col
  match t.tag.cls with
  | .lp => if t.tag.int then FVal.ofInt (Tab.get t.int i 0).toInt else f32 (Tab.get t.fp i 0)
  | _ => (Tab.get t.ex i exZero).toFVal

/-- One epilogue operation in FP32 (R108). -/
def epiStep (x : FVal × Nat) (o : Option FVal) (op : FVal → FVal → FVal) : FVal × Nat :=
  match o with
  | none => x
  | some v =>
    let y := (op x.1 v).roundTo fFP32 rne
    (y.1, x.2 ||| y.2)

/-- The operands of an epilogue, where the steps have them: by row, by column, bias by column, residual by row and column. -/
structure Epi where
  row  : Option (List FVal)
  col  : Option (List FVal)
  bias : Option (List FVal)
  res  : Option (List (List FVal))

/-- Reads a vector of `len` values through a slot; slot 0 omits it (R108, R191, R217). -/
def Dev.readVec (d : Dev) (n : Nat) (slot : BitVec 4) (lo len : Nat) : Dev × St × Option (List FVal) :=
  if slot = 0 then (d, stOk, none)
  else
    let t := (d.core n).slotDesc slot.toNat
    let x := d.readReqs n ((List.range len).map (fun i => t.req t.fmt (t.mxaScaling t.fmt) false [lo + i]))
    (x.1, x.2.1, some x.2.2)

/-- Reads the epilogue's operands for rows `r0` onward (R108). -/
def Dev.readEpi (d : Dev) (n : Nat) (f : MxrF) (r0 cnt cols : Nat) : Dev × St × Epi :=
  let z : Epi := ⟨none, none, none, none⟩
  let a := d.readVec n f.er r0 cnt
  if a.2.1 ≠ stOk then (a.1, a.2.1, z)
  else
    let b := a.1.readVec n f.ec 0 cols
    if b.2.1 ≠ stOk then (b.1, b.2.1, z)
    else
      let c := b.1.readVec n f.eb 0 cols
      if c.2.1 ≠ stOk then (c.1, c.2.1, z)
      else if f.eq = 0 then (c.1, stOk, ⟨a.2.2, b.2.2, c.2.2, none⟩)
      else
        let t := (c.1.core n).slotDesc f.eq.toNat
        let r := c.1.readList (List.range cnt) (fun e i =>
          e.readReqs n ((List.range cols).map (fun j => t.req t.fmt (t.mxaScaling t.fmt) false [j, r0 + i])))
        (r.1, r.2.1, ⟨a.2.2, b.2.2, c.2.2, some r.2.2⟩)

/-- A set's output after the epilogue's arithmetic, with its flags; row numbers count from the first row read (R108). -/
def Epi.apply (x : Epi) (v : FVal) (i j : Nat) : FVal × Nat :=
  let s0 := (v, 0)
  let s1 := epiStep s0 (x.row.map (fun l => l.getD i FVal.zero)) FVal.mul
  let s2 := epiStep s1 (x.col.map (fun l => l.getD j FVal.zero)) FVal.mul
  let s3 := epiStep s2 (x.bias.map (fun l => l.getD j FVal.zero)) (fun a b => a.add b)
  epiStep s3 (x.res.map (fun l => (l.getD i []).getD j FVal.zero)) (fun a b => a.add b)

/-- The random value of an element, where the rounding mode takes one (R60). -/
def rndFor (rm seed i : Nat) : Nat := if rm = 4 then srRandom seed (i % 2 ^ 64) else 0

/-- One element converted on its own: its encoding and flags; an exact accumulator's infinity stays one (R71, R107, R109). -/
def convOne (cls : AccClass) (fmt : Nat) (rd : Rounding) (v : FVal) : Nat × Nat :=
  match cls, v with
  | .lp, _ => (elemOf fmt).encode rd v
  | _, .inf n => (elemOf fmt).encode { rd with sat := false } (.inf n)
  | _, _ => (elemOf fmt).encode rd v

/-- A row of outputs written as elements of a plain format (R107, R109, R217). -/
def plainRow (t : TDesc) (cls : AccClass) (rm seed : Nat) (sat : Bool) (m : Nat) (vs : List FVal) : List EPut × Nat :=
  let ws := vs.zipIdx.map (fun v =>
    let e := convOne cls t.fmt ⟨rm, sat, rndFor rm seed (v.2 + t.size 0 * m)⟩ v.1
    ((⟨t.loc t.fmt false [v.2, m], e.1, rawFinite t.fmt e.1 0⟩ : EPut), e.2))
  (ws.map (·.1), ws.foldl (fun a w => a ||| w.2) 0)

/-- A row of outputs written as ordinary MX blocks along N; pad elements are left out of the maximum and not written
(R57, R58, R107, R214, log 32). -/
def mxRow (t : TDesc) (rm seed : Nat) (sat : Bool) (m : Nat) (vs : List FVal) : List EPut × Nat :=
  let bs := (pieces 32 vs.zipIdx (vs.length + 1)).map (fun (blk : List (FVal × Nat)) =>
    let live : List (FVal × Nat) := blk.filter (fun v => !t.isPad 1 (t.storage false [v.2, m]))
    match live with
    | [] => (([] : List EPut), 0)
    | v0 :: _ =>
      let y := mxConvert (elemOf t.fmt) rm sat (live.map (fun (v : FVal × Nat) => some (v.1, rndFor rm seed (v.2 + t.size 0 * m))))
      (scalePut (t.scaleAddr 1 (t.storage false [v0.2, m])) y.1 ::
        (live.zip y.2.1).map (fun (p : (FVal × Nat) × Nat) => (⟨t.loc t.fmt false [p.1.2, m], p.2, rawFinite t.fmt p.2 y.1⟩ : EPut)), y.2.2))
  (bs.flatMap (·.1), bs.foldl (fun a b => a ||| b.2) 0)

/-- Clears rows of a set; an F64X accumulator takes the EW in force (R67, R106, R191). -/
def AccSet.clearRows (t : AccSet) (ew : BitVec 16) (r0 cnt : Nat) : AccSet :=
  let cols := t.tag.cols
  let inside (i : Nat) : Bool := decide (r0 * cols ≤ i ∧ i < (r0 + cnt) * cols)
  { t with
    fp := t.fp.filter (fun x => !inside x.1)
    int := t.int.filter (fun x => !inside x.1)
    ex := match t.tag.cls with
      | .f64x => (List.range (cnt * cols)).foldl (fun x i => Tab.set x (r0 * cols + i) (ExAcc.clear true ew) exZero) t.ex
      | _ => t.ex.filter (fun x => !inside x.1) }

/-- The effect of an MXR. A destination with SCALE 0b10 takes ordinary MX blocks, and a format outside R107's and R109's lists takes plain
elements of that format, DEDUCED (log 58). -/
def Dev.mxrEff (d : Dev) (n : Nat) (f : MxrF) : Eff :=
  let c := d.core n
  let (r0, cnt) := c.mxrRows f
  let t := c.accSet f.acc.toNat
  let cols := t.tag.cols
  if cnt = 0 then ⟨d, stOk, 0, true⟩
  else
    let lpf := t.tag.cls == .lp && !t.tag.int
    let x := if lpf then d.readEpi n f r0 cnt cols else (d, stOk, ⟨none, none, none, none⟩)
    if x.2.1 ≠ stOk then ⟨x.1, x.2.1, 0, false⟩
    else
      let dd := c.slotDesc f.dd.toNat
      let seed := c.spair f.sseed.toNat
      let mx := lpf && dd.scaling dd.fmt != 0 && decide (dd.fmt < 5)
      let rows := (List.range cnt).map (fun i =>
        let vs := (List.range cols).map (fun j => x.2.2.apply (t.value (r0 + i) j) i j)
        let w := if mx then mxRow dd f.rm.toNat seed f.sat (r0 + i) (vs.map (·.1))
          else plainRow dd t.tag.cls f.rm.toNat seed f.sat (r0 + i) (vs.map (·.1))
        (w.1, vs.foldl (fun a v => a ||| v.2) w.2))
      let y := x.1.putElems n (rows.flatMap (·.1))
      if y.2 ≠ stOk then ⟨y.1, y.2, 0, false⟩
      else
        let c := y.1.core n
        ⟨if f.clr then y.1.setCore n { c with acc := Tab.set c.acc f.acc.toNat (t.clearRows c.ew r0 cnt) AccSet.reset } else y.1,
         stOk, rows.foldl (fun a r => a ||| r.2) 0, true⟩

/-- MXR (R106): reads rows out through the epilogue. -/
def execMxr (core : Fin 96) (s : State) : Host.Outcome State Fault Refusal :=
  s.act (fun d => d.runHead core .mxa (fun i => match i with | .mxr f => some (fun e _ => e.mxrEff core f) | _ => none))

/-! ### MXS, MXD, MXSET (R110, R190, R191, R216) -/

/-- A set in raw form (R110). -/
def AccSet.raw (t : AccSet) : List Byte :=
  match t.tag.cls with
  | .lp =>
    if t.tag.int then (List.range 16384).flatMap (fun i => leBytes 8 ((Tab.get t.int i 0).signExtend 64).toNat)
    else (List.range 16384).flatMap (fun i => leBytes 4 (Tab.get t.fp i 0).toNat)
  | _ => (List.range 1024).flatMap (fun i => (Tab.get t.ex i exZero).toBytes)

/-- Entries of a sparse table from values in order, leaving out the default. -/
def tabOf {α : Type} [DecidableEq α] (xs : List α) (z : α) : Tab α :=
  xs.zipIdx.filterMap (fun x => if x.1 = z then none else some (x.2, x.1))

/-- The set that a raw form spells under a tag (R110). -/
def AccSet.ofRaw (t : AccTag) (bs : List Byte) : AccSet :=
  match t.cls with
  | .lp =>
    if t.int then ⟨t, [], tabOf ((pieces 8 bs (bs.length + 1)).map (fun b => BitVec.ofNat 48 (leNat b))) 0, []⟩
    else ⟨t, tabOf ((pieces 4 bs (bs.length + 1)).map (fun b => BitVec.ofNat 32 (leNat b))) 0, [], []⟩
  | _ => ⟨t, [], [], tabOf ((pieces 80 bs (bs.length + 1)).map ExAcc.ofBytes) exZero⟩

/-- The effect of an MXS. -/
def Dev.mxsEff (d : Dev) (n : Nat) (f : MxsF) : Eff :=
  let c := d.core n
  if f.restore then
    let t := c.restoreTag f
    let x := d.lsLoad n (c.mxsAddr f) t.rawBytes
    if x.2.1 = stOk then
      let c := x.1.core n
      ⟨x.1.setCore n { c with acc := Tab.set c.acc f.acc.toNat (AccSet.ofRaw t x.2.2) AccSet.reset }, stOk, 0, true⟩
    else ⟨x.1, x.2.1, 0, false⟩
  else
    let t := c.accSet f.acc.toNat
    let x := d.lsStore n (c.mxsAddr f) t.raw (fun _ => false)
    if x.2 = stOk then
      let c := x.1.core n
      ⟨x.1.setCore n { c with savedTags := Tab.put c.savedTags (c.mxsAddr f) (some t.tag) }, stOk, 0, true⟩
    else ⟨x.1, x.2, 0, false⟩

/-- MXS (R110): saves or restores a set in raw form. -/
def execMxs (core : Fin 96) (s : State) : Host.Outcome State Fault Refusal :=
  s.act (fun d => d.runHead core .mxa (fun i => match i with | .mxs f => some (fun e _ => e.mxsEff core f) | _ => none))

/-- The effect of an MXD. -/
def Dev.mxdEff (d : Dev) (n : Nat) (f : MxdF) : Eff :=
  let c := d.core n
  let a := (c.areg f.a.toNat).toNat + 8 * f.imm.toNat
  let put (e : Dev) (x : Slot) : Eff :=
    let c := e.core n
    ⟨e.setCore n { c with slots := Tab.set c.slots f.slot.toNat x Slot.reset }, stOk, 0, true⟩
  let old := c.slot f.slot.toNat
  match f.sel.toNat with
  | 0 =>
    let x := d.lsLoad n a 128
    if x.2.1 = stOk then put x.1 { old with desc := x.2.2 } else ⟨x.1, x.2.1, 0, false⟩
  | 1 => put d { old with mask := a }
  | _ => put d { old with metaAddr := a }

/-- MXD (R190, R216): loads an operand slot. -/
def execMxd (core : Fin 96) (s : State) : Host.Outcome State Fault Refusal :=
  s.act (fun d => d.runHead core .mxa (fun i => match i with | .mxd f => some (fun e _ => e.mxdEff core f) | _ => none))

/-- MXSET (R191): writes MXCTL.EW. -/
def execMxset (core : Fin 96) (s : State) : Host.Outcome State Fault Refusal :=
  s.act (fun d => d.runHead core .mxa (fun i => match i with
    | .mxset ew => some (fun e _ => ⟨e.setCore core { e.core core with ew := ew }, stOk, 0, true⟩)
    | _ => none))

end Sys2Proof.Machine
end

