-- ==== Sys2Proof/Machine/VxeArith.lean ====
section
/-! DEFINITION. The arithmetic pipe of the vector engine (R111 to R139, R299, R300). The operand fields that the spec does not
lay out, and types an operation is not given for, are in log 8. -/
namespace Sys2Proof.Machine
open Sys2Proof

/-! ### Element operations -/

/-- An element result: the encoding and the flags. -/
abbrev ElR := Nat × Nat

/-- A floating-point operation rounded once to the type (R122). -/
def fOp (ty : Nat) (v : FVal) : ElR := (tyFmt ty).encode rne v

/-- An element of a floating-point type as a value. -/
def fVal (ty raw : Nat) : FVal := (tyFmt ty).decode raw

/-- Whether a value is negative or −0. -/
def FVal.isNeg (v : FVal) : Bool := match v with | .nan => false | .inf n => n | .fin n _ _ => n

/-- MIN or MAX of two values: a NaN gives a NaN, −0 lies below +0 (R123). -/
def FVal.pick (a b : FVal) (max : Bool) : FVal :=
  match a.cmp b with
  | none => .nan
  | some k =>
    let aBelow := decide (k < 0) || (decide (k = 0) && a.isNeg)
    if aBelow != max then a else b

/-- An element of an integer type as a signed number. -/
def iVal (ty raw : Nat) : Int := signed (tyBits ty) raw

/-- An integer result, wrapped to the type (R124). -/
def iOp (ty : Nat) (v : Int) : ElR := (intBits (tyBits ty) v, 0)

/-- An integer result clamped to the signed range (R124). -/
def iSat (ty : Nat) (v : Int) : ElR :=
  let top : Int := 2 ^ (tyBits ty - 1) - 1
  iOp ty (max (-top - 1) (min top v))

/-- A two-operand operation of the arithmetic pipe; none for a type it is not given for (R120 to R124, log 8). -/
def elemOp2 (o : VxaOp) (ty a b : Nat) : Option ElR :=
  let w := tyBits ty
  if tyFloat ty then
    match o with
    | .add => some (fOp ty ((fVal ty a).add (fVal ty b)))
    | .sub => some (fOp ty ((fVal ty a).add (fVal ty b).neg))
    | .mul => some (fOp ty ((fVal ty a).mul (fVal ty b)))
    | .min => some (fOp ty ((fVal ty a).pick (fVal ty b) false))
    | .max => some (fOp ty ((fVal ty a).pick (fVal ty b) true))
    | _ => none
  else
    match o with
    | .add => some (iOp ty (iVal ty a + iVal ty b))
    | .sub => some (iOp ty (iVal ty a - iVal ty b))
    | .mul => some (iOp ty (iVal ty a * iVal ty b))
    | .min => some (iOp ty (min (iVal ty a) (iVal ty b)))
    | .max => some (iOp ty (max (iVal ty a) (iVal ty b)))
    | .satAdd => some (iSat ty (iVal ty a + iVal ty b))
    | .satSub => some (iSat ty (iVal ty a - iVal ty b))
    | .and => some (a &&& b, 0)
    | .or => some (a ||| b, 0)
    | .xor => some (a ^^^ b, 0)
    | .shl => some (a * 2 ^ (b % w) % 2 ^ w, 0)
    | .shrL => some (a / 2 ^ (b % w), 0)
    | .shrA => some (iOp ty (iVal ty a / 2 ^ (b % w)))
    | _ => none

/-- ABS and NEG, given for floating-point types (R120). -/
def elemOp1 (o : VxaOp) (ty a : Nat) : Option ElR :=
  if tyFloat ty then
    match o with
    | .abs => some (fOp ty (fVal ty a).abs)
    | .neg => some (fOp ty (fVal ty a).neg)
    | _ => none
  else none

/-- FMA: the exact a × b + c rounded once (R122). -/
def elemFma (ty a b c : Nat) : Option ElR :=
  if tyFloat ty then some (fOp ty (((fVal ty a).mul (fVal ty b)).add (fVal ty c))) else none

/-- A compare: the bit and the flags; a NaN is false for every predicate but NE (R123, R192). -/
def elemCmp (ty pred a b : Nat) : Bool × Nat :=
  let k := if tyFloat ty then (fVal ty a).cmp (fVal ty b)
    else some (if iVal ty a < iVal ty b then -1 else if iVal ty a = iVal ty b then 0 else 1)
  match k with
  | none => (decide (pred = 1), flagInvalid)
  | some k => (match pred with
    | 0 => decide (k = 0)
    | 1 => decide (k ≠ 0)
    | 2 => decide (k < 0)
    | 3 => decide (k ≤ 0)
    | 4 => decide (k > 0)
    | _ => decide (k ≥ 0), 0)

/-! ### Operands of a vector instruction -/

/-- The vector length of a vector instruction over `count` elements (R114). -/
def Core.vlOf (c : Core) (f : VecF) (count : Nat) : Nat := c.vlen f.vli f.vl count

/-- Element `i` of the second source: a vector's, or a broadcast scalar (R125, R192). -/
def Core.src2 (c : Core) (f : VecF) (ty i : Nat) : Nat :=
  if f.sub.getLsbD 6 then c.scalarElem f.vb.toNat ty else c.elem f.vb.toNat ty i

/-- Whether element `i` is active. -/
def Core.on (c : Core) (f : VecF) (i : Nat) : Bool := c.active f.me f.mask i

/-- The flags of active elements. -/
def Core.actFlags (c : Core) (f : VecF) (rs : List ElR) : Nat :=
  rs.zipIdx.foldl (fun a r => if c.on f r.2 then a ||| r.1.2 else a) 0

/-- Puts results and flags of a vector instruction in place (R117, R118). -/
def Dev.vecDone (d : Dev) (n : Nat) (f : VecF) (ty : Nat) (rs : List ElR) : Eff :=
  let c := d.core n
  ⟨d.setCore n (c.putVec f.vd.toNat ty f.me f.mz f.mask (rs.map (·.1))), stOk, c.actFlags f rs, true⟩

/-- A result for a type that an operation is not given for: a free value for each element, no flag (log 8). -/
def Dev.vecFree (d : Dev) (n : Nat) (f : VecF) (ty cnt : Nat) : Eff :=
  let x := d.draw
  let rs := (List.range cnt).map (fun i => (x.1 / 2 ^ (64 * i) % 2 ^ tyBits ty, 0))
  x.2.vecDone n f ty rs

/-- The whole of an elementwise instruction, from the result of each element. -/
def Dev.vecMap (d : Dev) (n : Nat) (f : VecF) (g : Core → Nat → Nat → Option ElR) : Eff :=
  let c := d.core n
  let ty := f.ty.toNat
  let vl := c.vlOf f (tyCount ty)
  let rs := (List.range vl).map (g c ty)
  if rs.all Option.isSome then d.vecDone n f ty (rs.filterMap id) else d.vecFree n f ty vl

/-- Runs the head of the arithmetic pipe where `pick` takes its operation. -/
def Dev.runVxa (d : Dev) (n : Nat) (pick : VxaOp → VecF → Option (Dev → Eff)) : Dev :=
  d.runHead n .vxa (fun i => match i with
    | .vxa o f => (pick o f).map (fun g => fun e _ => g e)
    | _ => none)

/-- A two-operand elementwise instruction. -/
def Dev.vec2 (d : Dev) (n : Nat) (o : VxaOp) (f : VecF) : Eff :=
  d.vecMap n f (fun c ty i => elemOp2 o ty (c.elem f.va.toNat ty i) (c.src2 f ty i))

/-- The meaning of a row for one two-operand operation. -/
def vec2Row (core : Fin 96) (o : VxaOp) (s : State) : Host.Outcome State Fault Refusal :=
  s.act (fun d => d.runVxa core (fun p f => if p = o then some (fun e => e.vec2 core o f) else none))

/-- ADD (R120). -/
def execVAdd (core : Fin 96) (s : State) : Host.Outcome State Fault Refusal := vec2Row core .add s
/-- SUB (R120). -/
def execVSub (core : Fin 96) (s : State) : Host.Outcome State Fault Refusal := vec2Row core .sub s
/-- MUL (R120). -/
def execVMul (core : Fin 96) (s : State) : Host.Outcome State Fault Refusal := vec2Row core .mul s
/-- MIN (R123). -/
def execVMin (core : Fin 96) (s : State) : Host.Outcome State Fault Refusal := vec2Row core .min s
/-- MAX (R123). -/
def execVMax (core : Fin 96) (s : State) : Host.Outcome State Fault Refusal := vec2Row core .max s
/-- Saturating ADD (R124). -/
def execSaturatingAdd (core : Fin 96) (s : State) : Host.Outcome State Fault Refusal := vec2Row core .satAdd s
/-- Saturating SUB (R124). -/
def execSaturatingSub (core : Fin 96) (s : State) : Host.Outcome State Fault Refusal := vec2Row core .satSub s
/-- AND (R120). -/
def execVAnd (core : Fin 96) (s : State) : Host.Outcome State Fault Refusal := vec2Row core .and s
/-- OR (R120). -/
def execVOr (core : Fin 96) (s : State) : Host.Outcome State Fault Refusal := vec2Row core .or s
/-- XOR (R120). -/
def execVXor (core : Fin 96) (s : State) : Host.Outcome State Fault Refusal := vec2Row core .xor s

/-- Shifts: left, logical right, arithmetic right (R124). -/
def execShifts (core : Fin 96) (s : State) : Host.Outcome State Fault Refusal :=
  s.act (fun d => d.runVxa core (fun p f =>
    if p = .shl ∨ p = .shrL ∨ p = .shrA then some (fun e => e.vec2 core p f) else none))

/-- FMA (R122). -/
def execVFma (core : Fin 96) (s : State) : Host.Outcome State Fault Refusal :=
  s.act (fun d => d.runVxa core (fun p f => if p = .fma then some (fun e =>
    e.vecMap core f (fun c ty i => elemFma ty (c.elem f.va.toNat ty i) (c.src2 f ty i) (c.elem f.vc.toNat ty i))) else none))

/-- ABS (R120). -/
def execVAbs (core : Fin 96) (s : State) : Host.Outcome State Fault Refusal :=
  s.act (fun d => d.runVxa core (fun p f => if p = .abs then some (fun e =>
    e.vecMap core f (fun c ty i => elemOp1 .abs ty (c.elem f.va.toNat ty i))) else none))

/-- NEG (R120). -/
def execVNeg (core : Fin 96) (s : State) : Host.Outcome State Fault Refusal :=
  s.act (fun d => d.runVxa core (fun p f => if p = .neg then some (fun e =>
    e.vecMap core f (fun c ty i => elemOp1 .neg ty (c.elem f.va.toNat ty i))) else none))

/-- CMP: SUB[2:0] is the predicate, VD[3:0] the destination mask (R123, R192). -/
def execVCmp (core : Fin 96) (s : State) : Host.Outcome State Fault Refusal :=
  s.act (fun d => d.runVxa core (fun p f => if p = .cmp then some (fun e =>
    let c := e.core core
    let ty := f.ty.toNat
    let rs := (List.range (c.vlOf f (tyCount ty))).map (fun i =>
      elemCmp ty (f.sub.toNat % 8) (c.elem f.va.toNat ty i) (c.src2 f ty i))
    (⟨e.setCore core (c.putMask f.vd.toNat f.me f.mz f.mask (rs.map (·.1))), stOk,
      c.actFlags f (rs.map (fun r => (0, r.2))), true⟩ : Eff)) else none))

/-- SEL: the first source where the mask m[VC[3:0]] holds 1, the second elsewhere (R120, log 8). -/
def execVSel (core : Fin 96) (s : State) : Host.Outcome State Fault Refusal :=
  s.act (fun d => d.runVxa core (fun p f => if p = .sel then some (fun e =>
    e.vecMap core f (fun c ty i =>
      some (if (c.mreg f.vc.toNat).getLsbD i then c.elem f.va.toNat ty i else c.src2 f ty i, 0))) else none))

/-- BCAST: the scalar VB[4:0] in every element (R125). -/
def execBcast (core : Fin 96) (s : State) : Host.Outcome State Fault Refusal :=
  s.act (fun d => d.runVxa core (fun p f => if p = .bcast then some (fun e =>
    e.vecMap core f (fun c ty _ => some (c.scalarElem f.vb.toNat ty, 0))) else none))

/-- A mask operation over the bits below the vector length (R116, R118, R120). -/
def Dev.maskOp (d : Dev) (n : Nat) (f : VecF) (g : Bool → Bool → Bool) : Eff :=
  let c := d.core n
  let bs := (List.range (c.vlOf f (tyCount f.ty.toNat))).map (fun i =>
    g ((c.mreg f.va.toNat).getLsbD i) ((c.mreg f.vb.toNat).getLsbD i))
  ⟨d.setCore n (c.putMask f.vd.toNat f.me f.mz f.mask bs), stOk, 0, true⟩

/-- MAND (R120). -/
def execMand (core : Fin 96) (s : State) : Host.Outcome State Fault Refusal :=
  s.act (fun d => d.runVxa core (fun p f => if p = .mand then some (fun e => e.maskOp core f (fun a b => a && b)) else none))

/-- MOR (R120). -/
def execMor (core : Fin 96) (s : State) : Host.Outcome State Fault Refusal :=
  s.act (fun d => d.runVxa core (fun p f => if p = .mor then some (fun e => e.maskOp core f (fun a b => a || b)) else none))

/-- MXOR (R120). -/
def execMxor (core : Fin 96) (s : State) : Host.Outcome State Fault Refusal :=
  s.act (fun d => d.runVxa core (fun p f => if p = .mxor then some (fun e => e.maskOp core f (fun a b => a != b)) else none))

/-- MNOT (R120). -/
def execMnot (core : Fin 96) (s : State) : Host.Outcome State Fault Refusal :=
  s.act (fun d => d.runVxa core (fun p f => if p = .mnot then some (fun e => e.maskOp core f (fun a _ => !a)) else none))

/-- MPOP: how many active elements below the vector length have their bit set, to the scalar VD[4:0] (R115, R120). -/
def execMpop (core : Fin 96) (s : State) : Host.Outcome State Fault Refusal :=
  s.act (fun d => d.runVxa core (fun p f => if p = .mpop then some (fun e =>
    let c := e.core core
    let vl := c.vlOf f (tyCount f.ty.toNat)
    let k := ((List.range vl).filter (fun i => (c.mreg f.va.toNat).getLsbD i && c.on f i)).length
    (⟨if vl = 0 then e else e.setCore core (c.setS f.vd.toNat (BitVec.ofNat 32 k)), stOk, 0, true⟩ : Eff)) else none))

/-! ### Conversion, rotate, permute -/

/-- CVT from the TYPE to the operation's format: elements past a register go to the next one (R120, R122, R192, log 8). DESIGN
CHOICE: a conversion to INT16 or from one integer type to another rounds and saturates as R55 and R56 do for INT8 (log 59). -/
def Dev.cvt (d : Dev) (n : Nat) (t : Nat) (f : VecF) : Eff :=
  let c := d.core n
  let ty := f.ty.toNat
  let k := f.vc.toNat % 32
  let seed := (c.sreg k).toNat + (c.sreg (k + 1)).toNat * 2 ^ 32
  let base := (c.sreg (k + 2)).toNat
  let rm := f.sub.toNat / 8 % 8
  let rs := (List.range (c.vlOf f (tyCount ty))).map (fun i =>
    (tyElem t).encode ⟨rm, f.sub.getLsbD 2, rndFor rm seed (base + i)⟩ ((tyElem ty).decode (c.elem f.va.toNat ty i)))
  let c' := rs.zipIdx.foldl (fun e r =>
    let v := f.vd.toNat + r.2 / tyCount t
    if c.on f r.2 then e.setElem v t (r.2 % tyCount t) r.1.1
    else if f.mz then e.setElem v t (r.2 % tyCount t) 0 else e) c
  ⟨d.setCore n c', stOk, c.actFlags f rs, true⟩

/-- CVT (R122). -/
def execCvt (core : Fin 96) (s : State) : Host.Outcome State Fault Refusal :=
  s.act (fun d => d.runVxa core (fun p f => match p with | .cvt t => some (fun e => e.cvt core t.toNat f) | _ => none))

/-- ROTB: bytes SH onward of VA followed by VB; SH is the scalar VC[4:0], or the immediate where SUB[0] is 1 (R130, log 8). DESIGN
CHOICE: VL counts 32-bit lanes whatever TYPE holds, as its masks do (log 59). -/
def execRotb (core : Fin 96) (s : State) : Host.Outcome State Fault Refusal :=
  s.act (fun d => d.runVxa core (fun p f => if p = .rotb then some (fun e =>
    let c := e.core core
    let sh := (if f.sub.getLsbD 0 then f.sub.toNat / 2 % 32 * 64 + f.vc.toNat else (c.sreg f.vc.toNat).toNat) % 2048
    let byte (i : Nat) : Nat :=
      let w := if i < 2048 then (c.lane f.va.toNat (i / 4)).toNat else c.src2 f 4 ((i - 2048) / 4)
      bits w (8 * (i % 4)) 8
    let rs := (List.range (c.vlOf f 512)).map (fun l =>
      (byte (sh + 4 * l) + byte (sh + 4 * l + 1) * 2 ^ 8 + byte (sh + 4 * l + 2) * 2 ^ 16 + byte (sh + 4 * l + 3) * 2 ^ 24, 0))
    e.vecDone core f 4 rs) else none))

/-- PERM: lane i takes the lane of VA that lane i of VB names, modulo 512 (R120, log 8). -/
def execPerm (core : Fin 96) (s : State) : Host.Outcome State Fault Refusal :=
  s.act (fun d => d.runVxa core (fun p f => if p = .perm then some (fun e =>
    let c := e.core core
    let rs := (List.range (c.vlOf f 512)).map (fun l => ((c.lane f.va.toNat (c.src2 f 4 l % 512)).toNat, 0))
    e.vecDone core f 4 rs) else none))

/-! ### Reductions (R135) -/

/-- One level of the pairwise tree; an odd last value meets the identity. -/
def treeLevel (op : Nat → Nat → ElR) (z : Nat) (xs : List ElR) : List ElR :=
  match xs with
  | [] => []
  | [a] => let r := op a.1 z; [(r.1, a.2 ||| r.2)]
  | a :: b :: r => (let x := op a.1 b.1; (x.1, a.2 ||| b.2 ||| x.2)) :: treeLevel op z r

/-- The fixed pairwise tree with identity `z`; the tree goes on past the register, so that the result meets the identity once
more (R135). -/
def treeGo (op : Nat → Nat → ElR) (z : Nat) (xs : List ElR) (fuel : Nat) : ElR :=
  match fuel with
  | 0 => xs.headD (z, 0)
  | k + 1 =>
    match xs with
    | [] => (z, 0)
    | [a] => let r := op a.1 z; (r.1, a.2 ||| r.2)
    | _ => treeGo op z (treeLevel op z xs) k

/-- The tree over a list of raw values. -/
def tree (op : Nat → Nat → ElR) (z : Nat) (xs : List Nat) : ElR := treeGo op z (xs.map (fun x => (x, 0))) 12

/-- The format a TYPE reduces in: FP32 for the 16-bit formats, else its own; integers in 32 bits (R135). -/
def redTy (ty : Nat) : Nat := match ty with | 3 => 3 | 4 => 4 | 5 => 4 | _ => 0

/-- The identity of a reduction in the type it reduces in (R135). -/
def redZero (o : RedOp) (ty : Nat) : Nat :=
  match o, redTy ty with
  | .add, _ => 0
  | .max, 3 => fFP64.encode rne (.inf true) |>.1
  | .max, 4 => 0x80000000
  | .max, _ => fFP32.encode rne (.inf true) |>.1
  | .min, 3 => fFP64.encode rne (.inf false) |>.1
  | .min, 4 => 0x7FFFFFFF
  | .min, _ => fFP32.encode rne (.inf false) |>.1

/-- The two-operand operation of a reduction. -/
def redOp2 (o : RedOp) : VxaOp := match o with | .add => .add | .max => .max | .min => .min

/-- An element widened to the type it reduces in (R135). -/
def redWiden (ty raw : Nat) : Nat :=
  match ty with
  | 1 => (fFP32.encode rne (fBF16.decode raw)).1
  | 2 => (fFP32.encode rne (fFP16.decode raw)).1
  | 5 => intBits 32 (signed 16 raw)
  | _ => raw

/-- RED: VD[4:0] is the destination scalar (R135, R192). -/
def Dev.red (d : Dev) (n : Nat) (o : RedOp) (f : VecF) : Eff :=
  let c := d.core n
  let ty := f.ty.toNat
  let vl := c.vlOf f (tyCount ty)
  if vl = 0 then ⟨d, stOk, 0, true⟩
  else
    let xs := (List.range vl).map (fun i => if c.on f i then redWiden ty (c.elem f.va.toNat ty i) else redZero o ty)
    let r := tree (fun a b => (elemOp2 (redOp2 o) (redTy ty) a b).getD (0, 0)) (redZero o ty) xs
    ⟨d.setCore n (if ty = 3 then c.setPair f.vd.toNat r.1 else c.setS f.vd.toNat (BitVec.ofNat 32 r.1)), stOk, r.2, true⟩

/-- RED (R135). -/
def execRed (core : Fin 96) (s : State) : Host.Outcome State Fault Refusal :=
  s.act (fun d => d.runVxa core (fun p f => match p with | .red o => some (fun e => e.red core o f) | _ => none))

/-! ### Scans (R136 to R139) -/

/-- One level of the scan at distance `dist` over values with their segment flags (R137). -/
def scanLevel {α : Type} (op : α → α → α × Nat) (dist : Nat) (xs : List (α × Bool)) : List (α × Bool) × Nat :=
  let head := xs.take dist
  let rest := (xs.drop dist).zip xs |>.map (fun p =>
    let y := op p.2.1 p.1.1
    (if p.1.2 then (p.1.1, 0) else y, p.1.2 || p.2.2))
  (head ++ rest.map (fun r => (r.1.1, r.2)), rest.foldl (fun a r => a ||| r.1.2) 0)

/-- The levels of a scan from distance `dist` on (R137). -/
def scanGo {α : Type} (op : α → α → α × Nat) (dist fuel : Nat) (xs : List (α × Bool)) (fl : Nat) : List (α × Bool) × Nat :=
  match fuel with
  | 0 => (xs, fl)
  | k + 1 =>
    if dist ≥ xs.length then (xs, fl)
    else
      let y := scanLevel op dist xs
      scanGo op (2 * dist) k y.1 (fl ||| y.2)

/-- A whole scan: inclusive results, and the flags (R137). -/
def scanAll {α : Type} (op : α → α → α × Nat) (carryOp : α → α × Nat) (xs : List α) (g : List Bool) : List α × Nat :=
  let y := scanGo op 1 10 (xs.zip g) 0
  let z := y.1.map (fun p => if p.2 then (p.1, 0) else carryOp p.1)
  (z.map (·.1), z.foldl (fun a r => a ||| r.2) y.2)

/-- The values an exclusive scan writes (R138). -/
def exclusive (f : List Bool) (ident carry : Nat) (incl : List Nat) : List Nat :=
  f.zipIdx.map (fun x => if x.1 then ident else if x.2 = 0 then carry else incl.getD (x.2 - 1) 0)

/-- The segment flags of a scan: m[VC[3:0]], or none where VC[5] is 1 (R192). -/
def Core.segFlags (c : Core) (f : VecF) (vl : Nat) : List Bool :=
  (List.range vl).map (fun i => !f.vc.getLsbD 5 && (c.mreg f.vc.toNat).getLsbD i)

/-- The carry of a scan (R113, R192). -/
def Core.carry (c : Core) (f : VecF) : Nat :=
  if f.ty = 3 then c.spair (f.sub.toNat / 2) else (c.sreg (f.sub.toNat / 2)).toNat

/-- Writes the carry of a scan. -/
def Core.setCarry (c : Core) (f : VecF) (v : Nat) : Core :=
  if f.ty = 3 then c.setPair (f.sub.toNat / 2) v else c.setS (f.sub.toNat / 2) (BitVec.ofNat 32 v)

/-- Writes a scan's results and its carry (R137, R138). -/
def Dev.scanDone (d : Dev) (n : Nat) (f : VecF) (ident : Nat) (g : List Bool) (incl : List Nat) (fl : Nat) : Eff :=
  let c := d.core n
  let out := if f.sub.getLsbD 0 then exclusive g ident (c.carry f) incl else incl
  let c := c.putVec f.vd.toNat f.ty.toNat f.me f.mz f.mask out
  ⟨d.setCore n (c.setCarry f (incl.getLastD 0)), stOk, fl, true⟩

/-- A scan in a type it is not given for: free results and carry (log 8). -/
def Dev.scanFree (d : Dev) (n : Nat) (f : VecF) (vl : Nat) : Eff :=
  let x := d.draw
  x.2.scanDone n { f with sub := f.sub &&& 0x7E } 0 [] ((List.range vl).map (fun i => x.1 / 2 ^ (64 * i) % 2 ^ tyBits f.ty.toNat)) 0

/-- The two-operand operation of a scan. -/
def scanOp2 (o : ScanOp) : VxaOp := match o with | .add => .add | .max => .max | .min => .min | .mul => .mul

/-- The identity of a scan (R138). -/
def scanZero (o : ScanOp) (ty : Nat) : Nat :=
  match o with
  | .add => 0
  | .max => redZero .max ty
  | .min => redZero .min ty
  | .mul => match ty with | 0 => 0x3F800000 | 3 => 0x3FF0000000000000 | _ => 1

/-- SCAN, in FP32, FP64 and INT32 (R136 to R138). -/
def Dev.scan (d : Dev) (n : Nat) (o : ScanOp) (f : VecF) : Eff :=
  let c := d.core n
  let ty := f.ty.toNat
  let vl := c.vlOf f (tyCount ty)
  if vl = 0 then ⟨d, stOk, 0, true⟩
  else if ty = 0 ∨ ty = 3 ∨ ty = 4 then
    let op (a b : Nat) : ElR := (elemOp2 (scanOp2 o) ty a b).getD (0, 0)
    let g := c.segFlags f vl
    let r := scanAll op (op (c.carry f)) ((List.range vl).map (c.elem f.va.toNat ty)) g
    d.scanDone n f (scanZero o ty) g r.1 r.2
  else d.scanFree n f vl

/-- SCAN (R137). -/
def execScan (core : Fin 96) (s : State) : Host.Outcome State Fault Refusal :=
  s.act (fun d => d.runVxa core (fun p f => match p with | .scan o => some (fun e => e.scan core o f) | _ => none))

/-- SCAN.LR, in FP32 and FP64: a from VA, b from VB or the scalar that SUB[6] broadcasts (R136, R137, R192). -/
def Dev.scanLr (d : Dev) (n : Nat) (f : VecF) : Eff :=
  let c := d.core n
  let ty := f.ty.toNat
  let vl := c.vlOf f (tyCount ty)
  if vl = 0 then ⟨d, stOk, 0, true⟩
  else if ty = 0 ∨ ty = 3 then
    let fma (a b x : Nat) : ElR := (elemFma ty a b x).getD (0, 0)
    let op (l r : Nat × Nat) : (Nat × Nat) × Nat :=
      let p := (elemOp2 .mul ty r.1 l.1).getD (0, 0)
      let q := fma r.1 l.2 r.2
      ((p.1, q.1), p.2 ||| q.2)
    let carryOp (x : Nat × Nat) : (Nat × Nat) × Nat := let q := fma x.1 (c.carry f) x.2; ((x.1, q.1), q.2)
    let g := c.segFlags f vl
    let r := scanAll op carryOp ((List.range vl).map (fun i => (c.elem f.va.toNat ty i, c.src2 f ty i))) g
    d.scanDone n f 0 g (r.1.map (·.2)) r.2
  else d.scanFree n f vl

/-- SCAN.LR (R137). -/
def execScanLr (core : Fin 96) (s : State) : Host.Outcome State Fault Refusal :=
  s.act (fun d => d.runVxa core (fun p f => match p with | .scanLr => some (fun e => e.scanLr core f) | _ => none))

/-! ### TOPK (R299, R300) -/

/-- Whether candidate `a` ranks before `b`: by value, +0 above −0, then by lower offset. -/
def ranksBefore (a b : Nat × FVal) : Bool :=
  match a.2.cmp b.2 with
  | none => false
  | some k => decide (k > 0) || (decide (k = 0) && ((!a.2.isNeg && b.2.isNeg) || (a.2.isNeg == b.2.isNeg && decide (a.1 < b.1))))

/-- The first-ranked candidate. -/
def bestOf (xs : List (Nat × FVal)) : Option (Nat × FVal) :=
  xs.foldl (fun b x => match b with | none => some x | some y => if ranksBefore x y then some x else some y) none

/-- The `k` first-ranked candidates in order. -/
def topOf (k : Nat) (xs : List (Nat × FVal)) : List (Nat × FVal) :=
  match k with
  | 0 => []
  | j + 1 => match bestOf xs with
    | none => []
    | some b => b :: topOf j (xs.filter (fun x => x.1 ≠ b.1))

/-- TOPK: SUB[2:0] is log2 W − 3, VC[2:0] is K − 1 (R299, R300). -/
def Dev.topk (d : Dev) (n : Nat) (f : VecF) : Eff :=
  let c := d.core n
  let vl := c.vlOf f 512
  let w := 8 * 2 ^ min (f.sub.toNat % 8) 6
  let k := f.vc.toNat % 8 + 1
  let cand (g : Nat) : List (Nat × FVal) := (List.range w).filterMap (fun o =>
    let i := g * w + o
    if i < vl ∧ c.on f i then some (o, f32 (c.lane f.va.toNat i)) else none)
  let segs := (List.range (512 / w)).filter (fun g => g * w < vl)
  let fl := if segs.any (fun g => (cand g).any (fun x => x.2 == .nan)) then flagInvalid else 0
  let c' := segs.foldl (fun (e : Core) g =>
    let best := topOf k ((cand g).filter (fun x => x.2 != .nan))
    (List.range k).foldl (fun (e : Core) j =>
      let i := g * w + j
      if i < vl then
        match best[j]? with
        | some b => (e.setLane f.vb.toNat i (c.lane f.va.toNat (g * w + b.1))).setLane f.vd.toNat i (BitVec.ofNat 32 b.1)
        | none => (e.setLane f.vb.toNat i 0xFF800000).setLane f.vd.toNat i 0xFFFFFFFF
      else e) e) c
  ⟨d.setCore n c', stOk, fl, true⟩

/-- TOPK (R300). -/
def execTopk (core : Fin 96) (s : State) : Host.Outcome State Fault Refusal :=
  s.act (fun d => d.runVxa core (fun p f => if p = .topk then some (fun e => e.topk core f) else none))

end Sys2Proof.Machine
end

