-- ==== Sys2Proof/Machine/VxeMem.lean ====
section
/-! DEFINITION. The memory pipe of the vector engine (R126 to R149): loads, stores, quantising loads and stores, gathers,
scatters, and the combination of exact accumulators. -/
namespace Sys2Proof.Machine
open Sys2Proof

/-- A memory effect without a flag that leaves the block as it is. -/
def Eff.none (d : Dev) : Eff := ⟨d, stOk, 0, true⟩

/-- A fault of a memory instruction. -/
def Eff.fault (d : Dev) (st : St) : Eff := ⟨d, st, 0, false⟩

/-- The vector length of a memory instruction (R114). -/
def Core.vlMem (c : Core) (f : MemF) (count : Nat) : Nat := c.vlen f.vli f.vl count

/-- Whether element `i` is active. -/
def Core.onMem (c : Core) (f : MemF) (i : Nat) : Bool := c.active f.me f.mask i

/-- The active elements below the vector length. -/
def Core.actives (c : Core) (f : MemF) (vl : Nat) : List Nat := (List.range vl).filter (c.onMem f)

/-- Runs the head of the memory pipe where `pick` takes its operation. -/
def Dev.runVxm (d : Dev) (n : Nat) (o : VxmOp) (g : Dev → MemF → Eff) : Dev :=
  d.runHead n .vxm (fun i => match i with
    | .vxm p f => if p = o then some (fun e _ => g e f) else none
    | _ => none)

/-- Whether pieces of a local store lie inside it (R126, R149). -/
def allInside (ps : List (Nat × Nat)) : Bool := ps.all (fun p => decide (p.1 + p.2 ≤ lsBytes))

/-- Puts elements read for the active positions into VR; inactive ones are zeroed in zero mode (R117). -/
def Core.putLoaded (c : Core) (f : MemF) (vl : Nat) (vals : List (Nat × Nat)) : Core :=
  let ty := f.ty.toNat
  let c1 := vals.foldl (fun (e : Core) v => e.setElem f.vr.toNat ty v.1 v.2) c
  if f.mz then ((List.range vl).filter (fun i => !c.onMem f i)).foldl (fun (e : Core) i => e.setElem f.vr.toNat ty i 0) c1 else c1

/-- LD: 64 B-aligned, each active element from its place (R127, R149). -/
def Dev.ld (d : Dev) (n : Nat) (f : MemF) : Eff :=
  let c := d.core n
  let ty := f.ty.toNat
  let w := tyBits ty / 8
  let a := c.memAddr f 64
  let vl := c.vlMem f (tyCount ty)
  let is := c.actives f vl
  if vl = 0 then Eff.none d
  else
    let ps := is.map (fun i => (a / 64 * 64 + w * i, w))
    if allInside ps then
      let x := d.lsLoads n ps
      if x.2.1 = stOk then
        ⟨x.1.setCore n ((x.1.core n).putLoaded f vl (is.zip (x.2.2.map leNat))), stOk, if a % 64 = 0 then 0 else flagAlign, true⟩
      else Eff.fault x.1 x.2.1
    else Eff.fault d stOutOfMap

/-- LD (R127). -/
def execLd (core : Fin 96) (s : State) : Host.Outcome State Fault Refusal := s.act (fun d => d.runVxm core .ld (fun e f => e.ld core f))

/-- Whether an element of a TYPE is finite. -/
def elemFinite (ty raw : Nat) : Bool := match (tyElem ty).decode raw with | .fin _ _ _ => true | _ => false

/-- ST: 64 B-aligned, each active element to its place (R127, R129, R149). -/
def Dev.st (d : Dev) (n : Nat) (f : MemF) : Eff :=
  let c := d.core n
  let ty := f.ty.toNat
  let w := tyBits ty / 8
  let a := c.memAddr f 64
  let vl := c.vlMem f (tyCount ty)
  if vl = 0 then Eff.none d
  else
    let ps := (c.actives f vl).map (fun i =>
      let v := c.elem f.vr.toNat ty i
      (⟨⟨a / 64 * 64 + w * i, w, 0, 8 * w⟩, v, elemFinite ty v⟩ : EPut))
    let y := d.putElems n ps
    if y.2 = stOk then ⟨y.1, stOk, if a % 64 = 0 then 0 else flagAlign, true⟩ else Eff.fault y.1 y.2

/-- ST (R129). -/
def execSt (core : Fin 96) (s : State) : Host.Outcome State Fault Refusal := s.act (fun d => d.runVxm core .st (fun e f => e.st core f))

/-! ### Quantising loads and stores (R131 to R134). SUB[0] = 1: no scale array; SUB[1] = 1: a square-block source (log 8) -/

/-- The seed of a quantising instruction (R193). -/
def Core.sqSeed (c : Core) (f : MemF) : Nat := (c.sreg f.sq).toNat + (c.sreg (f.sq + 1)).toNat * 2 ^ 32
/-- The index base of a quantising instruction (R193). -/
def Core.sqBase (c : Core) (f : MemF) : Nat := (c.sreg (f.sq + 2)).toNat
/-- The rounding of element index `i` of a quantising instruction (R134). -/
def Core.sqRound (c : Core) (f : MemF) (i : Nat) : Rounding := ⟨f.rm, f.sat, rndFor f.rm (c.sqSeed f) i⟩

/-- Whether a TYPE is one that quantising instructions convert: FP32, BF16, FP16 (R131, R132). -/
def quantTy (ty : Nat) : Bool := decide (ty < 3)

/-- LDQ: the elements of one row, so that element `i` has the scale byte `i / 32` of the array whatever the row's offset in its
tile is; the element and scale addresses are used as they stand (R131, log 8, log 59). -/
def Dev.ldq (d : Dev) (n : Nat) (f : MemF) : Eff :=
  let c := d.core n
  let ty := f.ty.toNat
  let vl := c.vlMem f (tyCount ty)
  if vl = 0 then Eff.none d
  else
    let a := (c.areg f.a.toNat).toNat
    let sa := (c.areg f.scaleA).toNat
    let scaled := !f.sub.getLsbD 0 && isScaled f.fmt
    let is := c.actives f vl
    let reqs := is.map (fun i => (⟨rowLoc f.fmt a i, f.fmt, if scaled then some (sa + i / 32) else none⟩ : EReq))
    if reqs.all (fun q => decide (q.loc.addr + q.loc.n ≤ lsBytes) && (match q.scale with | some s => decide (s < lsBytes) | none => true)) then
      let x := d.readReqs n (reqs.map some)
      if x.2.1 = stOk then
        if quantTy ty ∧ isScaled f.fmt then
          let rs := (is.zip x.2.2).map (fun p => (p.1, (tyElem ty).encode (c.sqRound f (c.sqBase f + p.1)) p.2))
          ⟨x.1.setCore n ((x.1.core n).putLoaded f vl (rs.map (fun r => (r.1, r.2.1)))), stOk, rs.foldl (fun b r => b ||| r.2.2) 0, true⟩
        else
          let y := x.1.draw
          ⟨y.2.setCore n ((y.2.core n).putLoaded f vl (is.map (fun i => (i, y.1 / 2 ^ (64 * i) % 2 ^ tyBits ty)))), stOk, 0, true⟩
      else Eff.fault x.1 x.2.1
    else Eff.fault d stOutOfMap

/-- LDQ (R131). -/
def execLdq (core : Fin 96) (s : State) : Host.Outcome State Fault Refusal := s.act (fun d => d.runVxm core .ldq (fun e f => e.ldq core f))

/-- One source element of a quantising store: its value with its random value, or none for a pad or inactive one. -/
def Core.sqElem (c : Core) (f : MemF) (reg vl i idx : Nat) : BlockElem :=
  if i < vl ∧ c.onMem f i then
    some ((tyElem f.ty.toNat).decode (c.elem reg f.ty.toNat i), rndFor f.rm (c.sqSeed f) idx)
  else none

/-- The elements of block `b` of a register stored at address `a` (R132). -/
def Core.stqBlock (c : Core) (f : MemF) (vl b : Nat) : List BlockElem :=
  (List.range 32).map (fun j => c.sqElem f f.vr.toNat vl (32 * b + j) (c.sqBase f + 32 * b + j))

/-- What an STQ writes, and its flags: with scales whole blocks up to the one the length ends in, pads and inactive elements as
+0; without scales the active elements; the element address is used as it stands (R132, log 8, log 59). -/
def Core.stqPuts (c : Core) (f : MemF) (vl : Nat) : List EPut × Nat :=
  let a := (c.areg f.a.toNat).toNat
  let sa := (c.areg f.scaleA).toNat
  if !f.sub.getLsbD 0 && isScaled f.fmt then
    let bs := (List.range (ceilDiv vl 32)).map (fun b =>
      let y := mxConvert (elemOf f.fmt) f.rm f.sat (c.stqBlock f vl b)
      (scalePut (sa + b) y.1 :: y.2.1.zipIdx.map (fun (p : Nat × Nat) =>
        (⟨rowLoc f.fmt a (32 * b + p.2), p.1, rawFinite f.fmt p.1 y.1⟩ : EPut)), y.2.2))
    (bs.flatMap (·.1), bs.foldl (fun x b => x ||| b.2) 0)
  else
    let rs := (c.actives f vl).map (fun i =>
      let e := (elemOf f.fmt).encode (c.sqRound f (c.sqBase f + i)) ((tyElem f.ty.toNat).decode (c.elem f.vr.toNat f.ty.toNat i))
      ((⟨rowLoc f.fmt a i, e.1, rawFinite f.fmt e.1 0⟩ : EPut), e.2))
    (rs.map (·.1), rs.foldl (fun x r => x ||| r.2) 0)

/-- Elements of a write that the spec gives no value for: free ones (log 8). -/
def freePuts (ps : List EPut) (k : Nat) : List EPut := ps.zipIdx.map (fun p => ⟨p.1.loc, k / 2 ^ (64 * p.2) % 2 ^ p.1.loc.w, false⟩)

/-- Writes what a quantising store has formed; for a source type or a format that it is not given for, the written elements are
free values (log 8). -/
def Dev.stqDone (d : Dev) (n : Nat) (f : MemF) (w : List EPut × Nat) : Eff :=
  let ok := quantTy f.ty.toNat && isScaled f.fmt
  let x := if ok then (d, w) else let y := d.draw; (y.2, (freePuts w.1 y.1, 0))
  let y := x.1.putElems n x.2.1
  if y.2 = stOk then ⟨y.1, stOk, x.2.2, true⟩ else Eff.fault y.1 y.2

/-- STQ (R132). -/
def Dev.stq (d : Dev) (n : Nat) (f : MemF) : Eff :=
  let c := d.core n
  let vl := c.vlMem f (tyCount f.ty.toNat)
  if vl = 0 then Eff.none d else d.stqDone n f (c.stqPuts f vl)

/-- STQ (R132). -/
def execStq (core : Fin 96) (s : State) : Host.Outcome State Fault Refusal := s.act (fun d => d.runVxm core .stq (fun e f => e.stq core f))

/-- What an STQS writes: `rows` registers as rows of one tile row, with one scale for each 32 × 32 tile; a column at or above the
length is stored as +0, an inactive element is not stored (R118, R133, R134); the element address is used as it stands (log 59). -/
def Core.stqsPuts (c : Core) (f : MemF) (vl rows : Nat) : List EPut × Nat :=
  let a := (c.areg f.a.toNat).toNat
  let sa := (c.areg f.scaleA).toNat
  let st := (c.sreg (f.sq + 4)).toNat
  let w := (c.sreg (f.sq + 3)).toNat
  let ts := (List.range (ceilDiv vl 32)).map (fun t =>
    let cells := (List.range rows).flatMap (fun r => (List.range 32).map (fun j => (r, 32 * t + j)))
    let y := mxConvert (elemOf f.fmt) f.rm f.sat (cells.map (fun p => c.sqElem f (f.vr.toNat + p.1) vl p.2 (c.sqBase f + p.1 * w + p.2)))
    (scalePut (sa + t) y.1 :: ((cells.zip y.2.1).filter (fun p => decide (vl ≤ p.1.2) || c.onMem f p.1.2)).map (fun (p : (Nat × Nat) × Nat) =>
      (⟨rowLoc f.fmt (a + p.1.1 * st) p.1.2, p.2, rawFinite f.fmt p.2 y.1⟩ : EPut)), y.2.2))
  (ts.flatMap (·.1), ts.foldl (fun x t => x ||| t.2) 0)

/-- STQS; DESIGN CHOICE: ROWS is the sixth scalar of SQ, at most 32, as no rule gives its place (R133, log 59). -/
def Dev.stqs (d : Dev) (n : Nat) (f : MemF) : Eff :=
  let c := d.core n
  let vl := c.vlMem f (tyCount f.ty.toNat)
  let rows := min 32 (c.sreg (f.sq + 5)).toNat
  if vl = 0 ∨ rows = 0 then Eff.none d else d.stqDone n f (c.stqsPuts f vl rows)

/-- STQS (R133). -/
def execStqs (core : Fin 96) (s : State) : Host.Outcome State Fault Refusal := s.act (fun d => d.runVxm core .stqs (fun e f => e.stqs core f))

/-! ### Gathers and scatters (R140 to R146) -/

/-- The place an index names under a policy, or none for zero-fill (R141, R142). -/
def policy (idxp n : Nat) (x : Int) : Option Nat :=
  if n = 0 then none
  else if 0 ≤ x ∧ x < n then some x.toNat
  else match idxp with
    | 1 => some (if x < 0 then 0 else n - 1)
    | 2 => if x < 0 ∧ -(n : Int) ≤ x then some (n + x).toNat else none
    | _ => none

/-- The index of element `i`, from the index registers. -/
def Core.index (c : Core) (f : MemF) (i : Nat) : Int := signed 32 (c.lane (f.idx + i / 512) (i % 512)).toNat

/-- The base of a gather or scatter, its low bits below the element size dropped (R127). -/
def Core.tabBase (c : Core) (f : MemF) : Nat := (c.areg f.a.toNat).toNat / f.size * f.size

/-- The flags of a gather's or scatter's addressing (R127, R141). -/
def Core.tabFlags (c : Core) (f : MemF) (ts : List (Nat × Option Nat)) : Nat :=
  (if (c.areg f.a.toNat).toNat % f.size = 0 then 0 else flagAlign) ||| (if ts.any (fun t => t.2.isNone) then flagIdxOob else 0)

/-- The targets of the active elements: element, and its address or none (R140). -/
def Core.targets (c : Core) (f : MemF) (vl : Nat) : List (Nat × Option Nat) :=
  (c.actives f vl).map (fun i =>
    (i, (policy f.idxp (c.sreg f.bound).toNat (c.index f i)).map (fun x => c.tabBase f + x * f.size)))

/-- The targets that are accessed. -/
def hitsOf (ts : List (Nat × Option Nat)) : List (Nat × Nat) := ts.filterMap (fun t => t.2.map (fun a => (t.1, a)))

/-- GATH (R140 to R143); DESIGN CHOICE: an element narrower or wider than the type is zero-extended or truncated (log 59). -/
def Dev.gath (d : Dev) (n : Nat) (f : MemF) : Eff :=
  let c := d.core n
  let ty := f.ty.toNat
  let vl := c.vlMem f (tyCount ty)
  if vl = 0 then Eff.none d
  else
    let ts := c.targets f vl
    let hs := hitsOf ts
    if allInside (hs.map (fun h => (h.2, f.size))) then
      let x := d.lsLoads n (hs.map (fun h => (h.2, f.size)))
      if x.2.1 = stOk then
        let vals := (hs.zip x.2.2).map (fun p => (p.1.1, leNat p.2 % 2 ^ tyBits ty)) ++
          ts.filterMap (fun t => match t.2 with | none => some (t.1, 0) | some _ => none)
        ⟨x.1.setCore n ((x.1.core n).putLoaded f vl vals), stOk, c.tabFlags f ts, true⟩
      else Eff.fault x.1 x.2.1
    else Eff.fault d stOutOfMap

/-- GATH (R140). -/
def execGath (core : Fin 96) (s : State) : Host.Outcome State Fault Refusal := s.act (fun d => d.runVxm core .gath (fun e f => e.gath core f))

/-- Writes one value to each of several places, and clears their granules' finiteness (R129). -/
def Dev.putPlaces (d : Dev) (n size : Nat) (ps : List (Nat × Nat)) : Dev × St :=
  d.lsStoreRuns n (ps.map (fun p => (p.1, leBytes size p.2))) (fun _ => false)

/-- SCAT: the highest lane that names a place writes it (R144); DESIGN CHOICE: a value wider or narrower than the element is
truncated or zero-extended (log 59). -/
def Dev.scat (d : Dev) (n : Nat) (f : MemF) : Eff :=
  let c := d.core n
  let ty := f.ty.toNat
  let vl := c.vlMem f (tyCount ty)
  if vl = 0 then Eff.none d
  else
    let ts := c.targets f vl
    let hs := hitsOf ts
    if allInside (hs.map (fun h => (h.2, f.size))) then
      let last := hs.foldl (fun (t : Tab (Option Nat)) h => Tab.put t h.2 (some (c.elem f.vr.toNat ty h.1))) []
      let y := d.putPlaces n f.size (last.filterMap (fun x => x.2.map (fun v => (x.1, v))))
      if y.2 = stOk then ⟨y.1, stOk, c.tabFlags f ts, true⟩ else Eff.fault y.1 y.2
    else Eff.fault d stOutOfMap

/-- SCAT (R144). -/
def execScat (core : Fin 96) (s : State) : Host.Outcome State Fault Refusal := s.act (fun d => d.runVxm core .scat (fun e f => e.scat core f))

/-- The addends of each place, in ascending lane order. -/
def groupBy (hs : List (Nat × Nat)) (val : Nat → Nat) : Tab (List Nat) :=
  hs.foldl (fun (t : Tab (List Nat)) h => Tab.put t h.2 (Tab.get t h.2 [] ++ [val h.1])) []

/-- The sum at one place: ascending lane order onto the running value, or in a free order where deterministic mode is off (R145). -/
def scaddSum (ty : Nat) (det : Bool) (k old : Nat) (vs : List Nat) : ElR :=
  let op (a b : ElR) : ElR := let r := (elemOp2 .add ty a.1 b.1).getD (0, 0); (r.1, a.2 ||| b.2 ||| r.2)
  if det then vs.foldl (fun a v => op a (v, 0)) (old, 0)
  else combineFree op (old, 0) ((old, 0) :: vs.map (fun v => (v, 0))) k (vs.length + 1)

/-- SCADD, in FP32, BF16, FP64 and INT32 with elements of the type's width; otherwise the sums are free values (R145, log 8). -/
def Dev.scadd (d : Dev) (n : Nat) (f : MemF) : Eff :=
  let c := d.core n
  let ty := f.ty.toNat
  let vl := c.vlMem f (tyCount ty)
  if vl = 0 then Eff.none d
  else
    let ts := c.targets f vl
    let hs := hitsOf ts
    if allInside (hs.map (fun h => (h.2, f.size))) then
      let gs := groupBy hs (c.elem f.vr.toNat ty)
      let x := d.lsLoads n (gs.map (fun g => (g.1, f.size)))
      if x.2.1 = stOk then
        let z := x.1.draw
        let det := x.1.rd F.DET_MODE == 1
        let ok := [0, 1, 3, 4].contains ty && decide (8 * f.size = tyBits ty)
        let rs := (gs.zip x.2.2).zipIdx.map (fun (p : ((Nat × List Nat) × List Byte) × Nat) =>
          let k := z.1 / 2 ^ (64 * p.2)
          (p.1.1.1, if ok then scaddSum ty det k (leNat p.1.2) p.1.1.2 else (k % 2 ^ (8 * f.size), 0)))
        let e := if ok && det then x.1 else z.2
        let y := e.putPlaces n f.size (rs.map (fun r => (r.1, r.2.1)))
        if y.2 = stOk then ⟨y.1, stOk, rs.foldl (fun b r => b ||| r.2.2) (c.tabFlags f ts), true⟩ else Eff.fault y.1 y.2
      else Eff.fault x.1 x.2.1
    else Eff.fault d stOutOfMap

/-- SCADD (R145). -/
def execScadd (core : Fin 96) (s : State) : Host.Outcome State Fault Refusal := s.act (fun d => d.runVxm core .scadd (fun e f => e.scadd core f))

/-! ### XACC (R148) -/

/-- Combines pair after pair in ascending order, each read after the earlier ones are written. -/
def Dev.xaccGo (d : Dev) (n dst a b : Nat) (k : Nat) (st : St) : Dev × St :=
  match k with
  | 0 => (d, st)
  | j + 1 =>
    let r := (ExAcc.ofBytes (d.peek (lsAddr n + a) 80)).combine (ExAcc.ofBytes (d.peek (lsAddr n + b) 80))
    let y := d.lsStore n dst r.toBytes (fun _ => false)
    y.1.xaccGo n (dst + 80) (a + 80) (b + 80) j (if st = stOk then y.2 else st)

/-- XACC: VR[4:0] names COUNT and the two source offsets (R148, R193); the offsets are used as they stand (log 59). -/
def Dev.xacc (d : Dev) (n : Nat) (f : MemF) : Eff :=
  let c := d.core n
  let k := (c.sreg f.vr.toNat).toNat
  let a := (c.sreg (f.vr.toNat + 1)).toNat
  let b := (c.sreg (f.vr.toNat + 2)).toNat
  let dst := c.memAddr f 64
  if k = 0 then Eff.none d
  else if allInside [(a, 80 * k), (b, 80 * k), (dst, 80 * k)] then
    let x := d.lsLoads n [(a, 80 * k), (b, 80 * k)]
    if x.2.1 = stOk then
      let y := x.1.xaccGo n dst a b k stOk
      if y.2 = stOk then Eff.none y.1 else Eff.fault y.1 y.2
    else Eff.fault x.1 x.2.1
  else Eff.fault d stOutOfMap

/-- XACC (R148). -/
def execXacc (core : Fin 96) (s : State) : Host.Outcome State Fault Refusal := s.act (fun d => d.runVxm core .xacc (fun e f => e.xacc core f))

end Sys2Proof.Machine
end

