-- ==== Sys2Proof/Machine/Special.lean ====
section
/-! DEFINITION. The exact values of the special functions of R153, to far more bits than any format holds, and the results that the
accuracy and order rules R154, R160, R165 and R169 leave possible around them. A fixed-point number is an integer in units of
2^−640. An exact value that no finite binary number equals is held as the 600 bits below it with a last bit 1, which lies on the same
side of every number of a format. -/
namespace Sys2Proof.Machine
open Sys2Proof

/-- Fraction bits of a fixed-point number. -/
def fixW : Nat := 640

/-- 1 in fixed point. -/
def fixOne : Int := 2 ^ fixW

/-- A product in fixed point. -/
def fixMul (a b : Int) : Int := a * b / fixOne

/-- A finite value in fixed point. -/
def fixOf (n : Bool) (m : Nat) (e : Int) : Int :=
  let s := e + (fixW : Int)
  if 0 ≤ s then sgn n (m * 2 ^ s.toNat) else sgn n m / (2 ^ (-s).toNat : Nat)

/-- The sum of t, t/(3·k), t/(5·k²), … with `fuel` terms, of alternating sign where `alt`: the series of atan and atanh. -/
def atanGo (k : Nat) (alt : Bool) (t : Int) (i fuel : Nat) : Int :=
  match fuel with
  | 0 => 0
  | n + 1 =>
    let u := t / (2 * i + 1 : Nat)
    (if alt && i % 2 == 1 then -u else u) + atanGo k alt (t / (k : Int)) (i + 1) n

/-- ln 2 in fixed point: 2·atanh(1/3). -/
def fixLn2 : Int := 2 * atanGo 9 false (fixOne / 3) 0 230

/-- Fraction bits of π for the reduction of an argument of any size. -/
def piW : Nat := fixW + 200

/-- π/2 in units of 2^−piW, by Machin's formula: 8·atan(1/5) − 2·atan(1/239). -/
def halfPi : Int :=
  8 * atanGo 25 true ((2 : Int) ^ piW / 5) 0 190 - 2 * atanGo (239 * 239) true ((2 : Int) ^ piW / 239) 0 60

/-- π in fixed point. -/
def fixPi : Int := 2 * halfPi / 2 ^ (piW - fixW)

/-- The square root of a fixed-point number that is not negative. -/
def fixSqrt (a : Int) : Int := (isqrt (a.toNat * 2 ^ fixW) : Nat)

/-- √(2π) and √π in fixed point. -/
def fixSqrt2Pi : Int := fixSqrt (2 * fixPi)
/-- As `fixSqrt2Pi` says. -/
def fixSqrtPi : Int := fixSqrt fixPi

/-- t + t·r/k + t·r²/(k·(k + d)) + … : a power series whose terms grow by r over a divisor that grows by `d`. -/
def powerGo (r t : Int) (k d fuel : Nat) : Int :=
  match fuel with
  | 0 => t
  | n + 1 => t + powerGo r (fixMul t r / (k : Int)) (k + d) d n

/-- e to a fixed-point number: the significand in fixed point, from 1 up to 2, and the power of two. -/
def expParts (y : Int) : Int × Int :=
  let k := y / fixLn2
  (powerGo (y - k * fixLn2) fixOne 1 1 150, k)

/-- e to a fixed-point number, in fixed point. -/
def fixExp (y : Int) : Int :=
  let x := expParts y
  if 0 ≤ x.2 then x.1 * 2 ^ x.2.toNat else x.1 / 2 ^ (-x.2).toNat

/-- The logarithm of a fixed-point number from 1 to 2: 2·atanh((a − 1)/(a + 1)). -/
def lnGo (z2 t : Int) (i fuel : Nat) : Int :=
  match fuel with
  | 0 => 0
  | n + 1 => t / (2 * i + 1 : Nat) + lnGo z2 (fixMul t z2) (i + 1) n

/-- As `lnGo` says. -/
def fixLn (a : Int) : Int :=
  let z := (a - fixOne) * fixOne / (a + fixOne)
  2 * lnGo (fixMul z z) z 0 230

/-- The logistic function of a fixed-point number. -/
def fixSigmoid (y : Int) : Int :=
  if 400 * fixOne < y then fixOne
  else if y < -400 * fixOne then 0
  else fixOne * fixOne / (fixOne + fixExp (-y))

/-- t − t·r/(k·(k + 1)) + … : the series of sin and cos. -/
def sinGo (r2 t : Int) (k fuel : Nat) : Int :=
  match fuel with
  | 0 => t
  | n + 1 => t - sinGo r2 (fixMul t r2 / (k * (k + 1) : Nat)) (k + 2) n

/-- sin of a finite value plus `q` quarter turns, its argument reduced by exact multiples of π/2 (R154). -/
def fixSin (n : Bool) (m : Nat) (e : Int) (q : Nat) : Int :=
  let s := e + (piW : Int)
  let x : Int := if 0 ≤ s then sgn n (m * 2 ^ s.toNat) else 0
  let k := x / halfPi
  let r := (x - k * halfPi) / 2 ^ (piW - fixW)
  let r2 := fixMul r r
  match ((k + (q : Int)) % 4).toNat with
  | 0 => sinGo r2 r 2 80
  | 1 => sinGo r2 fixOne 1 80
  | 2 => -(sinGo r2 r 2 80)
  | _ => -(sinGo r2 fixOne 1 80)

/-- The normal distribution function of a fixed-point number of magnitude below 16: 1/2 + e^(−x²/2)/√(2π) · (x + x³/3 + x⁵/15 + …). -/
def fixPhi (x : Int) : Int :=
  let q := fixMul x x
  fixOne / 2 + fixMul (fixExp (-q / 2)) (powerGo q x 3 2 800) * fixOne / fixSqrt2Pi

/-- erf of a fixed-point number of magnitude below 11: 2·e^(−x²)/√π · (x + 2x³/3 + 4x⁵/15 + …). -/
def fixErf (x : Int) : Int :=
  let q := fixMul x x
  2 * fixMul (fixExp (-q)) (powerGo (2 * q) x 3 2 800) * fixOne / fixSqrtPi

/-! ### Functions of a finite argument -/

/-- What a function gives before its rounding to the type: a value that is rounded once to nearest even; a value that the result
differs from by less than one unit in the last place; or an encoding in the type that the spec leaves open (R153, R154). -/
inductive FnOut where
  | val (v : FVal) (flags : Nat)
  | near (v : FVal)
  | raw (r : Nat)
  deriving DecidableEq, Repr

/-- A value without a flag. -/
def FnOut.of (v : FVal) : FnOut := .val v 0

/-- An invalid operation: a NaN, and FP_INVALID (R47). -/
def FnOut.invalid : FnOut := .val .nan flagInvalid

/-- A magnitude just below, or just above, a number in units of 2^e, by whether the true value lies below or above it. -/
def nearFix (neg above : Bool) (a e : Int) : FnOut :=
  let m := ((a.natAbs : Int) + (if above then 2 ^ 20 else -2 ^ 20)) / 2 ^ 40
  .near (.fin neg (2 * m.toNat + 1) (e + 39))

/-- As `nearFix`, of a fixed-point number. -/
def nearFixed (neg : Bool) (a : Int) : FnOut := nearFix neg false a (-(fixW : Int))

/-- The exponent of a finite nonzero value: floor of log2 of its magnitude. -/
def expOf (m : Nat) (e : Int) : Int := e + (Nat.log2 m : Int)

/-- Whether a finite nonzero magnitude is a power of two. -/
def isPow2 (m : Nat) : Bool := decide (m = 2 ^ Nat.log2 m)

/-- The integer below or equal to a finite value. -/
def floorOf (n : Bool) (m : Nat) (e : Int) : Int :=
  if 0 ≤ e then sgn n (m * 2 ^ e.toNat) else sgn n m / (2 ^ (-e).toNat : Nat)

/-- Whether a finite value is an integer. -/
def isIntVal (m : Nat) (e : Int) : Bool := decide (0 ≤ e) || decide (m % 2 ^ (-e).toNat = 0)

/-- 1. -/
def fOne (neg : Bool) : FVal := .fin neg 1 0

/-- Past the range of the internal format: an overflow above it, next to nothing below it. -/
def pastRange (n : Bool) : FnOut := if n then .near (.fin false 1 (-40000)) else .val (.inf false) flagOverflow

/-- 2^x of a finite value. -/
def exp2Out (n : Bool) (m : Nat) (e : Int) : FnOut :=
  let k := floorOf n m e
  if (k.natAbs : Int) ≥ 2 ^ 15 then pastRange n
  else if isIntVal m e then .near (.fin false 1 k)
  else nearFix false false (expParts (fixMul (fixOf n m e - k * fixOne) fixLn2)).1 (k - (fixW : Int))

/-- e^x of a finite value. -/
def expOut (n : Bool) (m : Nat) (e : Int) : FnOut :=
  if m = 0 then .near (fOne false)
  else if ((floorOf n m e).natAbs : Int) ≥ 2 ^ 15 then pastRange n
  else let x := expParts (fixOf n m e); nearFix false false x.1 (x.2 - (fixW : Int))

/-- log2 x, or ln x where `nat`, of a positive finite value. -/
def logOut (nat : Bool) (m : Nat) (e : Int) : FnOut :=
  let k := expOf m e
  let l := fixLn (fixOf false m (-(Nat.log2 m : Int)))
  if isPow2 m ∧ (!nat ∨ k = 0) then (if k = 0 then .of .zero else .near (FVal.ofInt k))
  else
    let a := if nat then k * fixLn2 + l else k * fixOne + l * fixOne / fixLn2
    nearFixed (decide (a < 0)) a

/-- sin of a finite value; with `q` = 1 its cos. -/
def sinOut (n : Bool) (m : Nat) (e : Int) (q : Nat) : FnOut :=
  let a := fixSin n m e q
  nearFixed (decide (a < 0)) a

/-- Whether a finite value's magnitude is at least an integer. -/
def atLeast (m : Nat) (e : Int) (k : Nat) : Bool := decide ((k : Int) ≤ floorOf false m e)

/-- tanh x = 1 − 2/(e^(2|x|) + 1), with x's sign. -/
def tanhOut (n : Bool) (m : Nat) (e : Int) : FnOut :=
  if atLeast m e 400 then nearFixed n fixOne
  else nearFixed n (fixOne - 2 * fixOne * fixOne / (fixExp (2 * fixOf false m e) + fixOne))

/-- 1/(1 + e^−x). -/
def sigmoidOut (n : Bool) (m : Nat) (e : Int) : FnOut :=
  if m = 0 then .near (.fin false 1 (-1)) else nearFixed false (fixSigmoid (fixOf n m e))

/-- x · sigmoid(x). -/
def siluOut (n : Bool) (m : Nat) (e : Int) : FnOut := let x := fixOf n m e; nearFixed n (fixMul x (fixSigmoid x))

/-- x · (1 + erf(x/√2))/2. -/
def geluErfOut (n : Bool) (m : Nat) (e : Int) : FnOut :=
  let x := fixOf n m e
  if atLeast m e 16 then nearFixed n (if n then 0 else x) else nearFixed n (fixMul x (fixPhi x))

/-- x · (1 + tanh(0.797884561 · (x + 0.044715 x³)))/2, which is x · sigmoid of twice the product. -/
def geluTanhOut (n : Bool) (m : Nat) (e : Int) : FnOut :=
  let x := fixOf n m e
  if atLeast m e 64 then nearFixed n (if n then 0 else x)
  else nearFixed n (fixMul x (fixSigmoid (2 * 797884561 * (x * 10 ^ 6 + 44715 * fixMul x (fixMul x x)) / 10 ^ 15)))

/-- erf x. -/
def erfOut (n : Bool) (m : Nat) (e : Int) : FnOut :=
  if atLeast m e 11 then nearFixed n fixOne else nearFixed n (fixErf (fixOf false m e))

/-- ln(1 + e^x), which lies above x where x is positive. -/
def softplusOut (n : Bool) (m : Nat) (e : Int) : FnOut :=
  let x := fixOf n m e
  let tail := if atLeast m e 700 then 0 else fixLn (fixOne + fixExp (-(x.natAbs : Int)))
  nearFix false true (if n then tail else x + tail) (-(fixW : Int))

/-- A built-in function of an argument that is no NaN: the special cases of R153, the correctly rounded RCP and SQRT, and the exact
value elsewhere (R154). Codes 0x10 and above are not built-in functions. -/
def builtinOut (fn : Nat) (x : FVal) : FnOut :=
  let zero (n : Bool) : FnOut := .of (.fin n 0 0)
  let one (n : Bool) : FnOut := .of (fOne n)
  let inf (n : Bool) : FnOut := .of (.inf n)
  let bad : FnOut := FnOut.invalid
  match fn, x with
  | _, .nan => bad
  | 0x00, .inf n => if n then zero false else inf false
  | 0x00, .fin n m e => exp2Out n m e
  | 0x01, .inf n => if n then zero false else inf false
  | 0x01, .fin n m e => expOut n m e
  | 0x02, .inf n => if n then bad else inf false
  | 0x02, .fin n m e => if m = 0 then inf true else if n then bad else logOut false m e
  | 0x03, .inf n => if n then bad else inf false
  | 0x03, .fin n m e => if m = 0 then inf true else if n then bad else logOut true m e
  | 0x04, v => .of ((fOne false).div v)
  | 0x05, .inf n => if n then bad else zero false
  | 0x05, .fin n m e => if m = 0 then inf n else if n then bad else .near ((fOne false).div (.fin false m e)).sqrt
  | 0x06, .inf n => if n then bad else inf false
  | 0x06, .fin n m e => if n ∧ m ≠ 0 then bad else .of (FVal.sqrt (.fin n m e))
  | 0x07, .inf _ => bad
  | 0x07, .fin n m e => if m = 0 then zero n else sinOut n m e 0
  | 0x08, .inf _ => bad
  | 0x08, .fin n m e => if m = 0 then one false else sinOut n m e 1
  | 0x09, .inf n => one n
  | 0x09, .fin n m e => if m = 0 then zero n else tanhOut n m e
  | 0x0A, .inf n => if n then zero false else one false
  | 0x0A, .fin n m e => sigmoidOut n m e
  | 0x0B, .inf n => if n then zero true else inf false
  | 0x0B, .fin n m e => if m = 0 then zero n else siluOut n m e
  | 0x0C, .inf n => if n then zero true else inf false
  | 0x0C, .fin n m e => if m = 0 then zero n else geluErfOut n m e
  | 0x0D, .inf n => if n then zero true else inf false
  | 0x0D, .fin n m e => if m = 0 then zero n else geluTanhOut n m e
  | 0x0E, .inf n => one n
  | 0x0E, .fin n m e => if m = 0 then zero n else erfOut n m e
  | 0x0F, .inf n => if n then zero false else inf false
  | 0x0F, .fin n m e => softplusOut n m e
  | _, _ => bad

/-! ### The results that the accuracy leaves possible -/

/-- The magnitudes of a format that differ from |v| by less than one unit in the last place of |v|, rising; a magnitude past the
largest finite one is an infinity. Where `sharp`, a number that the format holds is itself alone, and the smaller neighbour of a
power of two, which lies half a unit below it, is not one (R154, R160). -/
def candMags (f : Fmt) (sharp : Bool) (m : Nat) (e : Int) : List Nat :=
  let top := (2 ^ f.eb - 1) * 2 ^ f.mb
  let lo := min top (f.roundMag ⟨1, false, 0⟩ false m e)
  let hi := min top (f.roundMag ⟨3, false, 0⟩ false m e)
  let fine := { f with mb := f.mb + 1 }.roundMag ⟨1, false, 0⟩ false m e
  let under := !sharp && decide (lo < top) && decide (lo % 2 ^ f.mb = 0) && decide (2 ≤ lo / 2 ^ f.mb) && decide (fine = 2 * lo)
  (if under then [lo - 1] else []) ++ [lo] ++ (if lo < hi then [hi] else [])

/-- The results of a type, rising in value, that differ from `v` by less than one unit in the last place. -/
def candsOf (ty : Nat) (sharp : Bool) (v : FVal) : List Nat :=
  let f := tyFmt ty
  match v with
  | .fin n m e => let ms := candMags f sharp m e; if n then ms.reverse.map (fun g => f.sign true + g) else ms
  | w => [(f.encode rne w).1]

/-- Whether a function is among those that give an exact result wherever there is one, so that in their order no result passes one:
EXP2 and RSQRT, whose exact results are all the powers of two, and LOG2 from 1 up (R154, R160). -/
def sharpFn (fn : Nat) (v : FVal) : Bool :=
  match fn, v with
  | 0x00, _ => true
  | 0x02, .fin _ m e => decide (0 ≤ expOf m e)
  | 0x05, _ => true
  | _, _ => false

/-- The place of an encoding in the order of the type's values. -/
def orderKey (ty raw : Nat) : Int :=
  let s := tyBits ty - 1
  if bit raw s then -((raw % 2 ^ s : Nat) : Int) else (raw : Int)

/-- Whether R153 marks a function as monotone: 1 nondecreasing, −1 nonincreasing, 0 neither. -/
def monotoneOf (fn : Nat) : Int :=
  match fn with
  | 0x00 => 1
  | 0x01 => 1
  | 0x02 => 1
  | 0x03 => 1
  | 0x05 => -1
  | 0x09 => 1
  | 0x0A => 1
  | 0x0E => 1
  | 0x0F => 1
  | _ => 0

/-- The flags of an encoding that is a result: an infinity has overflowed, a NaN was invalid (R47, R153). -/
def resFlags (ty raw : Nat) : Nat := match fVal ty raw with | .inf _ => flagOverflow | .nan => flagInvalid | _ => 0

/-- The result of a built-in image where accuracy alone is given: one of the possible ones. A monotone function reaches each number
of the type at an argument that the set version fixes, and passes it no more; any other takes one that the version fixes (R154, R160,
log 10). -/
def nearResult (ver fn ty raw : Nat) (v : FVal) : ElR :=
  let cs := candsOf ty (sharpFn fn v) v
  let k := monotoneOf fn
  let r := if k = 0 then cs.getD (Config.sfuFn ver fn ty raw % cs.length) 0
    else cs.tail.foldl (fun r g => if Config.sfuCut ver fn ty g ≤ k * orderKey ty raw then g else r) (cs.headD 0)
  (r, resFlags ty r)

/-- An open encoding as a result: a NaN among them is the canonical one (R46). -/
def openResult (ty raw : Nat) : ElR :=
  let r := raw % 2 ^ tyBits ty
  (if fVal ty r = .nan then (tyFmt ty).nanBits else r, resFlags ty r)

/-- The one rounding of a function's value to a TYPE, with all its flags (R153, R159). -/
def FnOut.finish (o : FnOut) (ver fn ty raw : Nat) : ElR :=
  match o with
  | .val .nan fl => ((tyFmt ty).nanBits, fl)
  | .val v fl => let r := fOp ty v; (r.1, r.2 ||| fl)
  | .near v => nearResult ver fn ty raw v
  | .raw r => openResult ty r

/-- The FP32 encodings within two units in the last place of a finite nonzero value, with its sign (R169). -/
def candsTwo (v : FVal) : List Nat :=
  match v with
  | .fin n m e =>
    let lo := fFP32.roundMag ⟨1, false, 0⟩ false m e
    let unit : FVal := .fin false 2 (max (expOf m e - 23) fFP32.qmin)
    ((List.range 6).map (fun i => lo + i - 2)).filter (fun g => decide (g ≤ fFP32.maxMag + 1) && decide (lo ≤ g + 2) &&
      (match (((fFP32.decode g).add (.fin true m e)).abs).cmp unit with
        | some k => decide (k ≤ 0)
        | none => false) || decide (g = min lo (fFP32.maxMag + 1))) |>.map (fun g => fFP32.sign n + g)
  | w => [(fFP32.encode rne w).1]

end Sys2Proof.Machine
end

