-- ==== Sys2Proof/Machine/Sfu.lean ====
section
/-! DEFINITION. The special-function unit (R150 to R169): function codes, table images, the gate × activation pass,
micro-programs, staging and swapping, and Pewter mode. -/
namespace Sys2Proof.Machine
open Sys2Proof

/-! ### Function codes (R153) -/

/-- The slot that a function code evaluates (R153); none for codes without a table. -/
def fnSlot (fn : Nat) : Option Nat :=
  if 0x10 ≤ fn ∧ fn < 0x20 then some (fn - 0x10)
  else match fn with
    | 0x00 => some 0
    | 0x01 => some 0
    | 0x02 => some 1
    | 0x03 => some 1
    | 0x04 => some 2
    | 0x05 => some 3
    | 0x06 => some 4
    | 0x07 => some 5
    | 0x08 => some 6
    | 0x09 => some 7
    | 0x0A => some 8
    | 0x0B => some 8
    | 0x0C => some 9
    | 0x0D => some 10
    | 0x0E => some 9
    | 0x0F => some 11
    | _ => none

/-! ### User table images (R156 to R161) -/

/-- The SFU's internal format: a sign, a 15-bit exponent and a 64-bit significand (R159). -/
def fSfu : Fmt := ⟨15, 63, 16383, .ieee⟩

/-- A value with the flags of the operations that have formed it. -/
abbrev Flagged := FVal × Nat

/-- One operation in the internal format: rounded once to nearest even, with the flags so far (R47, R159). -/
def inSfu (v : FVal) (fl : Nat) : Flagged := let r := v.roundTo fSfu rne; (r.1, r.2 ||| fl)

/-- How many binades the segments cover (R158). -/
def tableBinades (reduce : Nat) : Nat := if reduce = 3 then 8 else 16

/-- The segment of a reduced argument within its group, its start, and whether it lies at or above the top (R158). -/
def segOf (ebase : Int) (u : Nat) (r : FVal) : Nat × FVal × Bool :=
  let top := 16 * u - 1
  let start (e : Int) (q : Nat) : FVal := .fin false (16 + q) (e - 4)
  match r with
  | .fin _ m e =>
    if m = 0 then (0, .zero, false)
    else
      let k := expOf m e
      if k < ebase ∨ k < -126 then (0, .zero, false)
      else if k < ebase + u then
        let q := if e ≤ k - 4 then m / 2 ^ (k - 4 - e).toNat - 16 else m * 2 ^ (e - (k - 4)).toNat - 16
        let s := 16 * (k - ebase).toNat + q
        (s, if s = 0 then .zero else start k q, false)
      else (top, start (ebase + u - 1) 15, true)
  | _ => (top, start (ebase + u - 1) 15, true)

/-- The segment polynomial at t, each operation rounded once in the internal format (R159). -/
def segPoly (img : List Byte) (s : Nat) (t : Flagged) : Flagged :=
  let o := 0x40 + 32 * s
  let c0 := fFP64.decode (field img o 8)
  let c1 := fFP64.decode (field img (o + 8) 8)
  let c2 := fFP32.decode (field img (o + 16) 4)
  let c3 := fFP32.decode (field img (o + 20) 4)
  let step (c : FVal) (acc : Flagged) : Flagged := let m := inSfu (t.1.mul acc.1) acc.2; inSfu (c.add m.1) m.2
  step c0 (step c1 (step c2 (c3, t.2)))

/-- p(r), or the fixed value at and above the top, before the mode's sign or scale step (R158). -/
def tableP (img : List Byte) (reduce : Nat) (neg : Bool) (r : FVal) : Flagged :=
  let g := reduce = 3 ∧ neg
  let x := segOf (signed 8 (field img 2 1)) (tableBinades reduce) r
  if x.2.2 ∧ bit (field img 3 1) 2 then (fFP32.decode (field img (if g then 8 else 4) 4), 0)
  else segPoly img ((if g then 128 else 0) + x.1) (inSfu (r.add x.2.1.neg) 0)

/-- The value of a user image with the flags of its operations; a NaN from an argument that is none is invalid (R47). -/
def FnOut.ofVal (v : Flagged) : FnOut := if v.1 = .nan then .val .nan (flagInvalid ||| v.2) else .val v.1 v.2

/-- A user image applied to an argument of a TYPE (R157); an overflow of any operation sets FP_OVERFLOW (R47, R153). -/
def tableApply (img : List Byte) (ty raw : Nat) : FnOut :=
  let x := fVal ty raw
  let reduce := field img 1 1 % 16
  match x with
  | .nan => FnOut.invalid
  | _ =>
    match reduce with
    | 0 => let p := tableP img 0 x.isNeg x.abs; FnOut.ofVal (if x.isNeg then (p.1.neg, p.2) else p)
    | 1 => FnOut.ofVal (tableP img 1 x.isNeg x.abs)
    | 3 => FnOut.ofVal (tableP img 3 x.isNeg x.abs)
    | 4 => match x with
      | .fin n m e =>
        let k := floorOf n m e
        let r := (x.add (FVal.ofInt (-k))).add (fOne false)
        let p := tableP img 4 false r
        FnOut.ofVal (inSfu (p.1.scale (max (-40000) (min 40000 k))) p.2)
      | _ => .raw (Config.tableInf img ty raw)
    | 5 => match x with
      | .fin n m e =>
        if m = 0 then .of (.inf true)
        else if n then FnOut.invalid
        else
          let k := expOf m e
          let p := tableP img 5 false (.fin false m (e - k))
          FnOut.ofVal (inSfu ((FVal.ofInt k).add p.1) p.2)
      | _ => if x.isNeg then FnOut.invalid else .of (.inf false)
    | _ => match x with
      | .fin n m _ => if n ∧ m ≠ 0 then FnOut.invalid else FnOut.ofVal (tableP img 2 false x)
      | _ => if x.isNeg then FnOut.invalid else FnOut.ofVal (tableP img 2 false x)

/-! ### Evaluating a function code -/

/-- The live bank of table slot `t` (R155). -/
def Core.live (c : Core) (t : Nat) : Bank := Tab.get c.tsLive (t % 16) (Bank.live0 (t % 16))

/-- The live bank of micro-program slot `t` (R155). -/
def Core.liveMp (c : Core) (t : Nat) : Bank := Tab.get c.mpLive (t % 8) Bank.none

/-- The set version of a built-in image; a bank from power-up on holds the set that the boot loaded (R155, R491). -/
def Bank.builtinVer (b : Bank) (boot : Nat) : Nat := if b.image.isEmpty then boot else leNat b.image

/-- What SFTB copies for table slot `t` from the built-in set of a version (R162). -/
def builtinBank (t ver : Nat) : Bank := if t < 12 then ⟨.builtin, leBytes 4 ver⟩ else Bank.none

/-- A slot's table applied under function code `fn` to an argument that is no NaN; a SLOT code on a built-in image is open (R153, R164,
log 10). -/
def Core.evalSlot (c : Core) (ver t fn ty raw : Nat) : FnOut :=
  let b := c.live t
  match b.origin with
  | .empty => .val .nan flagNoTable
  | .user => tableApply b.image ty raw
  | .builtin => if fn < 0x10 then builtinOut fn (fVal ty raw) else .raw (Config.sfuFn (b.builtinVer ver) fn ty raw)

/-- The codes without a table (R153). -/
def evalPlain (fn : Nat) (x : FVal) : FnOut :=
  let r := if x.isNeg then FVal.zero else x
  match fn with
  | 0x20 => .of r
  | 0x21 => .of x
  | 0x22 => .of (r.mul r)
  | _ => FnOut.invalid

/-- The set version behind a function code's slot. -/
def Core.fnVer (c : Core) (ver fn : Nat) : Nat :=
  match fnSlot fn with
  | some t => (c.live t).builtinVer ver
  | none => ver

/-- A function code of the fixed G2 set: special cases as in native mode; elsewhere an FP32 number that the set fixes within two units
in the last place of the exact value, rounded to the type. The flags are those of native mode (R169, log 11). -/
def evalPewter (ver fn ty raw : Nat) : ElR :=
  let o := builtinOut fn (fVal ty raw)
  let native := o.finish ver fn ty raw
  let two (v : FVal) : ElR :=
    let cs := candsTwo v
    ((fOp ty (fVal 0 (cs.getD (Config.pewter fn ty raw % cs.length) 0))).1, native.2)
  match o with
  | .near v => two v
  | .val (.fin n m e) _ => if m = 0 then native else two (.fin n m e)
  | _ => native

/-- A function code applied to an argument of a TYPE in native mode, before its rounding (R153, R154). -/
def Core.evalFn (c : Core) (ver fn ty raw : Nat) : FnOut :=
  if fVal ty raw = .nan then
    (match fnSlot fn with
      | some t => if (c.live t).origin = .empty then .val .nan (flagNoTable ||| flagInvalid) else FnOut.invalid
      | none => FnOut.invalid)
  else match fnSlot fn with
    | some t => c.evalSlot ver t fn ty raw
    | none => evalPlain fn (fVal ty raw)

/-- The result of a function code in the evaluation mode in force (R153, R169). -/
def Core.fnResult (c : Core) (ver fn ty raw : Nat) : ElR :=
  if c.pewter ∧ fn < 0x10 then evalPewter (c.fnVer ver fn) fn ty raw
  else (c.evalFn ver fn ty raw).finish (c.fnVer ver fn) fn ty raw

/-! ### SFN and GACT -/

/-- Runs the head of the SFU's queue where `pick` takes its operation. -/
def Dev.runSfu (d : Dev) (n : Nat) (o : SfuOp) (g : Dev → QEntry → VecF → Eff) : Dev :=
  d.runHead n .sfu (fun i => match i with
    | .sfu p f => if p = o then some (fun d e => g d e f) else none
    | _ => none)

/-- An elementwise SFU instruction in FP32, BF16 or FP16; the SFU takes no other TYPE, whose results are free (log 8). -/
def Dev.sfuMap (d : Dev) (n : Nat) (f : VecF) (g : Core → Nat → Nat → ElR) : Eff :=
  let c := d.core n
  let ty := f.ty.toNat
  let vl := c.vlOf f (tyCount ty)
  if ty < 3 then d.vecDone n f ty ((List.range vl).map (fun i => if c.on f i then g c ty i else (0, 0)))
  else d.vecFree n f ty vl

/-- SFN (R153, R164). -/
def execSfn (core : Fin 96) (s : State) : Host.Outcome State Fault Refusal :=
  s.act (fun d => d.runSfu core .sfn (fun e _ f =>
    e.sfuMap core f (fun c ty i => c.fnResult e.svc.bootSet f.vc.toNat ty (c.elem f.va.toNat ty i))))

/-- act(g) × u in native mode: a product of an activation that the internal format holds exactly, as it holds every code without a table
and every user image's value, is rounded once; any other result is one that the accuracy leaves possible around the exact product
(R165, log 10). -/
def gactNative (ver fn ty g u : Nat) (o : FnOut) : ElR :=
  let uv := fVal ty u
  let bad (fl : Nat) : ElR := ((tyFmt ty).nanBits, fl ||| flagInvalid)
  let once (v : FVal) (fl : Nat) : ElR := let r := fOp ty (v.mul uv); (r.1, r.2 ||| fl)
  let near (v : FVal) (fl : Nat) : ElR :=
    if (inSfu v 0).1.cmp v = some 0 then once v fl
    else match v.mul uv with
      | .fin n m e =>
        if m = 0 then once v fl
        else
          let cs := candsOf ty false (.fin n m e)
          let r := cs.getD (Config.gact ver fn ty g u % cs.length) 0
          (r, resFlags ty r ||| fl)
      | _ => once v fl
  match o with
  | .val .nan fl => ((tyFmt ty).nanBits, fl ||| (if uv = .nan then flagInvalid else 0))
  | .val a fl => if uv = .nan then bad fl else if 0x20 ≤ fn then once a fl else near a fl
  | .near a => if uv = .nan then bad 0 else near a 0
  | .raw _ => if uv = .nan then bad 0 else openResult ty (Config.gact ver fn ty g u)

/-- act(g) × u of the G2 composition: the activation in FP32, an FP32 product, a rounding to the type, with the flags of native mode
(R169). -/
def gactPewter (ver fn ty g u : Nat) : ElR :=
  let g32 := (fFP32.encode rne (fVal ty g)).1
  let a := evalPewter ver fn 0 g32
  let p := fOp 0 ((fVal 0 a.1).mul (fVal ty u))
  ((fOp ty (fVal 0 p.1)).1, (gactNative ver fn ty g u (builtinOut fn (fVal ty g))).2)

/-- One element of GACT (R165, R169). -/
def Core.gactElem (c : Core) (ver fn ty g u : Nat) : ElR :=
  let v := c.fnVer ver fn
  if c.pewter ∧ fn < 0x10 then gactPewter v fn ty g u else gactNative v fn ty g u (c.evalFn ver fn ty g)

/-- GACT (R165): VA is g, VB is u, VC is ACT. -/
def execGact (core : Fin 96) (s : State) : Host.Outcome State Fault Refusal :=
  s.act (fun d => d.runSfu core .gact (fun e _ f =>
    e.sfuMap core f (fun c ty i =>
      c.gactElem e.svc.bootSet f.vc.toNat ty (c.elem f.va.toNat ty i) (c.src2 f ty i))))

/-! ### Micro-programs (R166, R167) -/

/-- The temporaries and OUT of a micro-program, as FP32, with the flags so far. -/
structure MpState where
  t     : Tab Nat
  out   : Nat
  flags : Nat
  deriving DecidableEq, Repr

/-- A source of a step (R166). -/
def mpSrc (img : List Byte) (x y : Nat) (st : MpState) (code : Nat) : Nat :=
  if code < 8 then Tab.get st.t code 0
  else if code = 8 then x
  else if code = 9 then y
  else if code = 10 then st.out
  else if code < 16 then 0
  else field img (0x80 + 4 * (code - 16)) 4

/-- A value rounded to an integral one, ties to even, its sign kept (R166 RND). -/
def roundIntegral (v : FVal) : FVal := match v with | .fin n m e => .fin n (roundAt rne n m e 0) 0 | w => w

/-- LDX: A × 2^n (R166); by an infinite power the spec states no result (log 10). -/
def ldx (a b : Nat) : FnOut :=
  match f32 (BitVec.ofNat 32 a), f32 (BitVec.ofNat 32 b) with
  | .nan, _ => FnOut.invalid
  | _, .nan => FnOut.invalid
  | _, .inf _ => .raw (Config.ldxInf a b)
  | v, .fin n m e => .of (v.scale (max (-5000) (min 5000 (roundInt rne n m e))))

/-- The result of one step in FP32 (R166, R167). -/
def Core.mpStep (c : Core) (ver op a b k imm : Nat) : ElR :=
  let fv (r : Nat) : FVal := fFP32.decode r
  match op with
  | 0x01 => fOp 0 ((fv a).add (fv b))
  | 0x02 => fOp 0 ((fv a).add (fv b).neg)
  | 0x03 => fOp 0 ((fv a).mul (fv b))
  | 0x04 => fOp 0 (((fv a).mul (fv b)).add (fv k))
  | 0x05 => fOp 0 ((fv a).pick (fv b) false)
  | 0x06 => fOp 0 ((fv a).pick (fv b) true)
  | 0x07 => fOp 0 (fv a).abs
  | 0x08 => fOp 0 (fv a).neg
  | 0x09 => fOp 0 (match (fv a).cmp .zero with
    | some q => if 0 ≤ q then fv b else fv k
    | none => fv k)
  | 0x0A => c.fnResult ver (imm % 64) 0 a
  | 0x0B => c.fnResult ver (0x10 + imm % 16) 0 a
  | 0x0C => fOp 0 (roundIntegral (fv a))
  | _ => (ldx a b).finish 0 0 0 a

/-- The steps of an image before its first END (R166, R167). -/
def mpSteps (img : List Byte) : List Nat :=
  ((List.range 32).map (fun j => field img (4 * j) 4)).takeWhile (fun w => decide (1 ≤ bits w 26 6 ∧ bits w 26 6 ≤ 0x0D))

/-- Runs a micro-program's steps on one element. -/
def Core.mpRun (c : Core) (ver : Nat) (img : List Byte) (x y : Nat) (ws : List Nat) : MpState :=
  ws.foldl (fun st w =>
    let src (lo : Nat) : Nat := mpSrc img x y st (bits w lo 5)
    let r := c.mpStep ver (bits w 26 6) (src 17) (src 12) (src 7) (bits w 0 7)
    let dst := bits w 22 4
    let st := { st with flags := st.flags ||| r.2 }
    if dst < 8 then { st with t := Tab.set st.t dst r.1 0 } else if dst = 8 then { st with out := r.1 } else st) ⟨[], 0, 0⟩

/-- An argument as FP32, which holds every BF16 and FP16. -/
def toFp32 (ty raw : Nat) : Nat := if ty = 0 then raw else (fFP32.encode rne (fVal ty raw)).1

/-- SFMP (R164, R166, R167): VA is x, VB is y unless SUB[0] is 1, VC[2:0] the slot. -/
def Dev.sfmp (d : Dev) (n : Nat) (f : VecF) : Eff :=
  let ver := d.svc.bootSet
  let b := (d.core n).liveMp f.vc.toNat
  if b.origin = .empty then d.sfuMap n f (fun _ ty _ => ((tyFmt ty).nanBits, flagNoTable))
  else
    let ws := mpSteps b.image
    if ws.isEmpty then Eff.none d
    else d.sfuMap n f (fun c ty i =>
      let y := if f.sub.getLsbD 0 then 0 else toFp32 ty (c.src2 f ty i)
      let st := c.mpRun ver b.image (toFp32 ty (c.elem f.va.toNat ty i)) y ws
      let r := fOp ty (fFP32.decode st.out)
      (r.1, r.2 ||| st.flags))

/-- SFMP (R167). -/
def execSfmp (core : Fin 96) (s : State) : Host.Outcome State Fault Refusal :=
  s.act (fun d => d.runSfu core .sfmp (fun e _ f => e.sfmp core f))

/-! ### Staging and swapping (R162 to R164, R168) -/

/-- Runs the head of the memory pipe where it is operation `o`, with its queue entry. -/
def Dev.runVxmE (d : Dev) (n : Nat) (o : VxmOp) (g : Dev → QEntry → MemF → Eff) : Dev :=
  d.runHead n .vxm (fun i => match i with
    | .vxm p f => if p = o then some (fun d e => g d e f) else none
    | _ => none)

/-- Loads an image of `len` bytes and starts its staging to slot `slot`; low address bits are dropped (R152, R162). -/
def Dev.stage (d : Dev) (n : Nat) (e : QEntry) (f : MemF) (len slot : Nat) (bank : List Byte → Bank) : Eff :=
  let a := (d.core n).memAddr f 64
  let x := d.lsLoad n (a / 64 * 64) len
  if x.2.1 = stOk then
    let c := x.1.core n
    ⟨x.1.setCore n { c with staging := c.staging ++ [⟨e.seq, slot, bank x.2.2⟩] }, stOk, if a % 64 = 0 then 0 else flagAlign, false⟩
  else Eff.fault x.1 x.2.1

/-- SFTL: VR[3:0] is the slot; an image whose FORMAT is not 0x01 is empty (R161, R162). -/
def execSftl (core : Fin 96) (s : State) : Host.Outcome State Fault Refusal :=
  s.act (fun d => d.runVxmE core .sftl (fun d e f =>
    d.stage core e f 8256 (f.vr.toNat % 16) (fun b => if field b 0 1 = 1 then ⟨.user, b⟩ else Bank.none)))

/-- SFML: VR[2:0] is the slot (R162). -/
def execSfml (core : Fin 96) (s : State) : Host.Outcome State Fault Refusal :=
  s.act (fun d => d.runVxmE core .sfml (fun d e f => d.stage core e f 192 (16 + f.vr.toNat % 8) (fun b => ⟨.user, b⟩)))

/-- The numbers below `n` whose bit is set, rising. -/
def bitsSet (m n : Nat) : List Nat := (List.range n).filter (fun i => m.testBit i)

/-- SFTB: the built-in images are staged to the named slots in ascending order (R162). -/
def execSftb (core : Fin 96) (s : State) : Host.Outcome State Fault Refusal :=
  s.act (fun d => d.runSfu core .sftb (fun d e f =>
    let c := d.core core
    let ts := (bitsSet (c.sreg f.va.toNat).toNat 16).map (fun t => (⟨e.seq, t, builtinBank t (d.rd F.SFU_SET_VER)⟩ : Staging))
    (⟨d.setCore core { c with staging := c.staging ++ ts }, stOk, 0, ts.isEmpty⟩ : Eff)))

/-- Writes a staged bank; slots 16 to 23 are MP0 to MP7. -/
def Core.setStaged (c : Core) (slot : Nat) (b : Bank) : Core :=
  if slot < 16 then { c with tsStaged := Tab.set c.tsStaged slot b Bank.none }
  else { c with mpStaged := Tab.set c.mpStaged (slot - 16) b Bank.none }

/-- Writes a live bank. -/
def Core.setLive (c : Core) (slot : Nat) (b : Bank) : Core :=
  if slot < 16 then { c with tsLive := Tab.set c.tsLive slot b (Bank.live0 slot) }
  else { c with mpLive := Tab.set c.mpLive (slot - 16) b Bank.none }

/-- A staged bank. -/
def Core.stagedOf (c : Core) (slot : Nat) : Bank :=
  if slot < 16 then Tab.get c.tsStaged slot Bank.none else Tab.get c.mpStaged (slot - 16) Bank.none

/-- A live bank. -/
def Core.liveOf (c : Core) (slot : Nat) : Bank := if slot < 16 then c.live slot else c.liveMp (slot - 16)

/-- Marks the entry of a place in program order as having had its whole effect. -/
def Core.setRan (c : Core) (seq : Nat) : Core :=
  { c with queue := c.queue.map (fun y => if y.seq = seq then { y with ran := true } else y) }

/-- Whether a staging instruction that is still to have its effect stages to a slot of a list; an SFTB whose mask an earlier instruction
may still write counts for every table slot (R162). -/
def Core.stagesTo (c : Core) (y : QEntry) (ts : List Nat) : Bool :=
  !y.ran && match y.instr with
    | .vxm .sftl f => ts.contains (f.vr.toNat % 16)
    | .vxm .sfml f => ts.contains (16 + f.vr.toNat % 8)
    | .sfu .sftb f =>
      if !y.started && c.feet.any (fun z => decide (z.entry.seq < y.seq) && !z.entry.ran && z.writes.contains (sId f.va.toNat)) then
        ts.any (fun i => decide (i < 16))
      else ts.any (fun i => decide (i < 16) && (c.sreg f.va.toNat).toNat.testBit i)
    | _ => false

/-- Whether a staging may land: every earlier staging of its slot, started or not, has landed, and of its own instruction every lower slot
(R162). -/
def Core.mayLand (c : Core) (g : Staging) : Bool :=
  c.staging.all (fun h => !((decide (h.seq < g.seq) && h.slot == g.slot) || (h.seq == g.seq && decide (h.slot < g.slot)))) &&
    c.queue.all (fun y => !(decide (y.seq < g.seq) && !y.started && c.stagesTo y [g.slot]))

/-- STAGED_BANK_WRITTEN (R162): the first staging that may land lands; a later one to the same bank lands after the earlier. -/
def execStagedBankWritten (core : Fin 96) (s : State) : Host.Outcome State Fault Refusal :=
  s.act (fun d =>
    let c := d.core core
    match c.staging.findIdx? c.mayLand with
    | none => d
    | some i => match c.staging[i]? with
      | none => d
      | some g =>
        let rest := c.staging.eraseIdx i
        let c := { c.setStaged g.slot g.bank with staging := rest }
        d.setCore core (if rest.any (fun h => h.seq = g.seq) then c else c.setRan g.seq))

/-- SFTS: the swap is asked for (R163). -/
def execSfts (core : Fin 96) (s : State) : Host.Outcome State Fault Refusal :=
  s.act (fun d => d.runSfu core .sfts (fun d _ _ => (⟨d, stOk, 0, false⟩ : Eff)))

/-- SFMODE: the change is asked for (R168). -/
def execSfmode (core : Fin 96) (s : State) : Host.Outcome State Fault Refusal :=
  s.act (fun d => d.runSfu core .sfmode (fun d _ _ => (⟨d, stOk, 0, false⟩ : Eff)))

/-- Exchanges the banks of one slot, or leaves an empty staged one (R163, R164). -/
def Core.swapSlot (c : Core) (slot : Nat) : Core :=
  let g := c.stagedOf slot
  if g.origin = .empty then c else (c.setStaged slot (c.liveOf slot)).setLive slot g

/-- SFU_SWAP (R163, R164): waits until every earlier staging to a named slot has landed. -/
def execSfuSwap (core : Fin 96) (s : State) : Host.Outcome State Fault Refusal :=
  s.act (fun d =>
    let c := d.core core
    match c.queue.find? (fun e => e.started && !e.ran && (match e.instr with | .sfu .sfts _ => true | _ => false)) with
    | some e => match e.instr with
      | .sfu _ f =>
        let ts := bitsSet (c.sreg f.va.toNat).toNat 24
        if c.staging.any (fun g => decide (g.seq < e.seq) && ts.contains g.slot) ||
            c.queue.any (fun y => decide (y.seq < e.seq) && !y.started && c.stagesTo y ts) then d
        else
          let fl := if ts.any (fun t => (c.stagedOf t).origin == .empty) then flagStageEmpty else 0
          d.setCore core ((ts.foldl Core.swapSlot c).setEntry { e with ran := true, flags := BitVec.ofNat 32 fl })
      | _ => d
    | none => d)

/-- PEWTER_CHANGE (R168). -/
def execPewterChange (core : Fin 96) (s : State) : Host.Outcome State Fault Refusal :=
  s.act (fun d =>
    let c := d.core core
    match c.queue.find? (fun e => e.started && !e.ran && (match e.instr with | .sfu .sfmode _ => true | _ => false)) with
    | some e => match e.instr with
      | .sfu _ f => d.setCore core ({ c with pewter := f.sub.getLsbD 0 }.setEntry { e with ran := true })
      | _ => d
    | none => d)

end Sys2Proof.Machine
end

