-- ==== Sys2Proof/Machine/Rsu.lean ====
section
/-! DEFINITION. The row-statistics unit (R170 to R175): accumulation, statistics, and the exchange of partial records. -/
namespace Sys2Proof.Machine
open Sys2Proof

/-- Row accumulator `r`, modulo 32. -/
def Core.rowAcc (c : Core) (r : Nat) : RowAcc := Tab.get c.rows (r % 32) RowAcc.reset

/-- Writes a row accumulator. -/
def Core.setRow (c : Core) (r : Nat) (a : RowAcc) : Core := { c with rows := Tab.set c.rows (r % 32) a RowAcc.reset }

/-- The sum of two FP64 encodings, rounded to nearest even, with its flags. -/
def add64 (a b : Nat) : ElR := fOp 3 ((fVal 3 a).add (fVal 3 b))

/-- Adds a partial of squares and one of values to chain k mod 4, and advances k and COUNT (R171). -/
def RowAcc.addTo (a : RowAcc) (sq sm act : Nat) : RowAcc × Nat :=
  let add (x : BitVec 64) (v : Nat) : BitVec 64 × Nat := let r := add64 x.toNat v; (BitVec.ofNat 64 r.1, r.2)
  let a' := { a with k := a.k + 1, count := BitVec.ofNat 32 (satAdd 32 a.count.toNat act) }
  match a.k % 4 with
  | 0 => let x := add a.q0 sq; let y := add a.s0 sm; ({ a' with q0 := x.1, s0 := y.1 }, x.2 ||| y.2)
  | 1 => let x := add a.q1 sq; let y := add a.s1 sm; ({ a' with q1 := x.1, s1 := y.1 }, x.2 ||| y.2)
  | 2 => let x := add a.q2 sq; let y := add a.s2 sm; ({ a' with q2 := x.1, s2 := y.1 }, x.2 ||| y.2)
  | _ => let x := add a.q3 sq; let y := add a.s3 sm; ({ a' with q3 := x.1, s3 := y.1 }, x.2 ||| y.2)

/-- (c0 + c1) + (c2 + c3) (R172). -/
def fold4 (c0 c1 c2 c3 : BitVec 64) : ElR :=
  let x := add64 c0.toNat c1.toNat
  let y := add64 c2.toNat c3.toNat
  let z := add64 x.1 y.1
  (z.1, x.2 ||| y.2 ||| z.2)

/-- The folded SUMSQ of a row (R172). -/
def RowAcc.sumsq (a : RowAcc) : ElR := fold4 a.q0 a.q1 a.q2 a.q3
/-- The folded SUM of a row (R172). -/
def RowAcc.sum (a : RowAcc) : ElR := fold4 a.s0 a.s1 a.s2 a.s3

/-! ### RSQ (R171) -/

/-- The partials of one block: squares and values summed by the fixed tree, and how many elements were active. -/
def Core.rowBlock (c : Core) (f : VecF) (ty vl i0 cnt : Nat) : ElR × ElR × Nat :=
  let on := (List.range cnt).map (fun j => decide (i0 + j < vl) && c.on f (i0 + j))
  let xs := on.zipIdx.map (fun b => if b.1 then fVal ty (c.elem f.va.toNat ty (i0 + b.2)) else FVal.zero)
  let part (g : FVal → FVal) : ElR :=
    let rs := xs.map (fun v => fOp 3 (g v))
    let t := tree add64 0 (rs.map (·.1))
    (t.1, rs.foldl (fun a r => a ||| r.2) t.2)
  (part (fun v => v.mul v), part (fun v => v), (on.filter id).length)

/-- RSQ over G = 2^`lg` blocks. -/
def Core.rsqBlocks (c : Core) (f : VecF) (ty vl lg : Nat) : Core × Nat :=
  let w := tyCount ty / 2 ^ lg
  (List.range (2 ^ lg)).foldl (fun x b =>
    let p := c.rowBlock f ty vl (b * w) w
    let r := f.vd.toNat % 32 + b
    let y := (x.1.rowAcc r).addTo p.1.1 p.2.1.1 p.2.2
    (x.1.setRow r y.1, x.2 ||| p.1.2 ||| p.2.1.2 ||| y.2)) (c, 0)

/-- A row accumulator of free values. -/
def freeRow (k : Nat) : RowAcc :=
  let q (i : Nat) : BitVec 64 := BitVec.ofNat 64 (k / 2 ^ (64 * i))
  ⟨q 0, q 1, q 2, q 3, q 4, q 5, q 6, q 7, BitVec.ofNat 32 (k / 2 ^ 512), k / 2 ^ 544 % 4⟩

/-- RSQ: VD[4:0] first row, SUB[2:0] log2 G (R171, R192). For a TYPE the RSU does not take, and for a G that R171 does not list, the rows
hold free values after it (log 8). -/
def Dev.rsq (d : Dev) (n : Nat) (f : VecF) : Eff :=
  let c := d.core n
  let ty := f.ty.toNat
  let vl := c.vlOf f (tyCount ty)
  let lg := f.sub.toNat % 8
  if vl = 0 then Eff.none d
  else if ty < 3 ∧ lg ≤ 5 then let x := c.rsqBlocks f ty vl lg; ⟨d.setCore n x.1, stOk, x.2, true⟩
  else
    let x := d.draw
    let c := (List.range 32).foldl (fun (e : Core) r => e.setRow r (freeRow (x.1 / 2 ^ (600 * r)))) c
    ⟨x.2.setCore n c, stOk, 0, true⟩

/-- Runs the head of the RSU's queue where it is operation `o`. -/
def Dev.runRsu (d : Dev) (n : Nat) (o : RsuOp) (g : Dev → VecF → Eff) : Dev :=
  d.runHead n .rsu (fun i => match i with
    | .rsu p f => if p = o then some (fun d _ => g d f) else none
    | _ => none)

/-- RSQ (R171). -/
def execRsq (core : Fin 96) (s : State) : Host.Outcome State Fault Refusal := s.act (fun d => d.runRsu core .rsq (fun e f => e.rsq core f))

/-! ### RSF (R172, R173) -/

/-- A folded sum divided by COUNT in FP64; +0 for a COUNT of 0 (R172, R173). -/
def meanOf (s : ElR) (count : Word) : ElR :=
  if count = 0 then (0, 0) else let r := fOp 3 ((fVal 3 s.1).div (FVal.ofInt count.toNat)); (r.1, s.2 ||| r.2)

/-- The statistic that OP names, before its rounding to the output type, with the flags so far (R172, R173). -/
def RowAcc.stat (a : RowAcc) (op : Nat) (eps : Word) : FVal × Nat :=
  match op with
  | 3 => let m := meanOf a.sum a.count; (fVal 3 m.1, m.2)
  | 2 => let m := meanOf a.sumsq a.count; (fVal 3 m.1, m.2)
  | _ =>
    let m := meanOf a.sumsq a.count
    let v := fOp 3 ((fVal 3 m.1).add (f32 eps))
    let x := fVal 3 v.1
    (if x.cmp .zero = some (-1) then .nan else if op = 1 then x.sqrt else ((fOne false).div x).sqrt, m.2 ||| v.2)

/-- The results of an RSF, with the flags: one for each row it reads (R172). -/
def Core.rsfVals (c : Core) (f : VecF) (n : Nat) : List ElR :=
  (List.range n).map (fun i =>
    let a := c.rowAcc ((c.sreg f.va.toNat).toNat + i)
    let x := a.stat (f.sub.toNat / 16 % 4) (c.sreg f.vc.toNat)
    let r := fOp f.ty.toNat x.1
    (r.1, x.2 ||| r.2))

/-- RSF: VA, VB are r0, r1; SUB[6] scalar destination, SUB[5:4] OP, SUB[3] CLR (R172, R192). Output in another TYPE is free (log 8). -/
def Dev.rsf (d : Dev) (n : Nat) (f : VecF) : Eff :=
  let c := d.core n
  let r0 := (c.sreg f.va.toNat).toNat
  let cnt := rowSpan (c.sreg f.va.toNat) (c.sreg f.vb.toNat)
  let x := d.draw
  let ok := decide (f.ty.toNat < 3)
  let rs := if ok then c.rsfVals f cnt else (List.range cnt).map (fun i => (x.1 / 2 ^ (64 * i) % 2 ^ 32, 0))
  let c1 := rs.zipIdx.foldl (fun (e : Core) r =>
    if f.sub.getLsbD 6 then e.setS (f.vd.toNat % 32 + r.2) (BitVec.ofNat 32 r.1.1) else e.setLane f.vd.toNat r.2 (BitVec.ofNat 32 r.1.1)) c
  let c2 := if f.sub.getLsbD 3 then (List.range cnt).foldl (fun (e : Core) i => e.setRow (r0 + i) RowAcc.reset) c1 else c1
  ⟨(if ok then d else x.2).setCore n c2, stOk, rs.foldl (fun b r => b ||| r.2) 0, true⟩

/-- RSF (R172). -/
def execRsf (core : Fin 96) (s : State) : Host.Outcome State Fault Refusal := s.act (fun d => d.runRsu core .rsf (fun e f => e.rsf core f))

/-! ### RSX (R174) -/

/-- The partial record of a row, with the flags of its fold (R174). -/
def Core.rowRecord (c : Core) (r : Nat) : List Byte × Nat :=
  let a := c.rowAcc r
  let q := a.sumsq
  let s := a.sum
  (leBytes 8 q.1 ++ leBytes 8 s.1 ++ leBytes 4 a.count.toNat ++ leBytes 1 (r % 32) ++ leBytes 10 0 ++ leBytes 1 1, q.2 ||| s.2)

/-- RSX: VR[4:0] names the pair r0, r1 (R174, R193). -/
def Dev.rsx (d : Dev) (n : Nat) (f : MemF) : Eff :=
  let c := d.core n
  let r0 := (c.sreg f.vr.toNat).toNat
  let cnt := rowSpan (c.sreg f.vr.toNat) (c.sreg (f.vr.toNat % 32 + 1))
  let a := c.memAddr f 32
  if cnt = 0 then Eff.none d
  else
    let rs := (List.range cnt).map (fun i => c.rowRecord (r0 + i))
    let y := d.lsStore n (a / 32 * 32) (rs.flatMap (·.1)) (fun _ => false)
    if y.2 = stOk then ⟨y.1, stOk, rs.foldl (fun b r => b ||| r.2) (if a % 32 = 0 then 0 else flagAlign), true⟩ else Eff.fault y.1 y.2

/-- RSX (R174). -/
def execRsx (core : Fin 96) (s : State) : Host.Outcome State Fault Refusal := s.act (fun d => d.runVxm core .rsx (fun e f => e.rsx core f))

/-! ### RSM (R175) -/

/-- RSM: VR[4:0] names NREC. It takes the mode of its start (R538) and waits for its records. -/
def execRsm (core : Fin 96) (s : State) : Host.Outcome State Fault Refusal :=
  s.act (fun d => d.runVxm core .rsm (fun d f =>
    let c := d.core core
    let k := (c.sreg f.vr.toNat).toNat
    let a := c.memAddr f 32
    if k = 0 then Eff.none d
    else if a / 32 * 32 + 32 * k ≤ lsBytes then
      (⟨d.setCore core { c with merged := [], rsmDet := d.rd F.DET_MODE == 1 }, stOk, if a % 32 = 0 then 0 else flagAlign, false⟩ : Eff)
    else Eff.fault d stOutOfMap))

/-- Merges one record into its row: the row is folded, the record added, and the result stands in chain 0 (R175). -/
def Core.mergeRecord (c : Core) (bs : List Byte) : Core × Nat :=
  let r := field bs 0x14 1
  let a := c.rowAcc r
  let q := a.sumsq
  let s := a.sum
  let q2 := add64 q.1 (field bs 0 8)
  let s2 := add64 s.1 (field bs 8 8)
  (c.setRow r ⟨BitVec.ofNat 64 q2.1, 0, 0, 0, BitVec.ofNat 64 s2.1, 0, 0, 0,
    BitVec.ofNat 32 (satAdd 32 a.count.toNat (field bs 0x10 4)), 1⟩, q.2 ||| s.2 ||| q2.2 ||| s2.2)

/-- Merges the records of a list of indices in order: reads each, adds it, clears its VALID byte. Answers the flags. -/
def Dev.mergeGo (d : Dev) (n base : Nat) (is : List Nat) (fl : Nat) : Dev × St × Nat :=
  match is with
  | [] => (d, stOk, fl)
  | i :: rest =>
    let x := d.lsLoad n (base + 32 * i) 32
    if x.2.1 = stOk then
      let c := x.1.core n
      let y := c.mergeRecord x.2.2
      let d := x.1.setCore n { y.1 with merged := NatSet.ins y.1.merged i }
      let z := d.lsStore n (base + 32 * i + 31) [0] (fun _ => false)
      if z.2 = stOk then z.1.mergeGo n base rest (fl ||| y.2) else (z.1, z.2, fl ||| y.2)
    else (x.1, x.2.1, fl)

/-- RSM_MERGE (R175): records whose VALID bytes are found nonzero are merged; in deterministic mode, all of them once the last has
come, in ascending order. The RSM has its effect when every record is merged; an uncorrectable record stops the core (R199). -/
def execRsmMerge (core : Fin 96) (s : State) : Host.Outcome State Fault Refusal :=
  s.act (fun d =>
    let c := d.core core
    match c.queue.find? (fun e => e.started && !e.ran && (match e.instr with | .vxm .rsm _ => true | _ => false)) with
    | none => d
    | some e => match e.instr with
      | .vxm _ f =>
        let k := (c.sreg f.vr.toNat).toNat
        let base := c.memAddr f 32 / 32 * 32
        let open_ := (List.range k).filter (fun i => !c.merged.contains i)
        let x := d.lsLoads core (open_.map (fun i => (base + 32 * i + 31, 1)))
        let ready := (open_.zip x.2.2).filter (fun p => decide (field p.2 0 1 ≠ 0)) |>.map (·.1)
        let y := if x.2.1 ≠ stOk then (x.1, x.2.1, 0)
          else if c.rsmDet ∧ ready.length < open_.length then (x.1, stOk, 0)
          else x.1.mergeGo core base ready 0
        let c := y.1.core core
        if y.2.1 = stOk then
          y.1.setCore core (c.setEntry { e with
            ran := decide (c.merged.length = k), flags := e.flags ||| BitVec.ofNat 32 y.2.2 })
        else (y.1.setCore core (c.engineFault e y.2.1)).settleStop core
      | _ => d)

end Sys2Proof.Machine
end

