-- ==== Sys2Proof/Machine/Dmv.lean ====
section
/-! DEFINITION. The data mover of a core (R194, R243, R253 to R260) and dropped shared-port writes (R254). -/
namespace Sys2Proof.Machine
open Sys2Proof

/-- The source queue of DMV queue `q` of core `n` (R407). -/
def dmvSq (n q : Nat) : Nat := 0x100 + 4 * n + q

/-- The port of a ring, by its PORT field (R388). -/
def Dev.ringPort (d : Dev) (r : Nat) : PciePort := portOfNat (d.rd (F.PORT r))

/-- Changes the started descriptor with a count, live or orphaned. -/
def Dev.mapDesc (d : Dev) (r : Nat) (k : Word) (f : Desc → Desc) : Dev :=
  let x := d.ring r
  let g (y : Desc) : Desc := if y.count = k then f y else y
  d.setRing r { x with started := x.started.map g, orphans := x.orphans.map g }

/-- The last addresses of a range in each host window that it reaches: window B begins where window A ends. -/
def windowEnds (a n : Nat) : List Nat :=
  if n = 0 then []
  else if a < winBase .b ∧ winBase .b < a + n then [winBase .b - 1, a + n - 1]
  else [a + n - 1]

/-- Remembers what the first `n` bytes at `a`, which a descriptor's write has made, did at the host windows: the last host address
written through the port its ring does not use (R412, R420), and a port in D3hot, where they wait (R385). -/
def Dev.noteOther (d : Dev) (r : Nat) (k : Word) (a n : Nat) : Dev :=
  (windowEnds (a % 2 ^ 64) n).foldl (fun e z => match e.region z with
    | some (.win p, _, _) =>
      let own := decide (p = e.ringPort r)
      let waits := (e.port p).d3hot
      if own && !waits then e
      else e.mapDesc r k (fun y => { y with
        other := if own then y.other else some (e.busAddr p z)
        held := if waits && !y.held.contains p then y.held ++ [p] else y.held })
    | _ => e) d

/-- A transfer under way: the block, the status so far, the number of the next chunk and of the next shared-port access. -/
structure XferRun where
  dev : Dev
  st  : St
  idx : Nat
  acc : Nat

/-- The pieces of a row, in ascending address: offset and length (R258). -/
def rowPieces (len half : Nat) : List (Nat × Nat) :=
  (List.range (ceilDiv len half)).map (fun i => (i * half, min half (len - i * half)))

/-- Whether a transfer passes through a staging buffer: one whose source and destination both lie outside the Ingot (R243). -/
def Dev.staged (d : Dev) (x : XferD) : Bool :=
  let ingot (a : Nat) : Bool := match d.region a with | some (.ingot, _, _) => true | _ => false
  decide (x.kind ≠ 3) && !ingot x.src && !ingot x.dst

/-- The slice of the default staging buffer: that of the base die which serves the stack or package of the transfer's first source byte,
or the slice under the core's die (R243, R272). -/
def Dev.stageSlice (d : Dev) (n : Nat) (x : XferD) : Nat :=
  match d.region x.src with
  | some (.near, _, _) => d.tierDie x.src
  | some (.far, _, _) => d.tierDie x.src
  | _ => d.dieOf n

/-- The largest chunk: half the staging buffer, and the default buffer is of 16 KiB (R243, R258, log 33). -/
def Dev.chunkLen (d : Dev) (x : XferD) : Nat := (if d.staged x ∧ x.stage = 0 then min x.slen 16384 else x.slen) / 2

/-- Chunk `idx` passes through its half of the staging buffer: the one that STAGE names, or the core's default one (R243, log 33). -/
def Dev.stageChunk (d : Dev) (n sq : Nat) (x : XferD) (idx : Nat) (bs : List Byte) : Res :=
  if !d.staged x then ⟨d, stOk, 0⟩
  else if x.stage = 0 then
    let c := d.core n
    ⟨d.setCore n { c with stage := Tab.set c.stage (2 * d.stageSlice n x + idx % 2) bs [] }, stOk, bs.length⟩
  else d.storeRaw ((x.stage + idx % 2 * d.chunkLen x) % 2 ^ 64) bs sq

/-- One chunk: read whole, staged, written; the first failure is the status (R258, R259, R295; the staging half, log 33). -/
def XferRun.chunk (t : XferRun) (n sq top : Nat) (x : XferD) (drops : Drops) (row : Nat) (p : Nat × Nat) : XferRun :=
  if t.st ≠ stOk then t
  else
    let at64 (base stride : Nat) : Nat :=
      (BitVec.ofInt 64 ((base : Int) + (if x.kind = 2 then signed 64 stride * row else 0) + p.1)).toNat
    let src := at64 x.src x.sstride
    let dst := at64 x.dst x.dstride
    let r : Dev × St × List Byte :=
      if x.kind = 3 then (t.dev, stOk, (List.range p.2).map (fun j => BitVec.ofNat 8 (x.src / 2 ^ (8 * ((p.1 + j) % 8)))))
      else t.dev.load src p.2
    if r.2.1 ≠ stOk then { t with dev := r.1, st := r.1.capStatus top r.2.1 (r.1.badAddr src p.2) }
    else
      let g := r.1.stageChunk n sq x t.idx r.2.2
      if g.st ≠ stOk then { t with dev := g.dev, st := g.dev.capStatus top g.st (g.dev.badAddr x.stage (r.1.chunkLen x)) }
      else
        let w := g.dev.storeC dst r.2.2 sq (fun _ => false) (some n) drops t.acc
        let d := match (w.1.dev.core n).run with
          | some (ring, k) => w.1.dev.noteOther ring k dst w.1.done
          | none => w.1.dev
        ⟨d, d.capStatus top w.1.st (d.badAddr dst p.2), t.idx + 1, w.2⟩

/-- A whole transfer (R257, R258). -/
def Dev.transfer (d : Dev) (n sq top : Nat) (raw : List Byte) (drops : Drops) : XferRun :=
  let x := XferD.parse raw
  if raw.isEmpty then ⟨d, stOutOfMap, 0, 0⟩
  else if x.kind = 0 ∨ x.kind > 3 then ⟨d, stBadOpcode, 0, 0⟩
  else
    (List.range x.nrows).foldl (fun t row => (rowPieces x.len (d.chunkLen x)).foldl (fun t p => t.chunk n sq top x drops row p) t)
      ⟨d, stOk, 0, 0⟩

/-- DMV: starts its transfers; a descriptor outside the local store fails as a transfer, an unreadable one faults the core
(R194, R199, R257, log 33). -/
def execDmv (core : Fin 96) (s : State) : Host.Outcome State Fault Refusal :=
  s.act (fun d => d.runHead core .dmv (fun i => match i with
    | .dmv f => some (fun d e =>
      let c := d.core core
      let k := (c.sreg f.sc.toNat).toNat
      let base := c.dmvOff f
      let offs := (List.range k).map (fun i => base + 64 * i)
      let good := offs.filter (fun o => decide (o + 64 ≤ lsBytes))
      let x := d.lsLoads core (good.map (fun o => (o, 64)))
      if x.2.1 ≠ stOk then Eff.fault x.1 x.2.1
      else
        let raws := x.2.2 ++ List.replicate (offs.length - good.length) []
        let ts := (offs.zip raws).map (fun p => (⟨f.q.toNat, p.1, p.2, e.seq, x.1.nearTop, none⟩ : Xfer))
        let c := x.1.core core
        ⟨x.1.setCore core { c with xfers := c.xfers ++ ts }, stOk, 0, decide (k = 0)⟩)
    | _ => none))

/-- A transfer finishes or stops with a status: its record and its completion word follow, and its instruction has had its effect with
the last of them (R259). `k` is the number of the completion word's access. -/
def Dev.endXfer (d : Dev) (n : Nat) (x : Xfer) (st : St) (drops : Drops) (k : Nat) : Dev :=
  let y := XferD.parse x.raw
  let d := if st = stOk then d else d.log 3 n st.toNat (statusPayload x.off 0xFFFFFFFF 0xFFFF 2 false 0xFFFF)
  let d := if y.notify ∧ y.note + 4 ≤ lsBytes then
      (d.storeC (lsAddr n + y.note) (leBytes 4 (st.toNat + 2 ^ 31)) (dmvSq n x.q) (fun _ => false) (some n) drops k).1.dev
    else d
  let c := d.core n
  let rest := match c.xfers.findIdx? (fun z => z.q == x.q) with | some i => c.xfers.eraseIdx i | none => c.xfers
  let c := { c with xfers := rest }
  d.setCore n (if rest.any (fun z => z.seq == x.seq) then c else c.setRan x.seq)

/-- Keeps the status of a queue's oldest transfer while its host-window writes wait (R385, R412). -/
def Dev.parkXfer (d : Dev) (n q : Nat) (st : St) : Dev :=
  let c := d.core n
  d.setCore n { c with xfers := match c.xfers.findIdx? (fun z => z.q == q) with
    | some i => c.xfers.modify i (fun z => { z with moved := some st })
    | none => c.xfers }

/-- TRANSFER_COMPLETE (R259, R412): the oldest transfer of a queue moves its data and finishes or stops. One whose writes wait at a port in
D3hot finishes with a later command, once they are issued; no store is reached in Retain (R261). -/
def execTransferComplete (core : Fin 96) (q : Fin 4) (drops : Drops) (s : State) : Host.Outcome State Fault Refusal :=
  s.act (fun d => match (d.core core).xfers.find? (fun x => x.q == q.val) with
    | none => d
    | some x =>
      let sq := dmvSq core q
      if d.sys.phase = .retain then d
      else match x.moved with
      | some st => if d.waitingBytes sq ≠ 0 then d else d.endXfer core x st drops 0
      | none =>
        let t := d.transfer core sq x.nearTop x.raw drops
        if t.st = stWait then d
        else if t.dev.waitingBytes sq ≠ 0 then t.dev.parkXfer core q t.st
        else t.dev.endXfer core x t.st drops t.acc)

/-! ### Writes that wait at a port (R383 to R385) -/

/-- Changes every started descriptor. -/
def Dev.mapAllDesc (d : Dev) (f : Desc → Desc) : Dev :=
  { d with rings := d.rings.map (fun x => (x.1, { x.2 with started := x.2.started.map f, orphans := x.2.orphans.map f })) }

/-- The writes that waited at a port are no longer held there. -/
def Dev.unhold (d : Dev) (p : PciePort) (lost : Bool) : Dev :=
  d.mapAllDesc (fun y => if y.held.contains p then { y with held := y.held.erase p, lost := y.lost || lost } else y)

/-- The writes that wait at a port are discarded; their issuers hear ACCESS_OUT_OF_MAP (R383, R385). -/
def Dev.dropWaiting (d : Dev) (p : PciePort) : Dev :=
  let gone (n q : Nat) : Bool := (d.port p).waiting.any (fun o => match o with | .write _ _ sq => sq == dmvSq n q | _ => false)
  let fail (n : Nat) (x : Xfer) : Xfer := { x with moved := x.moved.map (fun st => if st = stOk ∧ gone n x.q then stOutOfMap else st) }
  let d : Dev := { d with cores := d.cores.map (fun x => (x.1, { x.2 with xfers := x.2.xfers.map (fail x.1) })) }
  (d.setPort p { d.port p with waiting := [] }).unhold p true

end Sys2Proof.Machine
end

