-- ==== Sys2Proof/Machine/Rings.lean ====
section
/-! DEFINITION. Rings and doorbells (R386 to R399, R417 to R430): starting descriptors, the checks before one does anything,
FENCE and the cross-port flush, finishing, halting, and posting records. -/
namespace Sys2Proof.Machine
open Sys2Proof

/-! ### Counts and states (R388, R393) -/

/-- DISABLED. -/
def rsDisabled : Nat := 0
/-- RUNNING. -/
def rsRunning : Nat := 1
/-- HALTED. -/
def rsHalted : Nat := 2
/-- DRAINING. -/
def rsDraining : Nat := 3

/-- The number of slots, 2^k; SIZE_EXP 17 to 31 read as 16 (R388). -/
def Dev.ringSize (d : Dev) (r : Nat) : Nat := 2 ^ min 16 (d.rd (F.SIZE_EXP r))

/-- (a − b) mod 2^32. -/
def dist32 (a b : Nat) : Nat := (BitVec.ofNat 32 a - BitVec.ofNat 32 b).toNat

/-- T of ring `r`. -/
def Dev.cntT (d : Dev) (r : Nat) : Nat := d.rd (F.SQ_TAIL_SEEN r)
/-- S of ring `r`. -/
def Dev.cntS (d : Dev) (r : Nat) : Nat := d.rd (F.SQ_STARTED r)
/-- P of ring `r`. -/
def Dev.cntP (d : Dev) (r : Nat) : Nat := d.rd (F.CQ_POSTED r)
/-- H of ring `r`. -/
def Dev.cntH (d : Dev) (r : Nat) : Nat := d.rd (F.CQ_HEAD_SEEN r)

/-- Whether count `a` comes before count `b` in one life of a ring. -/
def before32 (a b : Word) : Bool := decide (0 < (b - a).toNat ∧ (b - a).toNat < 2 ^ 31)

/-! ### Interrupts (R404, R405) -/

/-- Whether raising a vector sends a message at once. -/
def Dev.vecSends (d : Dev) (p : PciePort) (v : Nat) : Bool :=
  let q := d.port p
  !q.perst && q.msixOn && !q.funcMask && !(Tab.get q.msix v MsixEntry.reset).masked

/-- A ring raises its vector, or merges the cause during its hold-off (R404, R405). -/
def Dev.ringIrq (d : Dev) (r : Nat) : Dev :=
  let x := d.ring r
  if x.holdoff then d.setRing r { x with merged := true }
  else
    let p := d.ringPort r
    let v := d.rd (F.VEC r)
    let h := decide (d.rd (F.IRQ_HOLDOFF_US r) ≠ 0) && d.vecSends p v
    (d.setRing r { x with holdoff := h, merged := false }).raiseVec p v

/-- IRQ_HOLDOFF_END (R405): the merged causes are sent as one message. -/
def execIrqHoldoffEnd (ring : Fin 64) (s : State) : Host.Outcome State Fault Refusal :=
  s.act (fun d =>
    let x := d.ring ring
    if x.holdoff then
      let e := d.setRing ring { x with holdoff := false, merged := false }
      if x.merged then e.ringIrq ring else e
    else d)

/-! ### Doorbells (R389, R390) -/

/-- Whether a port's registers and windows answer its host: its link is up and it is in D0 (R383, R385). -/
def Dev.hostReach (d : Dev) (p : PciePort) : Bool := d.pcieUp p && !(d.port p).d3hot

/-- The source queue of a port's host writes (R407). -/
def portSq (p : PciePort) : BitVec 16 := BitVec.ofNat 16 (0x300 + pnum p)

/-- Whether a port's BAR4 writes still wait for their place in the device's memory (R244, R255, R407). -/
def Dev.bar4Busy (d : Dev) (p : PciePort) : Bool :=
  let q : HeldSrc := .own (portSq p)
  d.hold.any (fun h => h.src == q) || d.hit.any (fun h => h.held.src == q)

/-- A BAR4 access that finds no backed address (R382). -/
def Dev.bar4Miss (d : Dev) (p : PciePort) : Dev := d.wr (F.BAR4_MISS (pnum p)) 1

/-- A host write lands; a failure is reported by its record alone, and an address that an unmapping has taken away misses (R256, R295, R382). -/
def Dev.landHost (d : Dev) (sq : BitVec 16) (a : Nat) (bs : List Byte) : Dev :=
  let x := d.storeRaw a bs sq.toNat
  if x.st = stOutOfMap then x.dev.bar4Miss (portOfNat (sq.toNat - 0x300)) else x.dev

/-- A wake from Retain; it sets PWR_REQ to 0 (R468). -/
def Dev.wakeUp (d : Dev) : Dev :=
  if d.sys.phase = .retain then
    { (d.wr F.PWR_REQ 0).wr F.PWR_STATE 0 with sys := { d.sys with phase := .run } }
  else d

/-- A register write, a doorbell or a BAR4 read of a port comes after the port's earlier BAR4 writes, which land now in their order
(R415, R416, log 57); a write that still waits in Retain is a BAR4 access that wakes the device (R468). -/
def Dev.landPort (d : Dev) (p : PciePort) : Dev :=
  if d.hostReach p && d.bar4Busy p then
    let d := d.wakeUp
    let q : HeldSrc := .own (portSq p)
    let ws := (d.hit.filter (fun h => h.held.src == q)).map Collided.held ++ d.hold.filter (fun h => h.src == q)
    ws.foldl (fun e h => match h.body with
        | .bytes a bs => e.landHost (portSq p) a bs
        | .packet _ _ => e)
      { d with hit := d.hit.filter (fun h => !(h.held.src == q)), hold := d.hold.filter (fun h => !(h.src == q)) }
  else d

/-- Whether a port's host can write registers and doorbells: its BAR4 writes of before have landed (R383, R385, R416), and recovery does
not withhold them (R493, R531). -/
def Dev.regReach (d : Dev) (p : PciePort) : Bool := d.hostReach p && !d.bar4Busy p && d.sys.phase != .recovery

/-- A port's latch of a high word is dropped (R534). -/
def Dev.dropLatch (d : Dev) (p : PciePort) : Dev := d.setPort p { d.port p with latch := none }

/-- A BAR0 write that a port's host reaches, which drops the port's latch (R416, R534). -/
def Dev.onReg (d : Dev) (p : PciePort) (f : Dev → Dev) : Dev :=
  let d := d.landPort p
  if d.regReach p then f (d.dropLatch p) else d

/-- Whether doorbell writes of a ring are looked at (R389, R393, log 34). -/
def Dev.doorOpen (d : Dev) (r : Nat) : Bool :=
  d.rd (F.ENABLE r) == 1 && (d.rd (F.RING_STATE r) == rsRunning || d.rd (F.RING_STATE r) == rsHalted)

/-- A refused doorbell value (R390). -/
def Dev.overrun (d : Dev) (r : Nat) (v : Word) (which : Nat) : Dev :=
  if d.rd (F.DB_OVERRUN r) = 1 then d
  else (d.wr (F.DB_OVERRUN r) 1).log 2 (0x100 + r) 0x10C (leBytes 4 v.toNat ++ leBytes 1 which)

/-- SQ_TAIL (R390). -/
def execSqTail (port : PciePort) (ring : Fin 64) (value : Word) (s : State) : Host.Outcome State Fault Refusal :=
  s.act (fun d =>
    let d := d.landPort port
    let d := if d.regReach port then d.wakeUp else d
    if d.regReach port && d.doorOpen ring then
      if dist32 value.toNat (d.cntH ring) ≤ d.ringSize ring then d.wr (F.SQ_TAIL_SEEN ring) value.toNat
      else d.overrun ring value 0
    else d)

/-- CQ_HEAD (R390). -/
def execCqHead (port : PciePort) (ring : Fin 64) (value : Word) (s : State) : Host.Outcome State Fault Refusal :=
  s.act (fun d =>
    let d := d.landPort port
    let d := if d.regReach port then d.wakeUp else d
    if d.regReach port && d.doorOpen ring then
      if dist32 value.toNat (d.cntH ring) ≤ dist32 (d.cntP ring) (d.cntH ring) then d.wr (F.CQ_HEAD_SEEN ring) value.toNat
      else d.overrun ring value 1
    else d)

/-! ### ENABLE, RESUME and draining (R384, R393, R429) -/

/-- A ring enters RUNNING with its counts set to 0 (R388, R393). -/
def Dev.ringGo (d : Dev) (r : Nat) : Dev :=
  let d := (((d.wr (F.SQ_TAIL_SEEN r) 0).wr (F.SQ_STARTED r) 0).wr (F.CQ_POSTED r) 0).wr (F.CQ_HEAD_SEEN r) 0
  (d.wr (F.RING_STATE r) rsRunning).setRing r { d.ring r with halt := none, heldEnable := false, heldResume := false }

/-- ENABLE (R393): a DISABLED ring with nothing left of before starts; otherwise the enable is held. A write of 1 to a set bit
does nothing. -/
def Dev.enableOn (d : Dev) (r : Nat) : Dev :=
  if d.rd (F.ENABLE r) = 1 then d
  else
    let d := d.wr (F.ENABLE r) 1
    if d.rd (F.RING_STATE r) = rsDisabled ∧ (d.ring r).orphans.isEmpty then d.ringGo r
    else d.setRing r { d.ring r with heldEnable := true }

/-- ENABLE (R393). -/
def execEnable (port : PciePort) (ring : Fin 64) (s : State) : Host.Outcome State Fault Refusal :=
  s.act (fun d => d.onReg port (fun d => d.enableOn ring))

/-- A write of 0 to ENABLE withdraws a held enable and lets the ring drain (R393, R429). -/
def Dev.enableOff (d : Dev) (r : Nat) : Dev :=
  let d := d.wr (F.ENABLE r) 0
  let d := d.setRing r { d.ring r with heldEnable := false }
  if d.rd (F.RING_STATE r) = rsRunning ∨ d.rd (F.RING_STATE r) = rsHalted then
    let d := d.setRing r { d.ring r with heldResume := false }
    d.wr (F.RING_STATE r) (if d.cntP r = d.cntS r then rsDisabled else rsDraining)
  else d

/-- ENABLE_CLEAR (R393). -/
def execEnableClear (port : PciePort) (ring : Fin 64) (s : State) : Host.Outcome State Fault Refusal :=
  s.act (fun d => d.onReg port (fun d => d.enableOff ring))

/-- RING_DRAINED (R393). -/
def execRingDrained (ring : Fin 64) (s : State) : Host.Outcome State Fault Refusal :=
  s.act (fun d =>
    if d.rd (F.RING_STATE ring) = rsDraining ∧ d.cntP ring = d.cntS ring then d.wr (F.RING_STATE ring) rsDisabled else d)

/-- HELD_ENABLE_APPLIED (R384, R393). -/
def execHeldEnableApplied (ring : Fin 64) (s : State) : Host.Outcome State Fault Refusal :=
  s.act (fun d =>
    let x := d.ring ring
    if x.heldEnable ∧ d.rd (F.RING_STATE ring) = rsDisabled ∧ x.orphans.isEmpty then d.ringGo ring else d)

/-- A held RESUME takes effect once P equals S (R429). -/
def Dev.tryResume (d : Dev) (r : Nat) : Dev :=
  let x := d.ring r
  if x.heldResume ∧ d.rd (F.RING_STATE r) = rsHalted ∧ d.cntP r = d.cntS r then
    (d.wr (F.RING_STATE r) rsRunning).setRing r { x with heldResume := false, halt := none }
  else d

/-- RESUME (R393, R429): does nothing on a ring that is not HALTED. -/
def Dev.resume (d : Dev) (r : Nat) : Dev :=
  if d.rd (F.RING_STATE r) = rsHalted then (d.setRing r { d.ring r with heldResume := true }).tryResume r else d

/-- RESUME (R429). -/
def execResume (port : PciePort) (ring : Fin 64) (s : State) : Host.Outcome State Fault Refusal :=
  s.act (fun d => d.onReg port (fun d => d.resume ring))

/-- RESUME_APPLIED (R429). -/
def execResumeApplied (ring : Fin 64) (s : State) : Host.Outcome State Fault Refusal := s.act (fun d => d.tryResume ring)

/-! ### Fields of a descriptor (R395) -/

/-- OPCODE. -/
def Desc.op (y : Desc) : Nat := field y.raw 0 1
/-- IRQ. -/
def Desc.irq (y : Desc) : Bool := bit (field y.raw 1 1) 0
/-- XFLUSH. -/
def Desc.xflush (y : Desc) : Bool := bit (field y.raw 1 1) 1
/-- TARGET. -/
def Desc.target (y : Desc) : Nat := field y.raw 2 2
/-- ADDR. -/
def Desc.addr (y : Desc) : Nat := field y.raw 8 8
/-- LEN. -/
def Desc.len (y : Desc) : Nat := field y.raw 0x10 4
/-- COUNT. -/
def Desc.cnt (y : Desc) : Nat := field y.raw 0x14 4
/-- The little-endian field of `n` bytes at byte `off`. -/
def Desc.at (y : Desc) (off n : Nat) : Nat := field y.raw off n

/-! ### Starting descriptors (R385, R391 to R394, R418) -/

/-- Every descriptor of a ring that has started and is not posted, those of before a PERST among them. -/
def Ring.all (x : Ring) : List Desc := x.started ++ x.orphans

/-- Whether a ring has a FENCE that has not finished (R418). -/
def Ring.fenced (x : Ring) : Bool := x.started.any (fun y => y.op == 1 && !y.finished)

/-- Whether rings may start descriptors: the module is in Run, and no Sleep entry has stopped them (R469, R493). -/
def Dev.ringsOn (d : Dev) : Bool := d.sys.phase == .run && !d.sys.sleepReq

/-- Whether descriptor S of a ring may start (R385, R391, R393, R418). -/
def Dev.eligible (d : Dev) (r : Nat) : Bool :=
  let avail := dist32 (d.cntT r) (d.cntS r)
  d.ringsOn && d.rd (F.RING_STATE r) == rsRunning && !(d.port (d.ringPort r)).d3hot && !(d.ring r).fenced &&
    decide (1 ≤ avail ∧ avail ≤ d.ringSize r) && decide (dist32 (d.cntS r) (d.cntH r) < d.ringSize r)

/-- Whether a ring of higher priority has an eligible descriptor (R392). -/
def Dev.outranked (d : Dev) (r : Nat) : Bool :=
  (List.range 64).any (fun q => decide (d.rd (F.PRIO q) > d.rd (F.PRIO r)) && d.eligible q)

/-- How far ring `r` stands behind the one of its priority that started a descriptor last (R392). -/
def Dev.turnOf (d : Dev) (r : Nat) : Nat := (r + 64 - Tab.get d.turn (d.rd (F.PRIO r)) 0 % 64) % 64

/-- Whether it is ring `r`'s turn among the rings of its priority that have an eligible descriptor: round robin (R392, log 64). -/
def Dev.hasTurn (d : Dev) (r : Nat) : Bool :=
  (List.range 64).all (fun q => decide (d.rd (F.PRIO q) ≠ d.rd (F.PRIO r)) || !d.eligible q || decide (d.turnOf r ≤ d.turnOf q))

/-- The host address of a ring's submission slot for count `c` (R388). -/
def Dev.slotAddr (d : Dev) (r c : Nat) : Nat := (d.rd (F.SQ_BASE r) / 4096 * 4096 + 64 * (c % d.ringSize r)) % 2 ^ 64

/-- What a FENCE on ring `r` waits for: the earlier descriptors of its own ring, and of the rings of its mask, that have started
and not finished (R418). -/
def Dev.fenceWaits (d : Dev) (r mask : Nat) : List FenceWait :=
  (List.range 64).flatMap (fun q =>
    if q = r ∨ mask.testBit q then
      ((d.ring q).all.filter (fun y => !y.finished)).map (fun y => (⟨q, y.count, none⟩ : FenceWait))
    else [])

/-- DESCRIPTOR_FETCH (R388, R391, R392): descriptor S of the ring starts with the bytes of its one read. `bytes` is what the host has in
the slot, which its memory then shows (log 13). -/
def execDescriptorFetch (ring : Fin 64) (bytes : List Byte) (s : State) : Host.Outcome State Fault Refusal :=
  s.act (fun d =>
    let p := d.ringPort ring
    if d.eligible ring && d.pcieUp p && !d.outranked ring && d.hasTurn ring then
      let c := d.cntS ring
      let d := d.hostLand p (d.slotAddr ring c) ((bytes ++ List.replicate 64 0).take 64)
      let raw := hostBytes (d.hostMem p) (d.slotAddr ring c) 64
      let waits := if field raw 0 1 = 1 then d.fenceWaits ring (field raw 0x18 8) else []
      let y : Desc := ⟨BitVec.ofNat 32 c, raw, d.nextOrd, d.nearTop, false, none, false, 0, [], waits, none, [], [], false⟩
      let x := d.ring ring
      { (d.setRing ring { x with started := x.started ++ [y] }).wr (F.SQ_STARTED ring) (c + 1) with
        nextOrd := d.nextOrd + 1
        turn := Tab.set d.turn (d.rd (F.PRIO ring)) (ring + 1) 0 }
    else d)

/-- The payload code of a port response (R511). -/
def respCode (r : HostResp) : Nat :=
  match r with | .ok => 0 | .unsupported => 1 | .abort => 2 | .timeout => 3 | .poisoned => 4 | .down => 5

/-- DESC_READ_FAIL (R394): the ring halts at count S with no record posted. A read while the port's link is down fails so (R383, R511). -/
def execDescReadFail (ring : Fin 64) (resp : HostResp) (s : State) : Host.Outcome State Fault Refusal :=
  s.act (fun d =>
    let resp := if d.pcieUp (d.ringPort ring) then resp else .down
    if resp = .ok ∨ d.eligible ring = false then d
    else
      let c := d.cntS ring
      let x := d.ring ring
      let d := (d.wr (F.RING_STATE ring) rsHalted).wr (F.HALT_INDEX ring) (c % d.ringSize ring)
      let d := d.setRing ring { x with halt := match x.halt with | none => some (BitVec.ofNat 32 c) | some h => some h }
      let d := d.log 3 (0x100 + ring) 0x10D (leBytes 4 c ++ leBytes 1 (respCode resp))
      if d.rd (F.IRQ_ERR ring) = 1 then d.ringIrq ring else d)

/-! ### The checks before a descriptor does anything (R396 to R398) -/

/-- What an opcode's TARGET names (R397). -/
inductive TargetKind where
  | ignored
  | engine (t : Nat)
  | cores
  | layout
  | unknown
  deriving DecidableEq, Repr

/-- The opcodes the device accepts (R397). -/
def targetKind (op : Nat) : TargetKind :=
  if op = 0x00 ∨ op = 0x01 then .ignored
  else if op = 0x20 ∨ op = 0x41 ∨ op = 0x42 ∨ op = 0x48 ∨ (0x60 ≤ op ∧ op ≤ 0x62) then .engine 0xFF00
  else if op = 0x30 then .engine 0xFF01
  else if 0x31 ≤ op ∧ op ≤ 0x34 then .cores
  else if op = 0x40 then .layout
  else if op = 0x50 ∨ op = 0x51 then .engine 0xFF02
  else if op = 0x53 then .engine 0xFF03
  else if 0x70 ≤ op ∧ op ≤ 0x77 then .engine 0xFF04
  else if 0x78 ≤ op ∧ op ≤ 0x7F then .engine 0xFF05
  else .unknown

/-- The record of a check that fails and is logged (R398, R511, R512). -/
def Dev.logDesc (d : Dev) (sev r : Nat) (y : Desc) (st : St) (aborted : Bool) : Dev :=
  let a := d.slotAddr r y.count.toNat
  d.log sev (0x100 + r) st.toNat (statusPayload a y.count.toNat r 0 aborted 0xFFFF)

/-- The first check of R398 that a descriptor fails, with its record; none where it passes. -/
def Dev.precheck (d : Dev) (r : Nat) (y : Desc) : Option (Dev × St) :=
  let absent (n : Nat) : Option (Dev × St) :=
    if y.target + n ≤ d.coreCount ∨ n = 0 then none else some (d.logDesc 1 r y stEngineAbsent false, stEngineAbsent)
  match targetKind y.op with
  | .unknown => some (d.logDesc 2 r y stBadOpcode false, stBadOpcode)
  | .ignored => none
  | .engine t => if y.target = t then none else some (d, stBadOpcode)
  | .cores => if 0xFF00 ≤ y.target then some (d, stBadOpcode) else absent y.cnt
  | .layout => if y.target = 0xFF00 then none else if 0xFF00 ≤ y.target then some (d, stBadOpcode) else absent 1

/-! ### Running descriptors -/

/-- The started descriptor with a count, live or of before a PERST. -/
def Dev.desc (d : Dev) (r : Nat) (k : Word) : Option Desc := (d.ring r).all.find? (fun y => y.count == k)

/-- The result of a descriptor without one: 16 zero bytes (R399). -/
def noResult : List Byte := List.replicate 16 0

/-- Sets a descriptor's outcome. -/
def Dev.setOutcome (d : Dev) (r : Nat) (k : Word) (st : St) (res : List Byte) : Dev :=
  d.mapDesc r k (fun y => { y with taken := true, outcome := some (st, res) })

/-- The engine that serves a descriptor, for the order of arrival (R392): none where no engine serves it. -/
def Desc.engine (y : Desc) : Option Nat :=
  match targetKind y.op with
  | .engine t => some t
  | .layout => some y.target
  | .cores => some 0x10000
  | _ => none

/-- Whether a descriptor is the earliest that its engine has not taken up (R234, R392). -/
def Dev.firstForEngine (d : Dev) (y : Desc) : Bool :=
  match y.engine with
  | none => true
  | some e => (List.range 64).all (fun q => (d.ring q).all.all (fun z =>
      z.taken || z.outcome.isSome || decide (z.engine ≠ some e) || decide (y.order ≤ z.order)))

/-- Whether what the service mailbox has under way holds a descriptor back: the mailbox's own while it works (R485), a CORE_RUN or
CODE_LOAD during CAL_HOT's load (R480), an APO_TRANSLATE during a restart of the Bronze core (R492). -/
def Dev.engineBusy (d : Dev) (op : Nat) : Bool :=
  match d.svc.job with
  | none => false
  | some j => decide (0x78 ≤ op ∧ op ≤ 0x7F) || (match j.work with
    | .calHot => decide (op = 0x31 ∨ op = 0x32)
    | .update _ _ => false
    | .restart _ => decide (op = 0x30))

/-- Whether the Bronze core restarts (R492). -/
def Dev.restarting (d : Dev) : Bool := match d.svc.job with | some ⟨_, _, .restart _⟩ => true | _ => false

/-- Whether a started descriptor may be taken up: the module is in Run, during a drain for Sleep too (R469), and nothing holds its
opcode back. -/
def Dev.engineOn (d : Dev) (op : Nat) : Bool := d.sys.phase == .run && !d.engineBusy op

/-- What a descriptor's engine does with it: the block, and the outcome where it is known at once. An outcome of `stWait` leaves
everything as it is: the descriptor waits for a host port (R385). -/
abbrev DescRun := Dev → Desc → Dev × Option (St × List Byte)

/-- An engine takes up the started descriptor with a count, if it has the opcode `op` and nothing came before it: the checks of
R398 first, then `f`. -/
def Dev.runDesc (d : Dev) (r : Nat) (k : Word) (op : Nat) (f : DescRun) : Dev :=
  match d.desc r k with
  | none => d
  | some y =>
    if d.engineOn op && y.op == op && !y.taken && y.outcome.isNone && d.firstForEngine y then
      match d.precheck r y with
      | some (e, st) => e.setOutcome r k st noResult
      | none =>
        let x := f d y
        match x.2 with
        | some (st, res) => if st = stWait then d else x.1.setOutcome r k st ((res ++ noResult).take 16)
        | none => x.1.mapDesc r k (fun z => { z with taken := true })
    else d

/-- NOP (R399). -/
def execNop (ring : Fin 64) (count : Word) (s : State) : Host.Outcome State Fault Refusal :=
  s.act (fun d => d.runDesc ring count 0 (fun d _ => (d, some (stOk, noResult))))

/-- UNKNOWN_OPCODE (R398): check 1 decides. -/
def execUnknownOpcode (ring : Fin 64) (count : Word) (s : State) : Host.Outcome State Fault Refusal :=
  s.act (fun d => match d.desc ring count with
    | some y => if targetKind y.op = .unknown then d.runDesc ring count y.op (fun d _ => (d, some (stBadOpcode, noResult))) else d
    | none => d)

/-- FENCE (R418): it waits from its start on. -/
def execFence (ring : Fin 64) (count : Word) (s : State) : Host.Outcome State Fault Refusal :=
  s.act (fun d => d.runDesc ring count 1 (fun d _ => (d, none)))

/-- Whether everything a FENCE waits for has finished (R418). -/
def Desc.waitsDone (y : Desc) : Bool := y.waits.all (fun w => w.done.isSome)

/-- The ports that a descriptor's cross-port flush reads, with the host addresses (R420). -/
def Dev.flushPorts (d : Dev) (r : Nat) (y : Desc) : List (PciePort × Nat) :=
  if !y.xflush then []
  else if y.op = 1 then
    [PciePort.a, PciePort.b].filterMap (fun p => if d.pcieUp p then (d.port p).lastAddr.map (fun a => (p, a)) else none)
  else match y.other with
    | some a => [(otherPort (d.ringPort r), a)]
    | none => []

/-- Whether every flush read of a descriptor has been answered. -/
def Dev.flushDone (d : Dev) (r : Nat) (y : Desc) : Bool := (d.flushPorts r y).all (fun p => y.flushed.contains p.1)

/-- The result of a FENCE (R419). -/
def Desc.fenceResult (y : Desc) : List Byte :=
  leBytes 4 y.waits.length ++ leBytes 4 (y.waits.filter (fun w => w.done == some false)).length ++ leBytes 8 0

/-- FENCE_RELEASE (R418, R419): once its waits and its flush are done the FENCE has its outcome. -/
def execFenceRelease (ring : Fin 64) (count : Word) (s : State) : Host.Outcome State Fault Refusal :=
  s.act (fun d => match d.desc ring count with
    | some y =>
      if y.op = 1 ∧ y.taken ∧ y.waitsDone ∧ d.flushDone ring y ∧ y.finished = false then
        d.mapDesc ring count (fun z => { z with outcome := some (match z.outcome with | some o => o.1 | none => stOk, z.fenceResult) })
      else d
    | none => d)

/-- The status a flush read's answer gives (R383, R420). -/
def flushStatus (r : HostResp) : St := match r with | .ok => stOk | .poisoned => stOk | _ => stOutOfMap

/-! ### Outcomes that are worked out when a descriptor finishes (R198, R200, R203) -/

/-- How the cores of a CORE_RUN's range ended, in the order of their numbers (R198). -/
def Dev.runResults (d : Dev) (r : Nat) (y : Desc) : List RunRes :=
  (List.range y.cnt).filterMap (fun i =>
    d.runDone.find? (fun x => x.ring == r && x.count == y.count && x.core == y.target + i))

/-- The 16 B result and the status of a CORE_RUN whose cores have all ended or stopped (R198). -/
def Dev.coreRunOutcome (d : Dev) (r : Nat) (y : Desc) : Option (St × List Byte) :=
  let xs : List RunRes := d.runResults r y
  if xs.length < y.cnt then none
  else
    let rep : Option RunRes := match xs.find? (fun x => x.reason == 1) with
      | some x => some x
      | none => match xs.find? (fun x => x.reason != 0) with
        | some x => some x
        | none => xs.head?
    match rep with
    | none => some (stOk, noResult)
    | some x =>
      let fl := xs.foldl (fun (m : Word) z => m ||| z.flags.getD (d.core z.core).cflags) 0
      some (if x.reason = 1 then x.status else stOk,
        leBytes 4 x.pc ++ leBytes 2 x.core ++ leBytes 1 x.reason ++ leBytes 1 0 ++ leBytes 4 fl.toNat ++
          leBytes 4 (xs.filter (fun z => z.reason != 0)).length)

/-- Whether every core of a range has taken a descriptor's action (R200, R203). -/
def Dev.allAcked (d : Dev) (r : Nat) (y : Desc) : Bool :=
  (List.range y.cnt).all (fun i => d.acks.contains (r, y.count, y.target + i))

/-- The outcome of a descriptor, where it has one. A write of it that was discarded at a port in D3hot makes it ACCESS_OUT_OF_MAP
(R383, R385). -/
def Dev.outcomeOf (d : Dev) (r : Nat) (y : Desc) : Option (St × List Byte) :=
  match y.outcome with
  | some o => some (if y.lost ∧ o.1 = stOk then stOutOfMap else o.1, o.2)
  | none =>
    if !y.taken then none
    else match y.op with
      | 0x31 => if d.allAcked r y then some (stOk, noResult) else none
      | 0x32 => d.coreRunOutcome r y
      | 0x33 => if d.allAcked r y then some (stOk, noResult) else none
      | _ => none

/-- CROSS_PORT_FLUSH (R420): the flush read of a descriptor that has its outcome, or of a FENCE whose waits are done, is issued
on a port and answered. A read to a port in D3hot waits (R385). -/
def execCrossPortFlush (ring : Fin 64) (count : Word) (port : PciePort) (resp : HostResp) (s : State) :
    Host.Outcome State Fault Refusal :=
  s.act (fun d => match d.desc ring count with
    | none => d
    | some y =>
      let due := if y.op = 1 then y.taken && y.waitsDone else (d.outcomeOf ring y).isSome
      match (d.flushPorts ring y).find? (fun p => p.1 == port) with
      | none => d
      | some (_, a) =>
        if !due || y.finished || y.flushed.contains port || (d.port port).d3hot then d
        else
          let st := if d.pcieUp port then flushStatus resp else stOutOfMap
          let d := d.emit port (.flushRead a)
          let own := (d.outcomeOf ring y).getD (stOk, noResult)
          d.mapDesc ring count (fun z => { z with
            flushed := z.flushed ++ [port]
            outcome := if y.op = 1 ∧ st = stOk then z.outcome
              else some (if own.1 = stOk then st else own.1, if y.op = 1 then y.fenceResult else own.2) }))

/-! ### Finishing and halting (R425 to R428) -/

/-- The statuses that halt a ring (R425). -/
def haltingStatus (st : St) : Bool :=
  [stMemUnc, stOutOfMap, stLinkLost, stFillAborted, stNvInhibited, stCollided, stCapReduced].contains st

/-- Changes what every FENCE waits for. -/
def Dev.mapWaits (d : Dev) (w : FenceWait → FenceWait) : Dev :=
  let f (y : Desc) : Desc := { y with waits := y.waits.map w }
  { d with rings := d.rings.map (fun x => (x.1, { x.2 with started := x.2.started.map f, orphans := x.2.orphans.map f })) }

/-- A descriptor reports ABORTED_AFTER_ERROR in place of its own status, which is logged where it is not OK, and FENCEs that wait
for it count it as not OK (R419, R426). -/
def Dev.abortDesc (d : Dev) (r : Nat) (k : Word) : Dev :=
  match (d.ring r).started.find? (fun y => y.count == k) with
  | none => d
  | some y =>
    if y.status = stAborted then d
    else
      let d := if y.status = stOk then d else d.logDesc 3 r y y.status true
      (d.mapDesc r k (fun z => { z with status := stAborted })).mapWaits (fun x =>
        if x.ring = r ∧ x.count = k ∧ x.done = some true then { x with done := some false } else x)

/-- Every FENCE hears that a descriptor has finished (R418, R419). -/
def Dev.tellFences (d : Dev) (r : Nat) (k : Word) (st : St) : Dev :=
  d.mapWaits (fun x => if x.ring = r ∧ x.count = k ∧ x.done = none then { x with done := some (decide (st = stOk)) } else x)

/-- Forgets what cores have reported for a descriptor that has finished. -/
def Dev.forgetRuns (d : Dev) (r : Nat) (k : Word) : Dev :=
  { d with
    runDone := d.runDone.filter (fun x => !(x.ring == r && x.count == k))
    acks := d.acks.filter (fun x => !(x.1 == r && x.2.1 == k)) }

/-- The ring halts at a descriptor with a halting status (R426, R427). -/
def Dev.haltAt (d : Dev) (r : Nat) (k : Word) : Dev :=
  let x := d.ring r
  let d := if d.rd (F.RING_STATE r) = rsRunning then d.wr (F.RING_STATE r) rsHalted else d
  let d := (d.setRing r { x with halt := some k }).wr (F.HALT_INDEX r) (k.toNat % d.ringSize r)
  (x.started.filter (fun y => y.finished && before32 k y.count)).foldl (fun e y => e.abortDesc r y.count) d

/-- A started descriptor finishes with its outcome (R384, R426 to R428). -/
def Dev.finishDesc (d : Dev) (r : Nat) (y : Desc) (st : St) (res : List Byte) : Dev :=
  let d := (d.tellFences r y.count st).forgetRuns r y.count
  let x := d.ring r
  if x.orphans.any (fun z => z.count == y.count) then
    d.setRing r { x with orphans := x.orphans.filter (fun z => z.count != y.count) }
  else
    let d := d.mapDesc r y.count (fun z => { z with taken := true, finished := true, status := st, result := res })
    if haltingStatus st ∧ d.rd (F.CONT_ERR r) = 0 then
      match x.halt with
      | none => d.haltAt r y.count
      | some h => if before32 y.count h then d.haltAt r y.count else d.abortDesc r y.count
    else match x.halt with
      | some h => if before32 h y.count then d.abortDesc r y.count else d
      | none => d

/-- DESCRIPTOR_FINISH (R410, R420, R426): a descriptor with an outcome, whose writes have all been issued and whose flush reads have been
answered, finishes. -/
def execDescriptorFinish (ring : Fin 64) (count : Word) (s : State) : Host.Outcome State Fault Refusal :=
  s.act (fun d => match d.desc ring count with
    | none => d
    | some y => match d.outcomeOf ring y with
      | none => d
      | some (st, res) => if y.finished || !y.held.isEmpty || !d.flushDone ring y then d else d.finishDesc ring y st res)

/-! ### Posting records (R401 to R404) -/

/-- The 32 B completion record of a finished descriptor (R401, R402). -/
def Dev.record (d : Dev) (r : Nat) (y : Desc) : List Byte :=
  let n := d.ringSize r
  let phase := if y.count.toNat / n % 2 = 0 then 1 else 0
  leBytes 4 (y.at 4 4) ++ leBytes 2 y.status.toNat ++ leBytes 2 (y.count.toNat % n) ++ leBytes 1 (phase + 2 * r) ++ leBytes 7 0 ++
    (y.result ++ noResult).take 16

/-- COMPLETION_POST (R385, R401 to R404): the record of count P is posted, and the ring's vector raised where due. -/
def execCompletionPost (ring : Fin 64) (s : State) : Host.Outcome State Fault Refusal :=
  s.act (fun d =>
    let x := d.ring ring
    let p := d.ringPort ring
    match x.started.find? (fun y => y.count.toNat == d.cntP ring) with
    | none => d
    | some y =>
      if !y.finished || (d.port p).d3hot then d
      else
        let a := d.rd (F.CQ_BASE ring) / 4096 * 4096 + 32 * (y.count.toNat % d.ringSize ring)
        let d := d.emit p (.record ring a (d.record ring y))
        let d := d.setRing ring { x with started := x.started.filter (fun z => z.count != y.count) }
        let d := d.wr (F.CQ_POSTED ring) (d.cntP ring + 1)
        if y.irq ∨ (y.status ≠ stOk ∧ d.rd (F.IRQ_ERR ring) = 1) then d.ringIrq ring else d)

end Sys2Proof.Machine
end

