-- ==== Sys2Proof/Machine/Tick.lean ====
section
/-! DEFINITION. What one millisecond of the block's clocks does when no command waits (DESIGN CHOICE, log 4): OP_TIME_MS and the
phase tags of running cores advance, and the error counts that R285 takes within one second lose what is older. -/
namespace Sys2Proof.Machine
open Sys2Proof

/-- TIME's step in one cycle at multiple `m`: 10 · 2^20 / m, rounded to nearest (R332). -/
def timeStep (m : Nat) : Nat := (2 * 10485760 + m) / (2 * m)

/-- Adds `n` cycles at multiple `m` to the current tag; both counters saturate (R332). -/
def Core.addCycles (c : Core) (n m : Nat) : Core :=
  let k := c.curTag
  let cy := Tab.get c.cyc k 0 + n
  let ti := Tab.get c.time k 0 + n * timeStep m
  { c with
    cyc := Tab.set c.cyc k (min cy (2 ^ 64 - 1)) 0
    time := Tab.set c.time k (min ti (2 ^ 64 - 1)) 0
    satd := c.satd || decide (cy ≥ 2 ^ 64) || decide (ti ≥ 2 ^ 64) }

/-- The multiple at which a core's island runs: MULT_NOW, or 4 while it coasts (R332, R333). -/
def Dev.coreMult (d : Dev) (n : Nat) : Nat := if d.rd F.COASTING = 1 then 4 else max 1 (d.rd (F.MULT_NOW (d.dieOf n)))

/-- One millisecond of a core: only RUNNING cores count (R332). -/
def Dev.tickCore (d : Dev) (n : Nat) : Dev :=
  let c := d.core n
  match c.status with
  | .running => d.setCore n (c.addCycles (d.coreMult n * 100000) (d.coreMult n))
  | _ => d

/-- Whether the rails that count operating time are up (R504). -/
def Phase.railsUp (p : Phase) : Bool :=
  match p with
  | .run => true
  | .retain => true
  | .recovery => true
  | _ => false

/-- Forgets the error counts that are a second old (R285). -/
def Tier.prune (t : Tier) (now : Nat) : Tier :=
  { t with
    ueWords := t.ueWords.filter (fun w => decide (now < w.2 + 1000))
    ceTimes := t.ceTimes.filterMap (fun x =>
      let l := x.2.filter (fun y => decide (now < y.1 + 1000))
      if l.isEmpty then none else some (x.1, l)) }

/-- One millisecond without a command (log 4). -/
def Dev.tick (d : Dev) : Dev :=
  if d.sys.phase.railsUp then
    let t := d.rd F.OP_TIME_MS
    let d := d.wr F.OP_TIME_MS (t + 1)
    let d := (List.range d.coreCount).foldl Dev.tickCore d
    { d with tier := d.tier.prune (t + 1) }
  else d

end Sys2Proof.Machine
end

