-- ==== Sys2Proof/Machine/CoreDesc.lean ====
section
/-! DEFINITION. COPY (R400) and the descriptors of programs: APO_TRANSLATE, CODE_LOAD, CORE_RUN, CORE_STOP, STEP_REPORT
(R197 to R207, R335 to R338). -/
namespace Sys2Proof.Machine
open Sys2Proof

/-! ### Descriptor accesses -/

/-- A write of a descriptor's: collisions apply, and writes through the other port are remembered (R254, R407, R420). Answers the
result and the number of the next shared-port access. -/
def Dev.descStore (d : Dev) (r : Nat) (y : Desc) (a : Nat) (bs : List Byte) (fin : Nat → Bool) (drops : Drops) (k : Nat) : Res × Nat :=
  let w := d.storeC a bs r fin none drops k
  (⟨w.1.dev.noteOther r y.count a w.1.done, w.1.dev.capStatus y.nearTop w.1.st (w.1.dev.badAddr a bs.length), w.1.done⟩, w.2)

/-- A read of a descriptor's, with its status under R295. -/
def Dev.descLoad (d : Dev) (y : Desc) (a n : Nat) : Dev × St × List Byte :=
  let x := d.load a n
  (x.1, x.1.capStatus y.nearTop x.2.1 (x.1.badAddr a n), x.2.2)

/-! ### COPY (R400) -/

/-- The piece size of the CXE. -/
def pieceLen : Nat := 8192

/-- Copies piece after piece, each read in full before it is written: the status and the bytes written without gaps. -/
def Dev.copyGo (d : Dev) (r : Nat) (y : Desc) (src dst : Nat) (drops : Drops) (ps : List (Nat × Nat)) (k sofar : Nat) : Dev × St × Nat :=
  match ps with
  | [] => (d, stOk, sofar)
  | p :: rest =>
    let x := d.descLoad y ((src + p.1) % 2 ^ 64) p.2
    if x.2.1 ≠ stOk then (x.1, x.2.1, sofar)
    else
      let w := x.1.descStore r y ((dst + p.1) % 2 ^ 64) x.2.2 (fun _ => false) drops k
      if w.1.st ≠ stOk then (w.1.dev, w.1.st, sofar + w.1.done)
      else w.1.dev.copyGo r y src dst drops rest w.2 (sofar + p.2)

/-- COPY (R400). -/
def execCopy (ring : Fin 64) (count : Word) (drops : Drops) (s : State) : Host.Outcome State Fault Refusal :=
  s.act (fun d => d.runDesc ring count 0x20 (fun d y =>
    let x := d.copyGo ring y y.addr (y.at 0x18 8) drops (rowPieces y.len pieceLen) 0 0
    (x.1, some (x.2.1, leBytes 8 x.2.2))))

/-! ### APO_TRANSLATE (R206, R207) -/

/-- What the loader finds wrong with an APO's header or hash, with the failing offset: the codes that apply (R206, R207). -/
def Dev.apoErrors (d : Dev) (apo : List Byte) : List (Nat × Nat) :=
  let body := (apo.drop 64).take (field apo 8 4)
  (if field apo 0 4 ≠ 0x314F5041 then [(1, 0)] else []) ++
  (if field apo 6 2 ≥ 2 then [(1, 6)] else []) ++
  (if field apo 0x30 16 ≠ 0 then [(1, 0x30)] else []) ++
  (if sha256 body ≠ (apo.drop 0x10).take 32 then [(2, 0x10)] else []) ++
  (if field apo 4 1 < 1 ∨ 3 < field apo 4 1 ∨ d.rd F.ADECIA_MINOR < field apo 5 1 then [(3, 4)] else [])

/-- The SNC region that a translation writes: the entry table, then the code (R207). -/
def apoRegion (n : Nat) (o : Config.ApoOut) : List Byte :=
  (List.range n).flatMap (fun k => let e := o.entries.getD k (0, k); leBytes 8 e.1 ++ leBytes 4 e.2 ++ leBytes 4 0) ++ o.code

/-- SFMODE 1 as a translator version spells it, where an OP names SFMODE (R168, R185, R192). -/
def pewterWord (ver : Nat) : Option (List Byte) :=
  ((List.range 256).find? (fun c => decide (Config.sfuOp ver c = some .sfmode))).map (fun c => leBytes 8 (5 * 2 ^ 60 + c * 2 ^ 52 + 1))

/-- Puts a word at the entry of each kernel of a translated region of `n` kernels (R205, R207). -/
def atEntries (n : Nat) (w : List Byte) (entries : List (Nat × Nat)) (bs : List Byte) : List Byte :=
  (entries.take n).foldl (fun t e =>
    if 16 * n ≤ e.1 ∧ e.1 + 8 ≤ t.length then t.take e.1 ++ w ++ t.drop (e.1 + 8) else t) bs

/-- The region of an APO: one whose header sets PEWTER has an SFMODE 1 at every kernel entry (R205, R206, log 35). -/
def apoBytes (ver n : Nat) (pewter : Bool) (o : Config.ApoOut) : List Byte :=
  match (if pewter then pewterWord ver else none) with
  | some w => atEntries n w o.entries (apoRegion n o)
  | none => apoRegion n o

/-- The result of a translation that failed (R207). -/
def apoFail (code off : Nat) : List Byte := leBytes 6 0 ++ leBytes 1 code ++ leBytes 1 0 ++ leBytes 8 off

/-- APO_TRANSLATE (R197, R207). Where several header errors apply the spec does not order them, and a free choice picks one
(log 35). -/
def Dev.apoTranslate (d : Dev) (r : Nat) (y : Desc) (drops : Drops) : Dev × Option (St × List Byte) :=
  if y.len = 0 then (d, some (stOk, noResult))
  else
    let x := d.descLoad y y.addr y.len
    if x.2.1 ≠ stOk then (x.1, some (x.2.1, noResult))
    else
      let apo := x.2.2
      let dest := y.at 0x18 8
      let cap := y.at 0x20 4
      match x.1.apoErrors apo with
      | e :: es =>
        let f := x.1.draw
        let c := (e :: es).getD (f.1 % (es.length + 1)) e
        (f.2, some (stTranslateFailed, apoFail c.1 c.2))
      | [] =>
        let n := field apo 0xC 4
        let o := Config.apoTranslate (x.1.rd F.TRANSLATOR_VER) apo
        let bytes := apoBytes (x.1.rd F.TRANSLATOR_VER) n (bit (field apo 6 1) 0) o
        let w := x.1.descStore r y dest (bytes.take cap) (fun _ => false) drops 0
        if w.1.st ≠ stOk then (w.1.dev, some (w.1.st, noResult))
        else if 4 ≤ o.err ∧ o.err ≤ 6 then (w.1.dev, some (stTranslateFailed, apoFail o.err o.errOff))
        else if cap < bytes.length then (w.1.dev, some (stTranslateFailed, apoFail 7 o.errOff))
        else (w.1.dev, some (stOk, leBytes 4 bytes.length ++ leBytes 2 n))

/-- APO_TRANSLATE (R207). -/
def execApoTranslate (ring : Fin 64) (count : Word) (drops : Drops) (s : State) : Host.Outcome State Fault Refusal :=
  s.act (fun d => d.runDesc ring count 0x30 (fun d y => d.apoTranslate ring y drops))

/-! ### CODE_LOAD, CORE_RUN, CORE_STOP (R197 to R203, R480) -/

/-- An action for a core: pending at a RUNNING one, taken at once elsewhere (R201). -/
def Dev.giveAction (d : Dev) (n : Nat) (a : PendAct) : Dev :=
  let c := d.core n
  match c.status with
  | .running => d.setCore n { c with actions := c.actions ++ [a] }
  | _ => d.takeAction n a

/-- The cores of a descriptor's range. -/
def Desc.cores (y : Desc) : List Nat := (List.range y.cnt).map (fun i => y.target + i)

/-- CODE_LOAD (R203). -/
def execCodeLoad (ring : Fin 64) (count : Word) (s : State) : Host.Outcome State Fault Refusal :=
  s.act (fun d => d.runDesc ring count 0x31 (fun d y =>
    if y.len = 0 ∨ y.cnt = 0 then (d, some (stOk, noResult))
    else if d.nearTop < y.addr + y.len then (d, some (d.capStatus y.nearTop stOutOfMap (max y.addr d.nearTop), noResult))
    else (y.cores.foldl (fun e n => e.giveAction n (.load ring count y.addr y.len (y.at 0x18 4))) d, none)))

/-- CORE_RUN (R198): an IDLE or STOPPED core starts, a RUNNING one finishes its program first. -/
def execCoreRun (ring : Fin 64) (count : Word) (s : State) : Host.Outcome State Fault Refusal :=
  s.act (fun d => d.runDesc ring count 0x32 (fun d y =>
    if y.cnt = 0 then (d, some (stOk, noResult))
    else
      let q : RunReq := ⟨ring, count, y.addr % 2 ^ 32, bit (y.at 0x18 1) 0⟩
      (y.cores.foldl (fun e n =>
        let c := e.core n
        match c.status with
        | .running => e.setCore n { c with runQ := c.runQ ++ [q] }
        | _ => e.startRun n q) d, none)))

/-- CORE_STOP (R200): immediate, or at the next YIELD. -/
def execCoreStop (ring : Fin 64) (count : Word) (s : State) : Host.Outcome State Fault Refusal :=
  s.act (fun d => d.runDesc ring count 0x33 (fun d y =>
    if y.cnt = 0 then (d, some (stOk, noResult))
    else
      let d := y.cores.foldl (fun e n => e.giveAction n (.stop ring count)) d
      (if bit (y.at 0x18 1) 0 then d else y.cores.foldl Dev.stopNow d, none)))

/-! ### STEP_REPORT (R335 to R338) -/

/-- CYC of a tag. -/
def Core.cycOf (c : Core) (t : Nat) : Nat := Tab.get c.cyc t 0
/-- TIME of a tag. -/
def Core.timeOf (c : Core) (t : Nat) : Nat := Tab.get c.time t 0

/-- The indications COAST, MULT_CHANGED and SAT of a core (R337). -/
def Core.indications (c : Core) : Nat := b2n c.coast + 2 * b2n c.multChg + 4 * b2n c.satd

/-- A sum that saturates at 64 bits. -/
def satSum (xs : List Nat) : Nat := xs.foldl (satAdd 64) 0

/-- The 64 tags. -/
def tags : List Nat := List.range 64

/-- A core record (R337). -/
def Dev.coreRecord (d : Dev) (n step : Nat) : List Byte :=
  let c := d.core n
  leBytes 2 n ++ leBytes 1 c.indications ++ leBytes 1 (d.coreMult n) ++ leBytes 4 step ++
    leBytes 8 (satSum (tags.map c.cycOf)) ++ leBytes 8 (satSum (tags.map c.timeOf)) ++ leBytes 8 0 ++
    tags.flatMap (fun t => leBytes 8 (c.cycOf t) ++ leBytes 8 (c.timeOf t))

/-- Clears a core's counters and indications (R336); during a coast COAST is set again at once (R333). -/
def Core.clearTags (c : Core) : Core := { c with cyc := [], time := [], coast := false, multChg := false, satd := false }

/-- The summary over the cores as they stood at their snapshots (R337). -/
def stepSummary (cs : List Core) (step : Nat) : List Byte :=
  leBytes 4 step ++ leBytes 2 cs.length ++ leBytes 1 (cs.foldl (fun m c => m ||| c.indications) 0) ++ leBytes 25 0 ++
    tags.flatMap (fun t =>
      let ins := cs.filter (fun c => decide (c.cycOf t ≠ 0))
      let ts := ins.map (fun c => c.timeOf t)
      leBytes 8 (ts.foldl max 0) ++ leBytes 8 (ts.foldl min (ts.headD 0)) ++ leBytes 8 (satSum ts) ++ leBytes 4 ins.length ++ leBytes 4 0)

/-- Writes core records one after the other: each is snapshot and cleared once its record is written (R336, R338). Answers the number
written, the cores as snapshot, the status, and the number `acc` of the next shared-port access. -/
def Dev.reportGo (d : Dev) (r : Nat) (y : Desc) (base : Nat) (drops : Drops) (ns : List Nat) (k acc : Nat) (seen : List Core) :
    Dev × St × Nat × Nat × List Core :=
  match ns with
  | [] => (d, stOk, k, acc, seen)
  | n :: rest =>
    let w := d.descStore r y ((base + 1056 * k) % 2 ^ 64) (d.coreRecord n (y.at 0x18 4)) (fun _ => false) drops acc
    if w.1.st ≠ stOk then (w.1.dev, w.1.st, k, w.2, seen)
    else
      let c := w.1.dev.core n
      let d := if bit (y.at 0x1C 1) 0 then w.1.dev
        else w.1.dev.setCore n { c.clearTags with coast := decide (w.1.dev.rd F.COASTING = 1) }
      d.reportGo r y base drops rest (k + 1) w.2 (seen ++ [c])

/-- STEP_REPORT (R335 to R338). -/
def Dev.stepReport (d : Dev) (r : Nat) (y : Desc) (drops : Drops) : Dev × Option (St × List Byte) :=
  let base := y.addr / 8 * 8
  let fit := min y.cnt (y.len / 1056)
  let x := d.reportGo r y base drops (y.cores.take fit) 0 0 []
  let whole := decide (y.cnt ≠ 0) && decide (1056 * y.cnt + 2080 ≤ y.len)
  if x.2.1 ≠ stOk then (x.1, some (x.2.1, leBytes 4 x.2.2.1))
  else if whole then
    let w := x.1.descStore r y ((base + 1056 * y.cnt) % 2 ^ 64) (stepSummary x.2.2.2.2 (y.at 0x18 4)) (fun _ => false) drops x.2.2.2.1
    (w.1.dev, some (w.1.st, leBytes 4 x.2.2.1 ++ leBytes 1 (b2n (w.1.st == stOk))))
  else (x.1, some (stOk, leBytes 4 x.2.2.1 ++ leBytes 1 0))

/-- STEP_REPORT (R335). -/
def execStepReport (ring : Fin 64) (count : Word) (drops : Drops) (s : State) : Host.Outcome State Fault Refusal :=
  s.act (fun d => d.runDesc ring count 0x34 (fun d y => d.stepReport ring y drops))

end Sys2Proof.Machine
end

