-- ==== Sys2Proof/Machine/Links.lean ====
section
/-! DEFINITION. The Maelbuol links (R339 to R366, R374 to R377) and their skid reserves (R246 to R249): training, flits, credits,
sequence and resending, stop, packets, routing, link descriptors, link loss. -/
namespace Sys2Proof.Machine
open Sys2Proof

/-! ### Flits (R343, R344) -/

/-- What a port tells its neighbour in every flit (R343): STOP, NACK, ACK, and credits of one VC. -/
structure FlitHead where
  stop : Bool
  nack : Bool
  ack  : Nat
  cred : Option (Nat × Nat)

/-- The 256 B of a flit, without its CRC: an IDLE flit where there is no DATA (R343), with a payload in training's step 6 alone (R341). -/
def flitBody (h : FlitHead) (seq : Nat) (f : Option Flit) (init : List Byte := []) : List Byte :=
  let vc := match f with | some f => f.vc | none => 0
  let dat := match f with | some f => f.data | none => init
  let c := h.cred.getD (0, 0)
  let edge := match f with | some f => b2n f.sop + 2 * b2n f.eop | none => 0
  leBytes 1 (b2n f.isSome + 16 * (vc % 8) + 128 * b2n h.stop) ++ leBytes 1 (c.1 % 8 + 8 * b2n h.cred.isSome + 16 * b2n h.nack) ++
    leBytes 1 c.2 ++ leBytes 1 0 ++ leBytes 2 seq ++ leBytes 2 h.ack ++ leBytes 1 edge ++ leBytes 1 0 ++
    leBytes 2 dat.length ++ (dat ++ List.replicate 240 0).take 240

/-- The 256 B of a flit (R344). -/
def flitBytes (h : FlitHead) (seq : Nat) (f : Option Flit) (init : List Byte := []) : List Byte :=
  let b := flitBody h seq f init
  b ++ leBytes 4 (crc32 b).toNat

/-- Whether a received flit's CRC holds (R344). -/
def flitCrcOk (bs : List Byte) : Bool := (crc32 (bs.take 0xFC)).toNat == field bs 0xFC 4

/-- The DATA flit that 256 B spell (R343). -/
def parseFlit (bs : List Byte) : Flit :=
  ⟨bits (field bs 0 1) 4 3, bit (field bs 8 1) 0, bit (field bs 8 1) 1, (bs.drop 0xC).take (min 240 (field bs 0xA 2))⟩

/-! ### Sending flits (R346, R350 to R354) -/

/-- The lowest VC that has credits to return (log 38). -/
def Link.owing (l : Link) : Option (Nat × Nat) :=
  ((List.range 8).find? (fun v => decide (0 < Tab.get l.owed v 0))).map (fun v => (v, min 255 (Tab.get l.owed v 0)))

/-- Puts one flit on the wire, with what the port tells its neighbour. -/
def Link.put (l : Link) (seq : Nat) (f : Option Flit) : Link :=
  let c := l.owing
  let w := flitBytes ⟨l.stopOut, l.nacking, l.rxLast, c⟩ seq f
  { l with
    wire := l.wire ++ [w]
    owed := match c with
      | some (v, n) => Tab.set l.owed v (Tab.get l.owed v 0 - n) 0
      | none => l.owed }

/-- Takes flit `s` of the replay buffer for a resend, and names the one after it (R351, R352). -/
def Link.resendOne (l : Link) (s : Nat) : Link :=
  match l.replay.dropWhile (fun x => x.1 != s) with
  | [] => ({ l with resendAt := none } : Link).put 0 none
  | (_, f) :: rest =>
    let l1 : Link := { l with resends := Tab.set l.resends s (Tab.get l.resends s 0 + 1) 0, resendAt := rest.head?.map (fun x => x.1) }
    l1.put s (some f)

/-- The place of the first waiting flit whose VC has a credit (R346, log 38). -/
def Link.sendable (l : Link) : Option Nat :=
  if 2048 ≤ l.replay.length then none else l.txq.findIdx? (fun f => decide (0 < Tab.get l.credits f.vc 0))

/-- Sends a new DATA flit: it uses a credit and stays in the replay buffer (R346, R350, R351). -/
def Link.sendNew (l : Link) (i : Nat) : Link :=
  match l.txq[i]? with
  | none => l
  | some f =>
    { l with
      txq := l.txq.eraseIdx i
      replay := l.replay ++ [(l.txSeq, f)]
      txSeq := (l.txSeq + 1) % 65536
      credits := Tab.set l.credits f.vc (Tab.get l.credits f.vc 0 - 1) 0 }.put l.txSeq (some f)

/-- The next flit a port sends: a resend, a new DATA flit, or IDLE (R343, R351, R353, R354). -/
def Link.sendNext (l : Link) : Link :=
  if l.stopIn then l.put 0 none
  else match l.resendAt with
    | some s => l.resendOne s
    | none => match l.sendable with
      | some i => l.sendNew i
      | none => l.put 0 none

/-- FLIT_SEND (R343): in Retain a port sends IDLE flits alone (R466). -/
def execFlitSend (link : Fin 18) (s : State) : Host.Outcome State Fault Refusal :=
  s.act (fun d =>
    if d.linkUp link then
      d.setLink link (match d.sys.phase with | .retain => (d.link link).put 0 none | _ => (d.link link).sendNext)
    else d)

/-! ### Receiving flits (R246 to R248, R344, R346, R350, R353) -/

/-- An ACK of `a` acknowledges every flit up to it; one that names no unacknowledged flit changes nothing (R350). -/
def Link.acked (l : Link) (a : Nat) : Link :=
  if l.replay.any (fun x => x.1 == a) then
    let rest := (l.replay.dropWhile (fun x => x.1 != a)).drop 1
    let gone := l.replay.take (l.replay.length - rest.length)
    { l with
      replay := rest
      resends := gone.foldl (fun t x => Tab.erase t x.1) l.resends
      resendAt := match l.resendAt with
        | none => none
        | some s => if rest.any (fun x => x.1 == s) then some s else rest.head?.map (·.1) }
  else l

/-- A NACK starts a resend, once for each ACK value; true where it starts one (R351). -/
def Link.nacked (l : Link) (a : Nat) : Link × Bool :=
  if l.nackSeen = some a then (l, false)
  else match l.replay with
    | [] => ({ l with nackSeen := some a }, false)
    | x :: _ => ({ l with nackSeen := some a, resendAt := some x.1 }, true)

/-- What every flit that passes CRC tells: STOP, credits, ACK and NACK (R343, R351, R353). -/
def Link.heard (l : Link) (bs : List Byte) : Link × Bool :=
  let b1 := field bs 1 1
  let l := { l with
    stopIn := bit (field bs 0 1) 7
    credits := if bit b1 3 then Tab.set l.credits (bits b1 0 3) (Tab.get l.credits (bits b1 0 3) 0 + field bs 2 1) 0 else l.credits }
  let l := l.acked (field bs 6 2)
  if bit b1 4 then l.nacked (field bs 6 2) else (l, false)

/-- The flits of a port's receive area (R346). -/
def areaFlits : Nat := 1024

/-- Where an in-sequence DATA flit goes: the receive area, the skid reserve, or nowhere (R247, R248). -/
inductive Landing where
  | area
  | skid
  | dropped
  deriving DecidableEq, Repr

/-- Flits land in the receive area until the port has sent stop, and from then on, until it withdraws it, in the skid reserve, in arrival
order (R247). -/
def Link.landing (l : Link) : Landing :=
  if !l.stopOut && l.skid.isEmpty && decide (l.rxArea.length < areaFlits) then .area
  else if (l.skid.length + 1) * 256 ≤ l.skidSize then .skid
  else .dropped

/-- Asks the neighbour to stop once the receive area is full (R247, R347, R353). -/
def Dev.stopIfFull (d : Dev) (p : Nat) : Dev :=
  let l := d.link p
  if areaFlits ≤ l.rxArea.length ∧ l.stopOut = false then
    (d.setLink p { l with stopOut := true }).wr (F.STOPS_SENT p) (satAdd 32 (d.rd (F.STOPS_SENT p)) 1)
  else d

/-- A flit that finds the skid reserve full (R248). -/
def Dev.skidDrop (d : Dev) (p : Nat) : Dev :=
  let d := if bit (d.rd F.SKID_OVR) p then d else (d.setBit F.SKID_OVR p).log 2 (0x300 + p) 0x103 []
  let d := d.wr F.SKID_DROPS (satAdd 32 (d.rd F.SKID_DROPS) 1)
  d.setLink p { d.link p with nacking := true }

/-- A DATA flit (R247, R248, R350). -/
def Dev.dataFlit (d : Dev) (p : Nat) (bs : List Byte) : Dev :=
  let l := d.link p
  let s := field bs 4 2
  if s ≠ (l.rxLast + 1) % 65536 then d.setLink p { l with nacking := true }
  else
    let f := parseFlit bs
    match l.landing with
    | .area => (d.setLink p { l with rxLast := s, nacking := false, rxArea := l.rxArea ++ [f] }).stopIfFull p
    | .skid => d.setLink p { l with rxLast := s, nacking := false, skid := l.skid ++ [f] }
    | .dropped => d.skidDrop p

/-- The flits of the first whole packet of VC `v`, where its EOP has come (R348, R358). -/
def firstPacket (fs : List Flit) (v : Nat) : Option (List Flit) :=
  let own := fs.filter (fun f => f.vc == v)
  match own.findIdx? (fun f => f.eop) with
  | some i => some (own.take (i + 1))
  | none => none

/-- Takes the first `n` flits of VC `v` out of a list. -/
def dropVc (fs : List Flit) (v n : Nat) : List Flit :=
  match fs with
  | [] => []
  | f :: r => if n = 0 then f :: r else if f.vc = v then dropVc r v (n - 1) else f :: dropVc r v n

/-- The queue that a packet's write belongs to: its sender's (R408). -/
def Pkt.held (k : Pkt) : HeldSrc := .peer k.src k.sq

/-- Where a packet goes from hold-back (R244, R409): a WRITE to the memory or window of its address, anything else for this device to
its memory's order (log 14), a transit packet to its device. -/
def Dev.pktDest (d : Dev) (k : Pkt) : Dest :=
  if k.dst ≠ d.myId then .device k.dst
  else if k.pop = popWrite then
    match d.region k.addr with
    | some (.win p, _, _) => .host p
    | _ => .memory
  else .memory

/-- The number that the stores know a held write's source queue by (R407, R408). -/
def heldQueue (h : HeldSrc) : Nat := match h with | .own q => q.toNat | .peer src q => peerQueue src q

/-- The bytes that a source queue holds in hold-back, those that wait at a port in D3hot among them (R245, R385). -/
def Dev.heldBytes (d : Dev) (src : HeldSrc) : Nat :=
  d.waitingBytes (heldQueue src) + (d.hold.filter (fun h => h.src == src)).foldl (fun n h => n + match h.body with
    | .bytes _ bs => bs.length
    | .packet _ k => k.data.length) 0

/-- Drains whole packets of VC `v` into hold-back while its queue has room, those kept from before a loss first; the flits that used
credits of this training have them due back (R245, R247, R346, R375). -/
def Dev.drainVc (d : Dev) (p v fuel : Nat) : Dev :=
  match fuel with
  | 0 => d
  | n + 1 =>
    let l := d.link p
    match firstPacket (l.kept ++ l.rxArea ++ l.skid) v with
    | none => d
    | some fs =>
      let k := Pkt.parse v (fs.flatMap (·.data))
      if 65536 < d.heldBytes k.held + k.data.length then d
      else
        let inKept := min fs.length (l.kept.filter (fun f => f.vc == v)).length
        let new := fs.length - inKept
        let inArea := min new (l.rxArea.filter (fun f => f.vc == v)).length
        let l := { l with
          kept := dropVc l.kept v inKept
          rxArea := dropVc l.rxArea v inArea
          skid := dropVc l.skid v (new - inArea)
          owed := Tab.set l.owed v (Tab.get l.owed v 0 + new) 0 }
        ({ d.setLink p l with hold := d.hold ++ [(⟨k.held, d.pktDest k, .packet p k⟩ : Held)] }).drainVc p v n

/-- Withdraws a stop once the reserve is empty and the area at most half full (R247). -/
def Dev.withdrawStop (d : Dev) (p : Nat) : Dev :=
  let l := d.link p
  if l.stopOut ∧ l.skid.isEmpty ∧ l.rxArea.length ≤ areaFlits / 2 then d.setLink p { l with stopOut := false } else d

/-- The Ingot drains a port's receive area and skid reserve (R247, R348). -/
def Dev.drainLink (d : Dev) (p : Nat) : Dev :=
  let l := d.link p
  let n := l.kept.length + l.rxArea.length + l.skid.length
  if n = 0 then d else ((List.range 8).foldl (fun e v => e.drainVc p v n) d).withdrawStop p

/-- Counts a port's codewords that FEC corrected and those it could not (R377). -/
def Dev.countFec (d : Dev) (p corr uncorr : Nat) : Dev :=
  let d := if corr = 0 then d else d.wr (F.FEC_CORR p) (satAdd 32 (d.rd (F.FEC_CORR p)) corr)
  if uncorr = 0 then d else d.wr (F.FEC_UNCORR p) (satAdd 32 (d.rd (F.FEC_UNCORR p)) uncorr)

/-- A flit arrives on a port that is up (R344, R350). -/
def Dev.takeFlit (d : Dev) (p : Nat) (flit : List Byte) : Dev :=
  if !flitCrcOk flit then d.wr (F.CRC_ERR p) (satAdd 32 (d.rd (F.CRC_ERR p)) 1)
  else
    let h := (d.link p).heard flit
    let d := d.setLink p h.1
    let d := if h.2 then d.wr (F.REPLAYS p) (satAdd 32 (d.rd (F.REPLAYS p)) 1) else d
    if bits (field flit 0 1) 0 4 = 1 then (d.wakeUp.dataFlit p flit).drainLink p else d

/-- FLIT_RECEIVE (R344, R350, R377). A DATA flit wakes the device from Retain (R468). -/
def execFlitReceive (link : Fin 18) (flit : RxFlit) (s : State) : Host.Outcome State Fault Refusal :=
  s.act (fun d => if d.linkUp link then (d.countFec link flit.corr flit.uncorr).takeFlit link flit.bytes else d)

/-- REPLAY_TIMER (R351, R353): a stop pauses the timer. -/
def execReplayTimer (link : Fin 18) (s : State) : Host.Outcome State Fault Refusal :=
  s.act (fun d =>
    let l := d.link link
    match l.replay with
    | [] => d
    | x :: _ =>
      if d.linkUp link && !l.stopIn then
        (d.setLink link { l with resendAt := some x.1, nackSeen := none }).wr (F.REPLAYS link) (satAdd 32 (d.rd (F.REPLAYS link)) 1)
      else d)

/-! ### Answering, forwarding and taking packets (R355 to R362) -/

/-- The answer to a WRITE or READ_REQ: table routed, on VC 0 or 1, with the request's TAG and SQ (R345, R355, R356, log 37). -/
def Dev.answerPkt (d : Dev) (k : Pkt) (st : St) (data : List Byte) : Pkt :=
  let w := k.pop == popWrite
  ⟨if w then 0 else 1, if w then popWriteAck else popReadResp, false, 0, 0, 32, k.src, d.myId, st.toNat, data.length, k.tag, k.sq, [], data⟩

/-- Sends the answer to a request. -/
def Dev.answer (d : Dev) (k : Pkt) (st : St) (data : List Byte) : Dev := (d.sendPkt (d.answerPkt k st data)).1

/-- A transit packet that cannot go on (R362). -/
def Dev.dropTransit (d : Dev) (k : Pkt) (st : St) : Dev :=
  let d := d.routeDropped
  if k.pop = popWrite ∨ k.pop = popReadReq then d.answer k st [] else d

/-- Forwards a transit packet (R360 to R362). A device without an ID drops it (R359). -/
def Dev.forward (d : Dev) (k : Pkt) : Dev :=
  if !d.hasId then d
  else if k.ttl ≤ 1 then d.dropTransit k stOutOfMap
  else match d.route { k with ttl := k.ttl - 1 } with
    | .go p k => d.enqueue p k
    | r => d.dropTransit k r.status

/-- Takes the first released packet of which `f` holds out of the inbox; none in Retain, where the Ingot serves no access (R261). -/
def Dev.takePkt (d : Dev) (f : Pkt → Bool) : Option (Pkt × Dev) :=
  if d.sys.phase = .retain then none
  else match d.cxe.inbox.findIdx? (fun x => f x.2) with
  | none => none
  | some i => (d.cxe.inbox[i]?).map (fun x => (x.2, d.mapCxe (fun c => { c with inbox := c.inbox.eraseIdx i })))

/-- Whether a released packet is this device's, with packet operation `pop`. -/
def Dev.mine (d : Dev) (pop : Nat) (k : Pkt) : Bool := d.hasId && k.dst == d.myId && k.pop == pop

/-- Whether a range reaches the host window of a port in D3hot, whose accesses wait (R385). -/
def Dev.winHeld (d : Dev) (a n : Nat) : Bool :=
  (windowEnds (a % 2 ^ 64) n).any (fun z => match d.region z with | some (.win p, _, _) => (d.port p).d3hot | _ => false)

/-- PACKET_FORWARD (R362). -/
def execPacketForward (s : State) : Host.Outcome State Fault Refusal :=
  s.act (fun d => match d.takePkt (fun k => !d.hasId || k.dst != d.myId) with
    | some (k, e) => e.forward k
    | none => d)

/-- A packet that hold-back releases: without an ID it is dropped, a reserved operation is dropped at its destination, anything else
waits for its row (R356, R358, R359). -/
def Dev.releasePkt (d : Dev) (p : Nat) (k : Pkt) : Dev :=
  if !d.hasId then d
  else if k.dst = d.myId ∧ (k.pop = 0 ∨ 7 ≤ k.pop) then d.pktDropped
  else d.deliver p k

/-! ### Packets in flight and their descriptors (R363, R366) -/

/-- The descriptor of a finished packet job gets its outcome: a link descriptor's, or a dispatch's (R307, R366). -/
def jobOutcome (j : PktJob) (os : List Outst) : St × List Byte :=
  let st : St := match os.find? (fun o => o.answer != some stOk) with
    | some o => o.answer.getD stOk
    | none => stOk
  match j.fixed with
  | some (s, res) => (if s = stOk then st else s, res)
  | none => (st, leBytes 8 ((os.takeWhile (fun o => o.answer == some stOk)).foldl (fun n o => n + o.len) 0))

/-- A descriptor whose packets have all been answered gets its outcome (R366). -/
def Dev.settleJob (d : Dev) (r : Nat) (k : Word) : Dev :=
  match d.cxe.jobs.find? (fun j => j.ring == r && j.count == k) with
  | none => d
  | some j =>
    let os := d.cxe.outst.filter (fun o => o.ring == r && o.count == k)
    if os.any (fun o => o.answer.isNone) then d
    else
      let x := jobOutcome j os
      (d.mapCxe (fun c => { c with
        jobs := c.jobs.filter (fun j => !(j.ring == r && j.count == k))
        outst := c.outst.filter (fun o => !(o.ring == r && o.count == k)) })).setOutcome r k x.1 (x.2 ++ noResult |>.take 16)

/-- The partner is lost before a fill is complete: the ranges are overwritten with zeros, GEN_LOCAL is 0 and the descriptor completes
FILL_ABORTED (R446). -/
def Dev.fillAbort (d : Dev) : Dev :=
  match d.twin.fill with
  | none => d
  | some j =>
    let d := d.twin.ranges.foldl (fun e g => (rowPieces g.2 maxData).foldl (fun e p =>
      (e.storeRaw (g.1 + p.1) (List.replicate p.2 0) j.ring).dev) e) d
    let d := { (d.wr F.GEN_LOCAL 0).wr F.FILL_ACTIVE 0 with twin := { d.twin with fill := none } }
    let d := match d.desc j.ring j.count with | some y => d.logDesc 3 j.ring y stFillAborted false | none => d
    d.setOutcome j.ring j.count stFillAborted noResult

/-- The partner is lost (R435), and a fill under way with it (R446). -/
def Dev.partnerLost (d : Dev) : Dev := d.partnerGone.fillAbort

/-- A status that a peer gave, as a code of R14: a reserved one, which no rule lets a device send, is a free one that is not OK
(log 6). -/
def Dev.peerStatus (d : Dev) (st : St) : Dev × St :=
  if st.toNat < 16 then (d, st)
  else
    let x := d.draw
    (x.2, BitVec.ofNat 16 (1 + x.1 % 15))

/-- The packet of a tag gets its answer. A packet that no descriptor waits for is
forgotten with it; one of the twin engine that fails LINK_LOST loses the partner (R435). -/
def Dev.answered (d : Dev) (tag : Word) (st : St) : Dev :=
  match d.cxe.outst.find? (fun o => o.tag == tag && o.answer.isNone) with
  | none => d
  | some o =>
    if d.cxe.jobs.any (fun j => j.ring == o.ring && j.count == o.count) then
      (d.mapCxe (fun c => { c with outst := c.outst.map (fun x =>
        if x.tag == tag && x.answer.isNone then { x with answer := some st } else x) })).settleJob o.ring o.count
    else
      let d := d.mapCxe (fun c => { c with outst := c.outst.filter (fun x => !(x.tag == tag)) })
      if o.ring = 0x310 ∧ st = stLinkLost then d.partnerLost else d

/-- Whether an earlier packet of a source queue to a destination is unanswered and went by another VC or route (R363). -/
def Dev.routeBusy (d : Dev) (ring : Nat) (dst : BitVec 16) (vc : Nat) (route : List Nat) : Bool :=
  d.cxe.outst.any (fun o => o.ring == ring && o.dst == dst && o.answer.isNone && (o.vc != vc || o.route != route))

/-- Where a packet of a descriptor goes and how (R363, R364). -/
structure SendTo where
  ring  : Nat
  count : Word
  dst   : BitVec 16
  vc    : Nat
  route : List Nat
  rt    : Bool

/-- Sends a WRITE or READ_REQ of a source queue under a new TAG, and remembers it as one of its packets (R355, R365, R366). -/
def Dev.sendReq (d : Dev) (tgt : SendTo) (pop addr loc len offset : Nat) (data : List Byte) : Dev :=
  let tag := BitVec.ofNat 32 d.cxe.nextTag
  let k : Pkt := ⟨tgt.vc, pop, tgt.rt, tgt.route.length, 0, 32, tgt.dst, d.myId, addr, len, tag, BitVec.ofNat 16 tgt.ring, tgt.route, data⟩
  let x := d.sendPkt k
  let o : Outst := ⟨tag, pop == popWrite, tgt.dst, tgt.vc, tgt.route, match x.2 with | .ok p => p | .error _ => 18, loc, len, tgt.ring,
    tgt.count, offset, match x.2 with | .ok _ => none | .error st => some st⟩
  x.1.mapCxe (fun c => { c with outst := c.outst ++ [o], nextTag := (c.nextTag + 1) % 2 ^ 32 })

/-- A packet that failed before it was sent: its local read did not give its data (log 37). -/
def Dev.failedReq (d : Dev) (tgt : SendTo) (len offset : Nat) (st : St) : Dev :=
  let tag := BitVec.ofNat 32 d.cxe.nextTag
  d.mapCxe (fun c => { c with
    outst := c.outst ++ [⟨tag, true, tgt.dst, tgt.vc, tgt.route, 18, 0, len, tgt.ring, tgt.count, offset, some st⟩]
    nextTag := (c.nextTag + 1) % 2 ^ 32 })

/-! ### Link descriptors (R364 to R366) -/

/-- DST_ID. -/
def Desc.dstId (y : Desc) : BitVec 16 := BitVec.ofNat 16 (y.at 0x18 2)
/-- RT. -/
def Desc.linkRt (y : Desc) : Bool := bit (y.at 0x1A 1) 3
/-- The source route that a descriptor selects, none with RT = 0. -/
def Desc.linkRoute (y : Desc) : List Nat :=
  if y.linkRt then (List.range (min 6 (bits (y.at 0x1B 1) 0 4))).map (fun h => y.at (0x1C + h) 1) else []
/-- REMOTE. -/
def Desc.remote (y : Desc) : Nat := y.at 0x28 8
/-- The VC of a LINK_WRITE: 3 to 6, else the default (R345). -/
def Desc.linkVc (y : Desc) : Nat := let v := bits (y.at 0x1A 1) 0 3; if 3 ≤ v ∧ v ≤ 6 then v else 6

/-- Sends the packets of a LINK_WRITE; a read that fails ends it (R365, log 37). -/
def Dev.linkWriteGo (d : Dev) (y : Desc) (tgt : SendTo) (ps : List (Nat × Nat)) : Dev :=
  match ps with
  | [] => d
  | p :: rest =>
    let x := d.descLoad y ((y.addr + p.1) % 2 ^ 64) p.2
    if x.2.1 ≠ stOk then x.1.failedReq tgt p.2 p.1 x.2.1
    else (x.1.sendReq tgt popWrite ((y.remote + p.1) % 2 ^ 64) 0 p.2 p.1 x.2.2).linkWriteGo y tgt rest

/-- Sends the packets of a LINK_READ (R365). -/
def Dev.linkReadGo (d : Dev) (y : Desc) (tgt : SendTo) (ps : List (Nat × Nat)) : Dev :=
  match ps with
  | [] => d
  | p :: rest =>
    (d.sendReq tgt popReadReq ((y.remote + p.1) % 2 ^ 64) ((y.addr + p.1) % 2 ^ 64) p.2 p.1 []).linkReadGo y tgt rest

/-- A link descriptor to this device itself: a copy through the Ingot, counted in whole packets (R365, R366). -/
def Dev.linkLocal (d : Dev) (r : Nat) (y : Desc) (src dst : Nat) (drops : Drops) : Dev × Option (St × List Byte) :=
  let x := d.copyGo r y src dst drops (rowPieces y.len maxData) 0 0
  if x.2.1 = stWait then (d, some (stWait, []))
  else (x.1, some (x.2.1, leBytes 8 (if x.2.1 = stOk then y.len else x.2.2 / maxData * maxData)))

/-- LINK_WRITE and LINK_READ (R359, R363 to R366). A local read that must wait for a host port holds the whole descriptor (R385). -/
def Dev.linkDesc (d : Dev) (r : Nat) (y : Desc) (write : Bool) (drops : Drops) : Dev × Option (St × List Byte) :=
  let tgt : SendTo := ⟨r, y.count, y.dstId, if write then y.linkVc else 2, y.linkRoute, y.linkRt⟩
  if y.len = 0 then (d, some (stOk, noResult))
  else if !d.hasId then (d, some (stOutOfMap, noResult))
  else if y.dstId = d.myId then
    if write then d.linkLocal r y y.addr y.remote drops else d.linkLocal r y y.remote y.addr drops
  else if d.routeBusy r y.dstId tgt.vc tgt.route then (d, some (stWait, []))
  else
    let ps := rowPieces y.len maxData
    let e := if write then d.linkWriteGo y tgt ps else d.linkReadGo y tgt ps
    if e.cxe.outst.any (fun o => o.ring == r && o.count == y.count && o.answer == some stWait) then (d, some (stWait, []))
    else (e.mapCxe (fun c => { c with jobs := c.jobs ++ [⟨r, y.count, none⟩] }), none)

/-- A link descriptor whose packets all failed at once completes with them. -/
def Dev.runLink (d : Dev) (r : Nat) (k : Word) (op : Nat) (write : Bool) (drops : Drops) : Dev :=
  (d.runDesc r k op (fun d y => d.linkDesc r y write drops)).settleJob r k

/-- LINK_WRITE (R365). -/
def execLinkWrite (ring : Fin 64) (count : Word) (drops : Drops) (s : State) : Host.Outcome State Fault Refusal :=
  s.act (fun d => d.runLink ring count 0x60 true drops)

/-- LINK_READ (R365). -/
def execLinkRead (ring : Fin 64) (count : Word) (drops : Drops) (s : State) : Host.Outcome State Fault Refusal :=
  s.act (fun d => d.runLink ring count 0x61 false drops)

/-! ### Serving packets (R254, R356 to R358, R366) -/

/-- Applies a packet's accesses in ascending address: a refused granule is passed over, a ninth drop or an address that nothing backs
ends it (R254, R358). Answers the block and the status. -/
def Dev.applyGo (d : Dev) (a : Nat) (pieces : List (List Byte)) (sq : Nat) (drops : Drops) (k : Nat) (st : St) : Dev × St :=
  match pieces with
  | [] => (d, st)
  | bs :: rest =>
    let shared := d.isShared (a % 2 ^ 64) none
    let n := if shared then Tab.get drops k 0 else 0
    if 9 ≤ n then (d.collide 9, stCollided)
    else
      let x := (d.collide n).storeRaw a bs sq
      let st := if st = stOk then x.st else st
      if x.st = stOutOfMap then (x.dev, st) else x.dev.applyGo (a + bs.length) rest sq drops (if shared then k + 1 else k) st

/-- Applies the data of a packet at an address of this device (R357, R358). -/
def Dev.applyPkt (d : Dev) (a : Nat) (data : List Byte) (sq : Nat) (drops : Drops) : Dev × St :=
  d.applyGo a (if d.isShared (a % 2 ^ 64) none then chunks 1024 data 16 else [data]) sq drops 0 stOk

/-- WRITE (R357, R358). One to the window of a port in D3hot waits, and its answer with it (R358, R385). -/
def execPktWrite (drops : Drops) (s : State) : Host.Outcome State Fault Refusal :=
  s.act (fun d => match d.takePkt (fun k => d.mine popWrite k && !d.winHeld k.addr k.data.length) with
    | none => d
    | some (k, e) =>
      let x := e.applyPkt k.addr k.data (peerQueue k.src k.sq) drops
      x.1.answer k x.2 [])

/-- READ_REQ (R357): a status other than OK carries no data; a read of a host window in D3hot waits (R385). -/
def execPktReadReq (s : State) : Host.Outcome State Fault Refusal :=
  s.act (fun d => match d.takePkt (fun k => d.mine popReadReq k && !d.winHeld k.addr k.len) with
    | none => d
    | some (k, e) =>
      let x := e.load k.addr k.len
      if x.2.1 = stWait then d else x.1.answer k x.2.1 (if x.2.1 = stOk then x.2.2 else []))

/-! ### Training (R246, R249, R341, R342, R376) -/

/-- The skid reserve of port `p` by its LINK_CLASS (R246). -/
def Dev.skidBytes (d : Dev) (p : Nat) : Nat :=
  match (if p < 16 then bits (d.rd F.LINK_CLASS_LO) (2 * p) 2 else bits (d.rd F.LINK_CLASS_HI) (2 * (p - 16)) 2) with
  | 0 => 65536
  | 1 => 262144
  | _ => 1572864

/-- The speed a training ends with, as SPEED codes it; none where it fails (R341). -/
def trainSpeed (t : TrainRes) (fastAllowed : Bool) : Option Nat :=
  if t.lanes ≠ 4 then none
  else if fastAllowed && t.fast && t.lock224 then some 0
  else if t.lock112 then some 1
  else none

/-- The stop distance in bytes (R249). -/
def stopDistance (speed rtt : Nat) : Nat := (if speed = 0 then 112 else 56) * (rtt + 256)

/-- Checks the stop distance against the reserve (R249). -/
def Dev.checkStop (d : Dev) (p speed rtt : Nat) : Dev :=
  if d.skidBytes p < stopDistance speed rtt then
    (d.setBit F.SKID_SHORT p).log 2 (0x300 + p) 0x102 (leBytes 4 (stopDistance speed rtt) ++ leBytes 4 (d.skidBytes p))
  else d

/-- The flit of training's step 6: an IDLE flit whose payload holds MY_ID and the port's own grant, VC_CRED (R341, R346, log 38). -/
def Dev.initFlit (d : Dev) (p : Nat) : List Byte :=
  flitBytes ⟨false, false, 0xFFFF, none⟩ 0 none (leBytes 2 (d.rd F.MY_ID) ++ leBytes 2 (d.rd (F.VC_CRED p)))

/-- A port comes up: it tells its neighbour its ID and its grant, and both directions start afresh (R341, R342, R346, R376). -/
def Dev.linkComesUp (d : Dev) (p speed : Nat) (t : TrainRes) : Dev :=
  let d := ((((d.wr (F.LINK_STATE p) 2).wr (F.SPEED p) speed).wr (F.NEIGHBOUR_ID p) t.neighbourId.toNat).wr (F.RTT_NS p) t.rttNs.toNat)
  let d := d.wr F.RUN_LOAD d.runLoad
  let d := (d.setCal (8 + p) ((d.calItem (8 + p)).apply (d.itemLoad (8 + p)) d.svc.hotLoad)).setBit F.LINK_UP p
  let d := d.setLink p { Link.reset with
    credits := (List.range 8).foldl (fun c v => Tab.set c v t.grant.toNat 0) []
    skidSize := d.skidBytes p
    wire := (d.link p).wire ++ [d.initFlit p]
    kept := (d.link p).kept
    phyVer := BitVec.ofNat 32 (d.rd F.PHY_FW_VER) }
  d.checkStop p speed t.rttNs.toNat

/-- Whether a port may train (R341, R376): a lost port and one whose training failed wait for their rows, and no port holds its lane rate
while the loops coast (R459). -/
def Dev.mayTrain (d : Dev) (p : Nat) : Bool :=
  let l := d.link p
  d.sys.phase == .run && d.rd F.COASTING == 0 && d.rd (F.PORT_EN p) == 1 &&
    (d.rd (F.LINK_STATE p) == 1 || (d.rd (F.LINK_STATE p) == 0 && !l.lost && !l.failed))

/-- LINK_TRAINING (R341). -/
def execLinkTraining (link : Fin 18) (res : TrainRes) (s : State) : Host.Outcome State Fault Refusal :=
  s.act (fun d =>
    if !d.mayTrain link then d
    else match trainSpeed res (d.rd (F.MAX_SPEED link) == 0) with
      | some v => d.linkComesUp link v res
      | none => (d.wr (F.LINK_STATE link) 0).setLink link { d.link link with failed := true })

/-- TRAINING_RETRY (R341). -/
def execTrainingRetry (link : Fin 18) (s : State) : Host.Outcome State Fault Refusal :=
  s.act (fun d =>
    let l := d.link link
    if l.failed ∧ d.rd (F.PORT_EN link) = 1 ∧ d.rd (F.LINK_STATE link) = 0 ∧ (l.lost = false ∨ d.rd (F.AUTO_RETRAIN link) = 1) then
      (d.setLink link { l with failed := false }).wr (F.LINK_STATE link) 1
    else d)

/-- AUTO_RETRAIN (R376). -/
def execAutoRetrain (link : Fin 18) (s : State) : Host.Outcome State Fault Refusal :=
  s.act (fun d =>
    let l := d.link link
    if l.lost ∧ d.rd (F.AUTO_RETRAIN link) = 1 ∧ d.rd (F.PORT_EN link) = 1 ∧ d.rd (F.LINK_STATE link) = 0 then
      (d.setLink link { l with failed := false }).wr (F.LINK_STATE link) 1
    else d)

/-! ### Link loss (R374, R375) -/

/-- The number of participants of a collective (R367). -/
def Coll.parts (c : Coll) : Nat := c.shape.foldl (· * ·) 1

/-- A collective completes (R372). -/
def Dev.endColl (d : Dev) (c : Coll) (st : St) : Dev :=
  (d.mapCxe (fun x => { x with colls := x.colls.filter (fun z => !(z.ring == c.ring && z.count == c.count)) })).setOutcome c.ring c.count st
    (leBytes 4 c.parts ++ leBytes 4 c.rank ++ leBytes 8 c.bytes)

/-- Transit packets whose first flit still waited for a lost port (R375). -/
def Link.transit (l : Link) (me : BitVec 16) : List Pkt :=
  (List.range 8).flatMap (fun v =>
    let fs := (l.txq.filter (fun f => f.vc == v)).dropWhile (fun f => !f.sop)
    let starts := fs.zipIdx.filter (fun f => f.1.sop)
    (starts.map (fun f => Pkt.parse v (((fs.drop f.2).take (((fs.drop f.2).findIdx (fun g => g.eop)) + 1)).flatMap (·.data)))).filter
      (fun k => k.src != me))

/-- The flits of the whole packets of a port's buffers, VC by VC (R375). -/
def wholeFlits (fs : List Flit) : List Flit :=
  (List.range 8).flatMap (fun v => ((fs.filter (fun f => f.vc == v)).reverse.dropWhile (fun f => !f.eop)).reverse)

/-- What the loss of a port leaves (R374, R375): its buffers are discarded but for the whole packets received, and what depended on it
fails. -/
def Dev.cutLink (d : Dev) (p cause : Nat) : Dev :=
  let l := d.link p
  let d := (((d.wr (F.LINK_STATE p) 0).clrBit F.LINK_UP p).setBit F.LINK_DOWN p).wr (F.LOSS_CAUSE p) cause
  let d := d.log (if cause = 4 ∨ cause = 5 then 1 else 3) (0x300 + p) 0x10E (leBytes 1 cause)
  let d := d.setLink p { Link.reset with
    wire := l.wire, phyVer := l.phyVer, lost := true, kept := l.kept ++ wholeFlits (l.rxArea ++ l.skid) }
  let d := (l.transit d.myId).foldl (fun e k => e.dropTransit k stLinkLost) d
  let d := (d.cxe.outst.filter (fun o => o.link == p && o.answer.isNone)).foldl (fun e o => e.answered o.tag stLinkLost) d
  (d.cxe.colls.filter (fun c => c.links.contains p)).foldl (fun e c => e.endColl c stLinkLost) d

end Sys2Proof.Machine
end

