-- ==== Sys2Proof/Machine/Keep.lean ====
section
/-! DEFINITION. The keep tier (R278 to R284), what a low flash rail does to its writes (R473), and repair records (R264, R296, R495). -/
namespace Sys2Proof.Machine
open Sys2Proof

/-! ### Blocks (R278, R281, R282) -/

/-- Blocks of the keep tier. -/
def keepBlocks : Nat := 268435456

/-- The first block of staging: below it lie the event log and the firmware store (R278). -/
def stagingBlock : Nat := 0x14000

/-- First block of the firmware image, and its number of blocks (R486). -/
def imageBlock : Nat := 0x4000

/-- Whether the spec gives the layout of a block: the event log's and that of the firmware store beyond the image it does not (log 21). -/
def layoutKnown (b : Nat) : Bool := decide (imageBlock ≤ b ∧ b < 2 * imageBlock) || decide (stagingBlock ≤ b)

/-- A block as read: none where it is uncorrectable. A block without a known layout holds free bytes, which depend on what its region
has committed: the log's records, or the firmware store's repair records, times, reservation and calibration; while the log holds
nothing its blocks read as zeros (R281, R282, log 21). -/
def Dev.keepGet (d : Dev) (b : Nat) : Option (List Byte) :=
  if b ∈ d.mem.keepBad then none
  else if layoutKnown b then some (getBytes d.mem.keep (b * 4096) 4096)
  else if b < imageBlock then some (if d.recd.log.isEmpty then List.replicate 4096 0 else leBytes 4096 (Config.keepBlock d.recd.log b))
  else some (leBytes 4096 (Config.keepBlock (d.tier.committed, d.recd.saved, d.recd.mark, d.svc.cal, d.svc.hotLoad) b))

/-- Commits a block whole; a bad block reads again from then on (R281, R282). -/
def Dev.keepPut (d : Dev) (b : Nat) (bs : List Byte) : Dev :=
  { d with mem := { d.mem with
      keep := putBytes d.mem.keep (b * 4096) ((bs ++ List.replicate 4096 0).take 4096)
      keepBad := NatSet.del d.mem.keepBad b } }

/-- Logs an uncorrectable block (R282). -/
def Dev.logBlock (d : Dev) (b : Nat) : Dev := d.log 3 0x220 stMemUnc.toNat (statusPayload b 0xFFFFFFFF 0xFFFF 3 false 0xFFFF)

/-- What wear a write leaves is the flash's own: free values; the reserve never grows, and falling below 10 % sets KEEP_LOW (R284, log 40). -/
def Dev.keepWear (d : Dev) : Dev :=
  let x := d.draw
  let old := x.2.rd F.KEEP_RESERVE_PCT
  let left := min old (x.1 / 256 % 101)
  let d := (x.2.wr F.KEEP_WEAR_PCT x.1).wr F.KEEP_RESERVE_PCT left
  if left < 10 ∧ 10 ≤ old then (d.wr F.KEEP_LOW 1).log 2 0x220 0x107 (leBytes 1 left) else d

/-! ### A low flash rail (R473) -/

/-- A non-volatile write is refused (R473). -/
def Dev.nvRefuse (d : Dev) : Dev := d.wr F.NV_ABORTED 1

/-- The flash rail falls below 44.0 V while a non-volatile write is in progress, which is aborted (R473). -/
def Dev.nvStrike (d : Dev) : Dev := (d.wr F.NV_INHIBIT 1).nvRefuse

/-! ### Repair records (R264, R296, R495) -/

/-- A repair record arises: it is pending until it is committed; under NV_INHIBIT its commit is refused (R296, R473). -/
def Dev.addRepair (d : Dev) (r : Repair) : Dev :=
  let d := { d with tier := { d.tier with pending := d.tier.pending ++ [r] } }
  if d.nvInhibit then d.nvRefuse else d

/-- Commits the oldest pending repair record; under NV_INHIBIT the commit is refused and the record stays pending (R296, R473). -/
def Dev.commitRepair (d : Dev) : Dev :=
  match d.tier.pending with
  | [] => d
  | r :: rest => if d.nvInhibit then d.nvRefuse else { d with tier := { d.tier with pending := rest, committed := d.tier.committed ++ [r] } }

/-- Commits every pending repair record, in the order they arose (R296). -/
def Dev.commitRepairs (d : Dev) : Dev :=
  if d.nvInhibit then d
  else { d with tier := { d.tier with pending := [], committed := d.tier.committed ++ d.tier.pending } }

/-- REPAIR_RECORD_COMMIT (R296). -/
def execRepairRecordCommit (s : State) : Host.Outcome State Fault Refusal := s.act Dev.commitRepair

/-! ### KEEP_READ and KEEP_WRITE (R279 to R283) -/

/-- The result of a keep-tier descriptor (R279). -/
def blocksDone (n : Nat) : List Byte := leBytes 4 n

/-- The checks of R280: the outcome of a descriptor that moves nothing. -/
def Dev.keepCheck (d : Dev) (y : Desc) (write : Bool) : Option (St × List Byte) :=
  let b := y.at 0x18 8
  if y.cnt = 0 then some (stOk, noResult)
  else if keepBlocks < b + y.cnt then some (stOutOfMap, noResult)
  else if write ∧ b < stagingBlock then some (stOutOfMap, noResult)
  else if d.inMap y.addr (4096 * y.cnt) then none
  else some (d.capStatus y.nearTop stOutOfMap (d.badAddr y.addr (4096 * y.cnt)), noResult)

/-- Reads blocks one after the other (R280 to R282). -/
def Dev.keepReadGo (d : Dev) (r : Nat) (y : Desc) (drops : Drops) (is : List Nat) (acc : Nat) : Dev × St × Nat :=
  match is with
  | [] => (d, stOk, y.cnt)
  | i :: rest =>
    match d.keepGet (y.at 0x18 8 + i) with
    | none => (d.logBlock (y.at 0x18 8 + i), stMemUnc, i)
    | some bs =>
      let w := d.descStore r y ((y.addr + 4096 * i) % 2 ^ 64) bs (fun _ => false) drops acc
      if w.1.st ≠ stOk then (w.1.dev, w.1.st, i) else w.1.dev.keepReadGo r y drops rest w.2

/-- KEEP_READ (R280). -/
def execKeepRead (ring : Fin 64) (count : Word) (drops : Drops) (s : State) : Host.Outcome State Fault Refusal :=
  s.act (fun d => d.runDesc ring count 0x50 (fun d y => match d.keepCheck y false with
    | some o => (d, some o)
    | none =>
      let x := d.keepReadGo ring y drops (List.range y.cnt) 0
      (x.1, some (x.2.1, blocksDone x.2.2))))

/-- Commits blocks one after the other; `abortAt` is the block during which the flash rail falls (R281 to R283). -/
def Dev.keepWriteGo (d : Dev) (y : Desc) (abortAt : Option Nat) (is : List Nat) : Dev × St × Nat :=
  match is with
  | [] => (d, stOk, y.cnt)
  | i :: rest =>
    if abortAt = some i then (d.nvStrike, stNvInhibited, i)
    else
      let x := d.descLoad y ((y.addr + 4096 * i) % 2 ^ 64) 4096
      if x.2.1 ≠ stOk then (x.1, x.2.1, i) else (x.1.keepPut (y.at 0x18 8 + i) x.2.2).keepWriteGo y abortAt rest

/-- KEEP_WRITE (R280, R283). -/
def execKeepWrite (ring : Fin 64) (count : Word) (abortAt : Option Nat) (s : State) : Host.Outcome State Fault Refusal :=
  s.act (fun d => d.runDesc ring count 0x51 (fun d y => match d.keepCheck y true with
    | some o => (d, some o)
    | none =>
      if d.nvInhibit then (d.nvRefuse, some (stNvInhibited, noResult))
      else
        let x := d.keepWriteGo y abortAt (List.range y.cnt)
        (if x.2.2 = 0 then x.1 else x.1.keepWear, some (x.2.1, blocksDone x.2.2))))

end Sys2Proof.Machine
end

