-- ==== Sys2Proof/Machine/Twins.lean ====
section
/-! DEFINITION. Twin copies, repair and replay (R431 to R453): pairing, registration, commits, fills, verification and snapshots. The
partner's answers are operands; the packets that carry data go out on the links (log 17). -/
namespace Sys2Proof.Machine
open Sys2Proof

/-! ### Headers, ranges and hashes (R437, R439, R440) -/

/-- MAGIC. -/
def twinMagic : Nat := 0x4E495754

/-- Whether a header holds a generation (R439). -/
def hdrValid (h : List Byte) : Bool := field h 0 4 == twinMagic && bit (field h 4 1) 0
/-- GEN. -/
def hdrGen (h : List Byte) : Nat := field h 8 8
/-- STEP. -/
def hdrStep (h : List Byte) : Nat := field h 0x10 4
/-- LOSS. -/
def hdrLoss (h : List Byte) : Nat := field h 0x18 8
/-- STATE_HASH. -/
def hdrHash (h : List Byte) : List Byte := (h.drop 0x20).take 32

/-- A range entry: start and length, the low 16 bits ignored (R437). -/
def rangeEntry (bs : List Byte) (off : Nat) : Nat × Nat := (field bs off 8 / 65536 * 65536, field bs (off + 8) 8 / 65536 * 65536)

/-- The range list of a header. -/
def hdrRanges (h : List Byte) : List (Nat × Nat) :=
  ((List.range (min 16 (bits (field h 0x14 1) 0 5))).map (fun i => rangeEntry h (0x80 + 16 * i))).filter (fun r => r.2 != 0)

/-- The registered total. -/
def rangeTotal (rs : List (Nat × Nat)) : Nat := rs.foldl (fun n r => n + r.2) 0

/-- The near address and length of each piece of `n` bytes of the ranges, in list order. -/
def rangePieces (n : Nat) (rs : List (Nat × Nat)) : List (Nat × Nat) :=
  rs.flatMap (fun r => (rowPieces r.2 n).map (fun p => (r.1 + p.1, p.2)))

/-- STATE_HASH of the concatenated range data (R440). -/
def stateHash (bs : List Byte) : List Byte := sha256 ((chunks 1048576 bs (bs.length + 1)).flatMap sha256)

/-- A 4 KiB header (R439). -/
def Dev.header (d : Dev) (gen step loss : Nat) (hash : List Byte) : List Byte :=
  let h := leBytes 4 twinMagic ++ leBytes 1 1 ++ leBytes 3 0 ++ leBytes 8 gen ++ leBytes 4 step ++ leBytes 1 d.twin.ranges.length ++
    leBytes 1 d.sys.strapFeed.toNat ++ leBytes 2 (d.rd F.MY_ID) ++ leBytes 8 loss ++ hash ++ List.replicate 64 0 ++
    d.twin.ranges.flatMap (fun r => leBytes 8 r.1 ++ leBytes 8 r.2)
  (h ++ List.replicate 4096 0).take 4096

/-- A header that holds no generation: all zeros (log 42). -/
def noHeader : List Byte := List.replicate 4096 0

/-- A read of registered ranges, which lie in the near tier (R437). -/
def Dev.rangeLoad (d : Dev) (y : Desc) (a n : Nat) : Dev × St × List Byte := if farBase < a + n then (d, stOutOfMap, []) else d.descLoad y a n

/-- Reads the registered ranges in list order: the status and the bytes. -/
def Dev.readRanges (d : Dev) (y : Desc) (ps : List (Nat × Nat)) (acc : List Byte) : Dev × St × List Byte :=
  match ps with
  | [] => (d, stOk, acc)
  | p :: rest =>
    let x := d.rangeLoad y p.1 p.2
    if x.2.1 ≠ stOk then (x.1, x.2.1, acc) else x.1.readRanges y rest (acc ++ x.2.2)

/-- The twin engine takes up a descriptor; it executes them one at a time (R453). -/
def Dev.runTwin (d : Dev) (r : Nat) (k : Word) (op : Nat) (f : DescRun) : Dev :=
  if d.twin.pairing.isSome || d.twin.fill.isSome then d else d.runDesc r k op f

/-- The partner's device ID. -/
def Dev.partner (d : Dev) : BitVec 16 := BitVec.ofNat 16 (d.rd F.PARTNER_ID)

/-- Whether packets of a ring to the partner are unanswered: the twin engine's, which use other VCs, wait for them (R363). -/
def Dev.twinWaits (d : Dev) (r : Nat) : Bool := d.routeBusy r d.partner 2 [] || d.routeBusy r d.partner 5 []

/-! ### Pairing (R431 to R436) -/

/-- Changes the twin engine's state. -/
def Dev.mapTwin (d : Dev) (f : Twin → Twin) : Dev := { d with twin := f d.twin }

/-- Whether an area lies in the backed far tier. -/
def inFar (base size : Nat) : Bool := decide (farBase ≤ base ∧ base + size ≤ 0x068000000000)

/-- Writes both slot headers of the hosted area invalid (R434). -/
def Dev.clearHosted (d : Dev) (r : Nat) : Dev :=
  let n := slotSize (d.rd F.HOST_SIZE)
  if n = 0 then d
  else
    let d := (d.storeRaw (d.rd F.HOST_BASE) noHeader r).dev
    (d.storeRaw (d.rd F.HOST_BASE + n) noHeader r).dev

/-- TWIN_PAIR (R432 to R434): the pairing then waits for the partner's status block. -/
def Dev.pair (d : Dev) (r : Nat) (y : Desc) : Dev × Option (St × List Byte) :=
  let id := y.at 0x18 2
  let keep := bit (y.at 0x1A 1) 0 && id == d.rd F.PARTNER_ID
  let base := if keep then d.rd F.HOST_BASE else y.at 0x20 8 / 65536 * 65536
  let size := if keep then d.rd F.HOST_SIZE else y.at 0x28 8 / 65536 * 65536
  if !d.hasId || id == d.rd F.MY_ID || !inFar base size then (d, some (stOutOfMap, noResult))
  else
    let d := (((d.wr F.TWIN_STATE 1).wr F.PARTNER_ID id).wr F.HOST_BASE base).wr F.HOST_SIZE size
    let d := if keep then d else d.clearHosted r
    (d.mapTwin (fun t => { t with
      pairing := some (r, y.count), misses := 0, answered := false, peerFeed := 0, peerBase := 0, peerSize := 0, copied := [], genSlot := 0 }), none)

/-- TWIN_PAIR (R433). -/
def execTwinPair (ring : Fin 64) (count : Word) (s : State) : Host.Outcome State Fault Refusal :=
  s.act (fun d => d.runTwin ring count 0x70 (fun d y => d.pair ring y))

/-- The TWIN_PAIR result (R433). -/
def Twin.pairResult (t : Twin) (outcome : Nat) : List Byte :=
  leBytes 1 outcome ++ leBytes 1 t.peerFeed.toNat ++ leBytes 6 0 ++ leBytes 8 t.peerSize

/-- The waiting TWIN_PAIR completes. -/
def Dev.endPairing (d : Dev) (st : St) (outcome state : Nat) : Dev :=
  match d.twin.pairing with
  | none => d
  | some (r, k) =>
    let res := if st = stOk then d.twin.pairResult outcome else noResult
    ((d.mapTwin (fun t => { t with pairing := none, misses := 0 })).wr F.TWIN_STATE state).setOutcome r k st res

/-- Remembers what an answer told. -/
def Dev.hearPeer (d : Dev) (a : PartnerAns) : Dev :=
  if a.answered ∧ a.status = stOk then
    d.mapTwin (fun t => { t with answered := true, peerFeed := a.feedId, peerBase := a.hostBase, peerSize := a.hostSize })
  else d

/-- Whether this device refuses a partner (R433). -/
def Dev.refusesPeer (d : Dev) (a : PartnerAns) : Bool := a.feedId == d.sys.strapFeed && d.rd F.FEED_OVERRIDE == 0

/-- A read of the status block while pairing (R433). -/
def Dev.pairingRead (d : Dev) (a : PartnerAns) : Dev :=
  if a.answered ∧ a.status = stOk then
    let d := d.hearPeer a
    if d.refusesPeer a then
      ((d.wr F.FEED_SHARED 1).log 2 0x340 0x10F (leBytes 2 (d.rd F.PARTNER_ID))).endPairing stOk 1 0
    else if a.refuses then d.endPairing stOk 2 0
    else if a.namesUs then d.endPairing stOk 0 2
    else d
  else d

/-- A read of the status block while paired (R435). -/
def Dev.pairedRead (d : Dev) (a : PartnerAns) : Dev :=
  if a.answered ∧ a.status = stOk ∧ a.namesUs then (d.hearPeer a).mapTwin (fun t => { t with misses := 0 })
  else
    let d := d.mapTwin (fun t => { t with misses := t.misses + 1 })
    if max 1 (d.rd F.PARTNER_MISS_LIMIT) ≤ d.twin.misses then d.partnerLost else d

/-- Reads the partner's status block with a READ_REQ of source queue 0x0310; the block's place is not part of the interface (R407, R433,
R436, log 17). Answers whether the packet found a way: a partner that the route table does not reach answers nothing (R431). -/
def Dev.askStatus (d : Dev) : Dev × Bool :=
  let x := d.sendNow 0x310 d.partner 2 popReadReq Config.statusAddr (min maxData Config.statusLen) []
  (x.1, x.2 == stOk)

/-- HEARTBEAT (R431, R433, R435). -/
def execHeartbeat (ans : PartnerAns) (s : State) : Host.Outcome State Fault Refusal :=
  s.act (fun d =>
    let pairs := decide (d.rd F.TWIN_STATE = 1) && d.twin.pairing.isSome
    if pairs || d.rd F.TWIN_STATE == 2 then
      let q := d.askStatus
      let ans : PartnerAns := { ans with answered := ans.answered && q.2 }
      let d := if ans.answered then q.1.wakeUp else q.1
      if pairs then d.pairingRead ans else d.pairedRead ans
    else d.fillAbort)

/-- PAIRING_TIMEOUT (R433). -/
def execPairingTimeout (ans : PartnerAns) (s : State) : Host.Outcome State Fault Refusal :=
  s.act (fun d =>
    let d := d.hearPeer ans
    if d.rd F.TWIN_STATE = 1 then
      if d.twin.answered then d.endPairing stOk 3 0 else d.endPairing stLinkLost 0 0
    else d)

/-- The pairing ends, and rebuilds under way lose their twin source (R292, R436). -/
def Dev.unpair (d : Dev) : Dev :=
  let d : Dev := { d with tier := { d.tier with sweeps := d.tier.sweeps.map (fun (s : Sweep) => { s with lost := true }) } }
  d.wr F.TWIN_STATE 0

/-- TWIN_UNPAIR (R436). -/
def execTwinUnpair (ring : Fin 64) (count : Word) (s : State) : Host.Outcome State Fault Refusal :=
  s.act (fun d => d.runTwin ring count 0x71 (fun d _ => (d.unpair, some (stOk, noResult))))

/-! ### Registration (R437) -/

/-- The largest registered total. -/
def maxTotal : Nat := 515396009984

/-- TWIN_REG (R437): REG_DIRTY and the partner's generations keep their ranges until the next commit. -/
def Dev.register (d : Dev) (y : Desc) : Dev × Option (St × List Byte) :=
  let n := min 16 y.cnt
  let x := if n = 0 then (d, stOk, []) else d.descLoad y y.addr (16 * n)
  if x.2.1 ≠ stOk then (x.1, some (x.2.1, noResult))
  else
    let rs := ((List.range n).map (fun i => rangeEntry x.2.2 (16 * i))).filter (fun r => r.2 != 0)
    if maxTotal < rangeTotal rs then (x.1, some (stOutOfMap, noResult))
    else (x.1.mapTwin (fun t => { t with ranges := rs }), some (stOk, noResult))

/-- TWIN_REG (R437). -/
def execTwinReg (ring : Fin 64) (count : Word) (s : State) : Host.Outcome State Fault Refusal :=
  s.act (fun d => d.runTwin ring count 0x72 (fun d y => d.register y))

/-! ### Commits (R438, R441, R442) -/

/-- The slot that holds the newest valid generation of two headers (R441, R445). -/
def newestSlot (h0 h1 : List Byte) : Option Nat :=
  if hdrValid h0 ∧ hdrValid h1 then some (if hdrGen h0 < hdrGen h1 then 1 else 0)
  else if hdrValid h0 then some 0
  else if hdrValid h1 then some 1
  else none

/-- Sends a WRITE of the twin engine to the partner, whose answer is an operand (log 17). -/
def Dev.sendTwin (d : Dev) (r : Nat) (a : Nat) (bs : List Byte) : Dev × St := d.sendNow r d.partner 5 popWrite a bs.length bs

/-- Reads the headers of the partner's two slots (R441, R445, R447, log 17): their status. -/
def Dev.askHeaders (d : Dev) (r : Nat) (ans : PartnerAns) : Dev × St :=
  let n := slotSize d.twin.peerSize
  let x := d.sendNow r d.partner 2 popReadReq d.twin.peerBase 4096 []
  let y := x.1.sendNow r d.partner 2 popReadReq (d.twin.peerBase + n) 4096 []
  if x.2 ≠ stOk then (y.1, x.2)
  else if y.2 ≠ stOk then y
  else if !ans.answered then (y.1, stLinkLost)
  else y.1.peerStatus ans.status

/-- The headers as read; a header that fails to read holds no generation (R439). -/
def hdrsOf (st : St) (ans : PartnerAns) : List Byte × List Byte := if st = stOk then (ans.hdr0, ans.hdr1) else ([], [])

/-- A commit under way: the block, the first failure, the data sent, the number of the next packet's answer. -/
structure CommitRun where
  dev  : Dev
  st   : St
  data : List Byte
  k    : Nat

/-- The answer to a packet of a commit: `okPackets` are answered OK, and the next one with `failure` (R441, R442). -/
def CommitRun.heard (x : CommitRun) (ans : PartnerAns) : CommitRun :=
  if ans.failure ≠ stOk ∧ ans.okPackets ≤ x.k then
    let z := x.dev.peerStatus ans.failure
    { x with dev := z.1, st := z.2 }
  else { x with k := x.k + 1 }

/-- Sends one packet of a commit, and takes its answer. -/
def CommitRun.send (x : CommitRun) (r a : Nat) (bs : List Byte) (ans : PartnerAns) : CommitRun :=
  let y := x.dev.sendTwin r a bs
  if y.2 ≠ stOk then { x with dev := y.1, st := y.2 }
  else ({ x with dev := y.1, data := x.data ++ bs } : CommitRun).heard ans

/-- The data packets of a commit, in list order. -/
def CommitRun.sendData (x : CommitRun) (r : Nat) (y : Desc) (base : Nat) (ans : PartnerAns) (ps : List (Nat × Nat)) : CommitRun :=
  match ps with
  | [] => x
  | p :: rest =>
    let z := x.dev.rangeLoad y p.1 p.2
    if z.2.1 ≠ stOk then { x with dev := z.1, st := z.2.1 }
    else
      let w := ({ x with dev := z.1 } : CommitRun).send r (base + x.data.length) z.2.2 ans
      if w.st ≠ stOk then w else w.sendData r y base ans rest

/-- A twin descriptor ends with a failure at the partner, which loses the partner where it is LINK_LOST (R435). -/
def Dev.twinFails (d : Dev) (st : St) : Dev × Option (St × List Byte) := (if st = stLinkLost then d.partnerLost else d, some (st, noResult))

/-- A commit fails after it has made its slot invalid (R442); the ranges written while it ran stay dirty (R438). -/
def Dev.commitFails (d : Dev) (st : St) (dirty : Nat) : Dev × Option (St × List Byte) :=
  ((d.wr F.COMMIT_FAIL 1).wr F.REG_DIRTY dirty).twinFails st

/-- TWIN_COMMIT (R441, R442). `ans` holds the two headers, how many packets were answered OK, from the invalid header on, what the next one
was answered, and the ranges that were written while they were copied. -/
def Dev.commit (d : Dev) (r : Nat) (y : Desc) (ans : PartnerAns) : Dev × Option (St × List Byte) :=
  if d.rd F.TWIN_STATE ≠ 2 then (d, some (stLinkLost, noResult))
  else if d.twinWaits r then (d, some (stWait, []))
  else
    let d := (d.wr F.REG_DIRTY 0).mapTwin (fun t => { t with applied := t.ranges })
    let q := d.askHeaders r ans
    if q.2 = stLinkLost then q.1.twinFails stLinkLost
    else
      let hs := hdrsOf q.2 ans
      let slot := match newestSlot hs.1 hs.2 with | some 0 => 1 | _ => 0
      let size := slotSize d.twin.peerSize
      if size < 4096 + rangeTotal d.twin.ranges then (q.1, some (stOutOfMap, noResult))
      else
        let base := d.twin.peerBase + slot * size
        let dirty := ans.dirty.toNat % 2 ^ d.twin.ranges.length
        let h := q.1.sendTwin r base noHeader
        if h.2 ≠ stOk then h.1.twinFails h.2
        else
          let h := (⟨h.1, stOk, [], 0⟩ : CommitRun).heard ans
          if h.st ≠ stOk then h.dev.commitFails h.st dirty
          else
            let x := h.sendData r y (base + 4096) ans (rangePieces maxData d.twin.ranges)
            if x.st ≠ stOk then x.dev.commitFails x.st dirty
            else
              let gen := (x.dev.rd F.GEN_LOCAL + 1) % 2 ^ 64
              let hash := stateHash x.data
              let z := x.send r base (x.dev.header gen (y.at 0x20 4) (y.at 0x18 8) hash) ans
              if z.st ≠ stOk then z.dev.commitFails z.st dirty
              else
                let e := ((z.dev.wr F.GEN_LOCAL gen).wr F.LAST_HASH (leNat hash)).wr F.REG_DIRTY dirty
                (e.mapTwin (fun t => { t with copied := t.ranges, genSlot := slot }), some (stOk, leBytes 8 gen ++ leBytes 2 dirty ++ leBytes 1 slot))

/-- TWIN_COMMIT (R441). -/
def execTwinCommit (ring : Fin 64) (count : Word) (ans : PartnerAns) (s : State) : Host.Outcome State Fault Refusal :=
  s.act (fun d => d.runTwin ring count 0x73 (fun d y => d.commit ring y ans))

/-! ### Fills (R445, R446) -/

/-- Writes the ranges piece after piece from a byte string; it ends at a refused write, or where the bytes end. Answers how many pieces. -/
def Dev.fillGo (d : Dev) (r : Nat) (y : Desc) (bs : List Byte) (ps : List (Nat × Nat)) (k : Nat) : Dev × St × Nat :=
  match ps with
  | [] => (d, stOk, k)
  | p :: rest =>
    if bs.length < p.2 then (d, stOk, k)
    else if farBase < p.1 + p.2 then (d, stOutOfMap, k)
    else
      let w := d.descStore r y p.1 (bs.take p.2) (fun _ => false) [] 0
      if w.1.st ≠ stOk then (w.1.dev, w.1.st, k) else w.1.dev.fillGo r y (bs.drop p.2) rest (k + 1)

/-- The header that GEN_SEL selects (R445). -/
def selectHdr (sel : Bool) (h0 h1 : List Byte) : Option (Nat × List Byte) :=
  match newestSlot h0 h1 with
  | none => none
  | some n =>
    let j := if sel then 1 - n else n
    let h := if j = 0 then h0 else h1
    if hdrValid h then some (j, h) else none

/-- A fill is over. -/
def Dev.fillOver (d : Dev) : Dev := (d.wr F.FILL_ACTIVE 0).mapTwin (fun t => { t with fill := none })

/-- Whole packets of data of a fill arrive (R445): they are written to the ranges; with the last of them the fill is complete. -/
def Dev.fillMore (d : Dev) (j : FillJob) (y : Desc) (bs : List Byte) : Dev × Option (St × List Byte) :=
  let ps := rangePieces maxData d.twin.ranges
  let x := d.fillGo j.ring y bs (ps.drop (j.data.length / maxData)) 0
  let data := j.data ++ bs.take (maxData * x.2.2)
  if x.2.1 ≠ stOk then (x.1.fillOver, some (x.2.1, noResult))
  else if data.length < rangeTotal d.twin.ranges then
    (x.1.mapTwin (fun t => { t with fill := some { j with data := data } }), none)
  else
    let ok := stateHash data == hdrHash j.hdr
    ((x.1.wr F.GEN_LOCAL (hdrGen j.hdr)).fillOver.mapTwin (fun t => { t with step := BitVec.ofNat 32 (hdrStep j.hdr) }),
      some (stOk, leBytes 8 (hdrGen j.hdr) ++ leBytes 4 (hdrStep j.hdr) ++ leBytes 1 (b2n ok)))

/-- A fill begins (R445): the header is read and its range list registered, and FILL_ACTIVE is set. `ans` holds the two headers and the data
that the partner has sent so far (log 65). -/
def Dev.fill (d : Dev) (r : Nat) (y : Desc) (ans : PartnerAns) : Dev × Option (St × List Byte) :=
  if d.rd F.TWIN_STATE ≠ 2 then (d, some (stLinkLost, noResult))
  else if d.twinWaits r then (d, some (stWait, []))
  else
    let q := d.askHeaders r ans
    if q.2 = stLinkLost then ((q.1.mapTwin (fun t => { t with fill := some ⟨r, y.count, [], []⟩ })).partnerLost, none)
    else
      let hs := hdrsOf q.2 ans
      match selectHdr (bit (y.at 0x18 1) 0) hs.1 hs.2 with
      | none => (q.1, some (stOutOfMap, noResult))
      | some (i, h) =>
        let j : FillJob := ⟨r, y.count, h, []⟩
        let rs := hdrRanges h
        ((q.1.mapTwin (fun t => { t with ranges := rs, applied := rs, copied := rs, genSlot := i, fill := some j })).wr F.FILL_ACTIVE 1).fillMore
          j y ans.data

/-- A fill under way goes on with more data, or ends with the partner (R445, R446). -/
def Dev.fillOn (d : Dev) (j : FillJob) (ans : PartnerAns) : Dev :=
  if d.rd F.TWIN_STATE ≠ 2 then d.fillAbort
  else if !ans.answered then d.partnerLost
  else match d.desc j.ring j.count with
    | none => d
    | some y =>
      let x := d.fillMore j y ans.data
      match x.2 with
      | some (st, res) => if st = stWait then d else x.1.setOutcome j.ring j.count st ((res ++ noResult).take 16)
      | none => x.1

/-- TWIN_FILL (R445): its first command begins the fill, and later ones go on with it until its data have all come (log 65). -/
def execTwinFill (ring : Fin 64) (count : Word) (ans : PartnerAns) (s : State) : Host.Outcome State Fault Refusal :=
  s.act (fun d => match d.twin.fill with
    | some j => if j.ring = ring ∧ j.count = count then d.fillOn j ans else d
    | none => d.runTwin ring count 0x74 (fun d y => d.fill ring y ans))

/-- The header of a hosted slot as stored. -/
def Dev.hostedHdr (d : Dev) (j : Nat) : List Byte := d.peek (d.rd F.HOST_BASE + j * slotSize (d.rd F.HOST_SIZE)) 4096

/-- GEN of a hosted slot; 0 where it holds no generation: no area, or a header that cannot be read or is not valid (R439, R454). -/
def Dev.hostedGen (d : Dev) (j : Nat) : Nat :=
  let a := d.rd F.HOST_BASE + j * slotSize (d.rd F.HOST_SIZE)
  let bad := (unitsOf a 4096 64).any (fun u => decide (u ∈ d.mem.poison ∨ u ∈ d.mem.latentU) || d.lineLost .far u)
  if slotSize (d.rd F.HOST_SIZE) = 0 ∨ bad ∨ hdrValid (d.hostedHdr j) = false then 0 else hdrGen (d.hostedHdr j)

/-- Sends the data of a hosted slot to the partner's ranges from source queue 0x0310 (R445); a packet that fails LINK_LOST at once loses the
partner (R435). -/
def Dev.serveGo (d : Dev) (src : Nat) (ps : List (Nat × Nat)) : Dev :=
  match ps with
  | [] => d
  | p :: rest =>
    let x := d.load src p.2
    if x.2.1 ≠ stOk then x.1
    else
      let e := x.1.sendReq ⟨0x310, 0, d.partner, 5, [], false⟩ popWrite p.1 0 p.2 0 x.2.2
      match e.cxe.outst.getLast?.bind (fun o => o.answer) with
      | none => e.serveGo (src + p.2) rest
      | some st =>
        let e := e.mapCxe (fun c => { c with outst := c.outst.dropLast })
        if st = stLinkLost then e.partnerLost else e

/-- FILL_SERVE (R445). -/
def execFillServe (genSel : Bool) (s : State) : Host.Outcome State Fault Refusal :=
  s.act (fun d =>
    let h (j : Nat) : List Byte := if d.hostedGen j = 0 then [] else d.hostedHdr j
    if d.rd F.TWIN_STATE ≠ 2 then d
    else match selectHdr genSel (h 0) (h 1) with
      | none => d
      | some (j, hdr) => d.serveGo (d.rd F.HOST_BASE + j * slotSize (d.rd F.HOST_SIZE) + 4096) (rangePieces maxData (hdrRanges hdr)))

/-! ### Snapshots and verification (R447, R449 to R451) -/

/-- The first block of a snapshot slot (R278). -/
def snapBlock (slot : Nat) : Nat := if slot = 0 then 0x1000000 else 0x8800000

/-- The header of a snapshot slot, where it can be read and is valid (R439, R450). -/
def Dev.snapHdr (d : Dev) (slot : Nat) : Option (List Byte) :=
  if snapBlock slot ∈ d.mem.keepBad then none
  else
    let h := getBytes d.mem.keep (snapBlock slot * 4096) 4096
    if hdrValid h then some h else none

/-- TWIN_VERIFY (R447). -/
def Dev.verify (d : Dev) (r : Nat) (y : Desc) (ans : PartnerAns) : Dev × Option (St × List Byte) :=
  let f := y.at 0x18 1
  let step := y.at 0x28 4
  let own := bit f 0
  if !own && d.rd F.TWIN_STATE != 2 then (d, some (stLinkLost, noResult))
  else if !own && d.twinWaits r then (d, some (stWait, []))
  else
    let q := if own then (d, stOk) else d.askHeaders r ans
    let d := q.1
    if q.2 = stLinkLost then d.twinFails stLinkLost
    else
    let recs := if own then (d.snapHdr (b2n (bit f 1))).toList else if q.2 = stOk then [ans.hdr0, ans.hdr1].filter hdrValid else []
    match (recs.filter (fun h => hdrStep h == step)).foldl (fun (b : Option (List Byte)) h => match b with
        | none => some h
        | some g => if hdrGen g < hdrGen h then some h else some g) none with
    | none => (d, some (stOutOfMap, noResult))
    | some h =>
      let x := d.readRanges y (rangePieces 1048576 d.twin.ranges) []
      if x.2.1 ≠ stOk then (x.1, some (x.2.1, noResult))
      else
        let hash := stateHash x.2.2
        if hash ≠ hdrHash h ∨ (bit f 2 ∧ hdrLoss h ≠ y.at 0x20 8) then (x.1, some (stReplayMismatch, hash.take 16))
        else (x.1.wr F.GEN_LOCAL (hdrGen h), some (stOk, hash.take 16))

/-- TWIN_VERIFY (R447). -/
def execTwinVerify (ring : Fin 64) (count : Word) (ans : PartnerAns) (s : State) : Host.Outcome State Fault Refusal :=
  s.act (fun d => d.runTwin ring count 0x75 (fun d y => d.verify ring y ans))

/-- The data blocks of a snapshot, one after the other; the commits before them are one, the invalid header (R449, R451). -/
def Dev.snapWriteGo (d : Dev) (y : Desc) (block : Nat) (abortAt : Option Nat) (ps : List (Nat × Nat)) (k : Nat) (acc : List Byte) :
    Dev × St × Nat × List Byte :=
  match ps with
  | [] => (d, stOk, k, acc)
  | p :: rest =>
    if abortAt = some (k + 1) then (d.nvStrike, stNvInhibited, k, acc)
    else
      let x := d.rangeLoad y p.1 p.2
      if x.2.1 ≠ stOk then (x.1, x.2.1, k, acc)
      else (x.1.keepPut (block + 1 + k) x.2.2).snapWriteGo y block abortAt rest (k + 1) (acc ++ x.2.2)

/-- SNAP_WRITE (R449, R451): `abortAt` is the commit during which the flash rail falls. -/
def Dev.snapWrite (d : Dev) (y : Desc) (abortAt : Option Nat) : Dev × Option (St × List Byte) :=
  let b := snapBlock (b2n (bit (y.at 0x18 1) 0))
  if d.nvInhibit then (d.nvRefuse, some (stNvInhibited, noResult))
  else if abortAt = some 0 then (d.nvStrike, some (stNvInhibited, noResult))
  else
    let x := (d.keepPut b noHeader).snapWriteGo y b abortAt (rangePieces 4096 d.twin.ranges) 0 []
    let n := x.2.2.1
    if x.2.1 ≠ stOk then (x.1.keepWear, some (x.2.1, blocksDone n))
    else if abortAt = some (n + 1) then (x.1.nvStrike.keepWear, some (stNvInhibited, blocksDone n))
    else
      let h := x.1.header (x.1.rd F.GEN_LOCAL) (y.at 0x28 4) (y.at 0x20 8) (stateHash x.2.2.2)
      ((x.1.keepPut b h).keepWear, some (stOk, blocksDone n))

/-- SNAP_WRITE (R449). -/
def execSnapWrite (ring : Fin 64) (count : Word) (abortAt : Option Nat) (s : State) : Host.Outcome State Fault Refusal :=
  s.act (fun d => d.runTwin ring count 0x76 (fun d y => d.snapWrite y abortAt))

/-- The data blocks of a snapshot, read into the ranges (R450). -/
def Dev.snapReadGo (d : Dev) (r : Nat) (y : Desc) (block : Nat) (ps : List (Nat × Nat)) (k : Nat) (acc : List Byte) :
    Dev × St × Nat × List Byte :=
  match ps with
  | [] => (d, stOk, k, acc)
  | p :: rest =>
    match d.keepGet (block + 1 + k) with
    | none => (d.logBlock (block + 1 + k), stMemUnc, k, acc)
    | some bs =>
      let w := d.descStore r y p.1 (bs.take p.2) (fun _ => false) [] 0
      if w.1.st ≠ stOk then (w.1.dev, w.1.st, k, acc) else w.1.dev.snapReadGo r y block rest (k + 1) (acc ++ bs.take p.2)

/-- SNAP_READ (R450). -/
def Dev.snapRead (d : Dev) (r : Nat) (y : Desc) : Dev × Option (St × List Byte) :=
  let slot := b2n (bit (y.at 0x18 1) 0)
  match d.snapHdr slot with
  | none => (d, some (stOutOfMap, noResult))
  | some h =>
    let d := d.mapTwin (fun t => { t with ranges := hdrRanges h, applied := hdrRanges h })
    let x := d.snapReadGo r y (snapBlock slot) (rangePieces 4096 d.twin.ranges) 0 []
    let res (ok : Bool) : List Byte := leBytes 4 x.2.2.1 ++ leBytes 4 (hdrStep h) ++ leBytes 1 (b2n ok)
    if x.2.1 ≠ stOk then (x.1, some (x.2.1, res false))
    else (x.1.wr F.GEN_LOCAL (hdrGen h), some (stOk, res (stateHash x.2.2.2 == hdrHash h)))

/-- SNAP_READ (R450). -/
def execSnapRead (ring : Fin 64) (count : Word) (s : State) : Host.Outcome State Fault Refusal :=
  s.act (fun d => d.runTwin ring count 0x77 (fun d y => d.snapRead ring y))

end Sys2Proof.Machine
end

