-- ==== Sys2Proof/Machine/Image.lean ====
section
/-! DEFINITION. The firmware image, the checks that accept it (R486 to R488), the components it loads (R491), and the calibration
arithmetic (R476, R477). -/
namespace Sys2Proof.Machine
open Sys2Proof

/-! ### The header (R486) -/

/-- The largest image. -/
def imageMax : Nat := 67108864
/-- TOTAL_LEN. -/
def imgLen (h : List Byte) : Nat := field h 0x10 4
/-- FW_VER. -/
def imgVer (h : List Byte) : Nat := field h 8 4
/-- SVN. -/
def imgSvn (h : List Byte) : Nat := bits (field h 0x0C 1) 0 7
/-- VENDOR_SLOT. -/
def imgVendor (h : List Byte) : Nat := bits (field h 0x16 1) 0 2
/-- OWNER_SLOT. -/
def imgOwner (h : List Byte) : Nat := bits (field h 0x17 1) 0 2
/-- OWNER_SIGNED. -/
def imgOwned (h : List Byte) : Bool := bit (field h 0x17 1) 7

/-- Component entry `c`. -/
def imgEntry (h : List Byte) (c : Nat) : List Byte := (h.drop (0x40 + 64 * c)).take 64
/-- TYPE of an entry. -/
def entType (e : List Byte) : Nat := field e 0 1
/-- OFFSET of an entry. -/
def entOff (e : List Byte) : Nat := field e 8 4
/-- LEN of an entry. -/
def entLen (e : List Byte) : Nat := field e 0x0C 4
/-- SHA-256 of an entry. -/
def entHash (e : List Byte) : List Byte := (e.drop 0x10).take 32
/-- The four entries. -/
def imgEntries (h : List Byte) : List (List Byte) := (List.range 4).map (imgEntry h)
/-- The entry of a component type. -/
def imgComp (h : List Byte) (t : Nat) : List Byte := ((imgEntries h).find? (fun e => entType e == t)).getD []

/-! ### The checks of R487 -/

/-- Whether bytes `lo` up to `hi` are zero. -/
def zerosAt (h : List Byte) (lo hi : Nat) : Bool := ((h.drop lo).take (hi - lo)).all (fun b => b == 0)

/-- Check 1, with the entries at or above NCOMP among the reserved bytes; an image without its whole header fails it (log 45). -/
def imgHeaderOk (h : List Byte) (supplied : Nat) : Bool :=
  field h 0 4 == 0x4D495746 && field h 4 2 == 1 && field h 0x14 2 == 0x5C60 && field h 6 1 == 4 &&
    zerosAt h 7 8 && !bit (field h 0x0C 1) 7 && zerosAt h 0x0D 0x10 && zerosAt h 0x18 0x40 && zerosAt h 0x140 0x300 && zerosAt h 0x380 0x400 &&
    decide (1024 ≤ imgLen h ∧ imgLen h ≤ imageMax) && imgLen h == supplied

/-- Whether two components share no byte. -/
def entApart (x y : List Byte) : Bool :=
  entLen x == 0 || entLen y == 0 || decide (entOff x + entLen x ≤ entOff y) || decide (entOff y + entLen y ≤ entOff x)

/-- Whether a component shares no byte with those after it. -/
def entsApart (es : List (List Byte)) : Bool :=
  match es with
  | [] => true
  | e :: rest => rest.all (entApart e) && entsApart rest

/-- Check 2. -/
def imgPartsOk (h : List Byte) : Bool :=
  let es := imgEntries h
  [1, 2, 3, 4].all (fun t => (es.filter (fun e => entType e == t)).length == 1) &&
    es.all (fun e => decide (entOff e + entLen e ≤ imgLen h)) && entsApart es

/-- Check 3. -/
def imgHashesOk (img : List Byte) : Bool :=
  (imgEntries img).all (fun e => sha256 ((img.drop (entOff e)).take (entLen e)) == entHash e)

/-- Whether a signature (r, then s) verifies over a message with a key (X, then Y), all little-endian (R486, R498). -/
def sigOk (key : BitVec 512) (msg sig : List Byte) : Bool :=
  ecdsaOk (key.toNat % 2 ^ 256) (key.toNat / 2 ^ 256) (beNat (sha256 msg)) (field sig 0 32) (field sig 32 32)

/-- The state of owner slot `k`: 0 empty, 1 active, 2 revoked (R498). -/
def Dev.ownerSlot (d : Dev) (k : Nat) : Nat := Tab.get d.fuses.ownerState k 0

/-- Whether any owner slot is active. -/
def Dev.owned (d : Dev) : Bool := [0, 1, 2].any (fun k => d.ownerSlot k == 1)

/-- Whether a vendor slot is valid (R498). -/
def Dev.vendorValid (d : Dev) (k : Nat) : Bool := decide (k < 4) && !d.fuses.vendorRevoked.contains k

/-- Check 4. -/
def Dev.vendorSigned (d : Dev) (h : List Byte) : Bool :=
  d.vendorValid (imgVendor h) && sigOk (Tab.get d.fuses.vendorKey (imgVendor h) 0) (h.take 0x300) (h.drop 0x300)

/-- Check 5. -/
def Dev.ownerSigned (d : Dev) (h : List Byte) : Bool :=
  !d.owned || (imgOwned h && d.ownerSlot (imgOwner h) == 1 && sigOk (Tab.get d.fuses.ownerKey (imgOwner h) 0) (h.take 0x300) (h.drop 0x340))

/-- Checks 1 to 3: the REASON of the first that fails, else 0. -/
def imgFormReason (img : List Byte) (supplied : Nat) : Nat :=
  if !imgHeaderOk img supplied then 1 else if !imgPartsOk img then 2 else if !imgHashesOk img then 3 else 0

/-- R487: the REASON of the first check that fails, else 0. -/
def Dev.imageReason (d : Dev) (img : List Byte) (supplied : Nat) : Nat :=
  let r := imgFormReason img supplied
  if r ≠ 0 then r
  else if !d.vendorSigned img then 4
  else if !d.ownerSigned img then 5
  else if imgSvn img < d.fuses.svnCounter then 6
  else 0

/-- The status of a REASON (R487). -/
def reasonStatus (r : Nat) : St := if r = 0 then stOk else if r = 6 then stRollback else stSigBad

/-- A failed signature or key check: SEC_FAIL and its record (R487, R499, R511). -/
def Dev.secFail (d : Dev) (op why : Nat) : Dev := (d.wr F.SEC_FAIL 1).log 2 0x360 0x118 (leBytes 1 op ++ leBytes 1 why)

/-- The outcome of R487, recorded where a signature or key check failed (log 45). -/
def Dev.noteReason (d : Dev) (op r : Nat) : Dev := if r = 4 ∨ r = 5 then d.secFail op r else d

/-! ### The stored image (R486, R488) -/

/-- The byte of the keep tier where the image area starts. -/
def imageBase : Nat := 0x4000000

/-- The stored header. -/
def Dev.storedHeader (d : Dev) : List Byte := getBytes d.mem.keep imageBase 1024

/-- The stored image. -/
def Dev.storedImage (d : Dev) : List Byte := getBytes d.mem.keep imageBase (min imageMax (max 1024 (imgLen d.storedHeader)))

/-- Whether a block of the stored image reads uncorrectable. -/
def Dev.storedBad (d : Dev) : Bool :=
  d.mem.keepBad.any (fun b => decide (imageBlock ≤ b ∧ b < imageBlock + ceilDiv (max 1024 (imgLen d.storedHeader)) 4096))

/-- Whether checks 1 to 3 pass on the stored image. -/
def Dev.storedFormOk (d : Dev) : Bool := !d.storedBad && imgFormReason d.storedImage (imgLen d.storedHeader) == 0

/-- The REASON of R487 on the stored image; an incomplete or unreadable image fails check 3 (R490). -/
def Dev.storedReason (d : Dev) : Nat :=
  if d.rd F.IMG_INCOMPLETE = 1 ∨ d.storedBad then 3 else d.imageReason d.storedImage (imgLen d.storedHeader)

/-- Writes blocks of an image into the image area in ascending order; the first failure ends it (R473, R489). -/
def Dev.writeImage (d : Dev) (fl : FlashRun) (blocks : List (List Byte)) (k : Nat) : Dev × St :=
  match blocks with
  | [] => (d, stOk)
  | b :: rest =>
    if fl.abortAt = some k then (d.nvStrike, stNvInhibited)
    else if fl.badAt = some k then (d, stMemUnc)
    else (d.keepPut (imageBlock + k) b).writeImage fl rest (k + 1)

/-- Steps 3 to 5 of R489 from block `next` on: the write, up to block `upto` where that is named, and after the last block the read-back.
Answers the status, none where blocks remain (log 45). -/
def Dev.storeImage (d : Dev) (img : List Byte) (fl : FlashRun) (next : Nat) (upto : Option Nat) : Dev × Option St :=
  let d := d.wr F.IMG_INCOMPLETE 1
  if d.nvInhibit then (d.nvRefuse, some stNvInhibited)
  else
    let all := chunks 4096 img (img.length + 1)
    let stop := min all.length (upto.getD all.length)
    let x := d.writeImage fl ((all.take stop).drop next) next
    let d := x.1.keepWear
    if x.2 ≠ stOk then (d, some x.2)
    else if stop < all.length then (d, none)
    else if fl.bad then (d, some stMemUnc)
    else (((d.wr F.IMG_INCOMPLETE 0).wr F.FW_VER_STORED (imgVer img)).wr F.SVN_STORED (imgSvn img), some stOk)

/-! ### Running components (R491, R500) -/

/-- The stored image's component of type `t` becomes the running one: 1 management firmware, 2 translator, 3 SFU set, 4 PHY firmware.
The minor version that a translator accepts is its own, a free value (log 46). -/
def Dev.activate (d : Dev) (h : List Byte) (t : Nat) : Dev :=
  let e := imgComp h t
  let ver := field e 4 4
  let hs := ((d.svc.hashes ++ List.replicate 4 []).take 4).set (t - 1) (entHash e)
  let d := { d with svc := { d.svc with hashes := hs } }
  match t with
  | 1 => (d.wr F.FW_VER_RUN (imgVer h)).wr F.SVN_RUN (imgSvn h)
  | 2 =>
    let x := d.draw
    (x.2.wr F.TRANSLATOR_VER ver).wr F.ADECIA_MINOR x.1
  | 3 => d.wr F.SFU_SET_VER ver
  | _ => d.wr F.PHY_FW_VER ver

/-! ### The cold measurements at boot (R477) -/

/-- The cold measurement of every item at boot: what is measured, and the load of that moment, are free values (R477, log 47). -/
def Dev.measureAll (d : Dev) : Dev :=
  let x := d.draw
  let d := x.2.wr F.LOAD_NOW x.1
  let d := d.wr F.RUN_LOAD d.runLoad
  (List.range 26).foldl (fun e i => let y := e.draw; y.2.measureCold i (signed 32 y.1)) d

end Sys2Proof.Machine
end

