-- ==== Sys2Proof/Machine/Near.lean ====
section
/-! DEFINITION. The near tier's repair (R285 to R297), the far tier's failures (R286), scrubbing (R277), the background tests
(R263 to R265) and the retention of local stores (R262). -/
namespace Sys2Proof.Machine
open Sys2Proof

/-! ### Failure, spares and unmapping (R285 to R287, R293, R294) -/

/-- Lines of a pseudo-channel (R288). -/
def pcLines : Nat := 2 ^ 23

/-- The unused spares, by number. -/
def Dev.freeSpares (d : Dev) : List Nat := (List.range 640).filter (fun p => d.rd (F.PC_STATE p) == 1)

/-- The spare that takes over from `p`: the lowest of its base die, else the lowest of any (R287). -/
def Dev.pickSpare (d : Dev) (p : Nat) : Option Nat :=
  match d.freeSpares.find? (fun q => q / 160 == p / 160) with
  | some q => some q
  | none => d.freeSpares.head?

/-- The sweep under way for a logical pseudo-channel, or the one that waits for a spare (R293). -/
def Dev.sweepOf (d : Dev) (l : Nat) : Option Sweep := (d.tier.sweeps ++ d.tier.paused).find? (fun s => s.l == l)

/-- Changes the tiers' repair state. -/
def Dev.mapTier (d : Dev) (f : Tier → Tier) : Dev := { d with tier := f d.tier }

/-- A sweep takes its place among those that wait, behind the one under way, in the order of declaration (R290). -/
def Tier.enqueue (t : Tier) (s : Sweep) : Tier :=
  let n := Tab.get t.order s.l 0
  match t.sweeps with
  | [] => { t with sweeps := [s] }
  | x :: rest =>
    let before (z : Sweep) : Bool := decide (Tab.get t.order z.l 0 ≤ n)
    { t with sweeps := x :: (rest.takeWhile before ++ s :: rest.dropWhile before) }

/-- A sweep of `l` onto a spare begins, in place of one whose spare failed, which keeps its turn and its waits, and starts again at
offset 0 (R290, R293); `late` says that the declaration lies back, so that others may have been declared since. -/
def Dev.putSweep (d : Dev) (l spare : Nat) (old : Option Sweep) (late : Bool) : Dev :=
  let t : Sweep := match old with
    | some s => ⟨l, spare, if spare = 640 then none else some s.spare, s.next, s.done, 0, [], s.written, 0, 0, 0, s.lost, s.oldLine, s.waiters⟩
    | none => ⟨l, spare, none, 0, [], 0, [], [], 0, 0, 0, false, false, []⟩
  d.mapTier (fun x =>
    let x := { x with paused := x.paused.filter (fun z => z.l != l) }
    if x.sweeps.any (fun z => z.l == l) then { x with sweeps := x.sweeps.map (fun z => if z.l = l then t else z) }
    else if late then x.enqueue t else { x with sweeps := x.sweeps ++ [t] })

/-- The top 2 GiB of the near tier is unmapped, and the failed pseudo-channel's lines below the new top move there (R294). -/
def Dev.unmapTop (d : Dev) (l : Nat) (old : Option Sweep) (late : Bool) : Dev :=
  let top := d.rd F.NEAR_TOP_GIB - 2
  let d := ((d.wr F.NEAR_TOP_GIB top).wr F.CAP_REDUCED 1).log 3 0x230 0x10B (leBytes 2 top)
  (d.putSweep l 640 old late).addRepair (.unmap l top)

/-- A spare is assigned to logical pseudo-channel `l`, which `p` served, or the near tier is reduced; true where a spare was found
(R287, R294, R296). -/
def Dev.assignSpare (d : Dev) (l p : Nat) : Dev × Bool :=
  let old := d.sweepOf l
  let late := decide (Tab.get d.tier.awaiting l 0 ≠ 0)
  let d := d.mapTier (fun t => { t with awaiting := Tab.erase t.awaiting l })
  match d.pickSpare p with
  | none => (d.unmapTop l old late, false)
  | some q =>
    let d := ((d.wr (F.PC_STATE q) 3).wr (F.PC_LOGICAL q) l).wr F.SPARES_LEFT (d.rd F.SPARES_LEFT - 1)
    ((d.putSweep l q old late).addRepair (.assign l q p), true)

/-- Forgets the errors counted for a logical pseudo-channel. -/
def Tier.forget (t : Tier) (l : Nat) : Tier :=
  { t with ueWords := t.ueWords.filter (fun w => !(decide (w.1 < farBase) && logicalPc w.1 == l)), ceTimes := Tab.erase t.ceTimes l }

/-- The declaration of `l` takes its number, the place of one that is still unrepaired staying (R290, R293). -/
def Tier.declare (t : Tier) (l : Nat) : Tier :=
  if t.sweeps.any (fun s => s.l == l) then t
  else { t with declared := t.declared + 1, order := Tab.put t.order l (t.declared + 1) }

/-- A sweep whose spare failed waits for the next one, out of the queue (R290, R293). -/
def Tier.pause (t : Tier) (l : Nat) : Tier :=
  { t with sweeps := t.sweeps.filter (fun s => s.l != l), paused := t.paused.filter (fun s => s.l != l) ++ t.sweeps.filter (fun s => s.l == l) }

/-- A pseudo-channel that serves a logical number is declared failed (R285): it serves none from then on. -/
def Dev.declareFailed (d : Dev) (p cause : Nat) : Dev :=
  let l := d.rd (F.PC_LOGICAL p)
  let d := (d.wr F.PC_FAILED 1).log 3 0x230 0x108 (leBytes 2 p ++ leBytes 2 l ++ leBytes 1 cause)
  let d := (d.wr (F.PC_STATE p) 2).wr (F.PC_LOGICAL p) 0x3FF
  d.mapTier (fun t => { (t.declare l).forget l with former := Tab.set t.former p (l + 1) 0 })

/-- A failed pseudo-channel waits for its PC_RETIRE (R287). -/
def Dev.awaitRetire (d : Dev) (l p : Nat) : Dev :=
  (d.mapTier (fun t => { t.pause l with awaiting := Tab.set t.awaiting l (p + 1) 0 })).addRepair (.failed p)

/-- An unused spare leaves the pool (R285). -/
def Dev.removeSpare (d : Dev) (p : Nat) : Dev :=
  (((d.wr (F.PC_STATE p) 2).wr F.SPARES_LEFT (d.rd F.SPARES_LEFT - 1)).log 2 0x230 0x109 (leBytes 2 p)).addRepair (.removed p)

/-- Whether a millisecond lies within the last second (R285, log 4). -/
def Dev.recent (d : Dev) (t : Nat) : Bool := decide (d.rd F.OP_TIME_MS < t + 1000)

/-- Distinct words of a logical pseudo-channel with a fresh uncorrectable read within the last second (R285). -/
def Dev.ueRecent (d : Dev) (l : Nat) : Nat :=
  (d.tier.ueWords.filter (fun w => decide (w.1 < farBase) && logicalPc w.1 == l && d.recent w.2)).length

/-- Corrected reads of a logical pseudo-channel within the last second (R285). -/
def Dev.ceRecent (d : Dev) (l : Nat) : Nat :=
  ((Tab.get d.tier.ceTimes l []).filter (fun x => d.recent x.1)).foldl (fun n x => n + x.2) 0

/-- Whether a logical pseudo-channel has reached the limit that a cause names; retries are the controller's own (R285). -/
def Dev.limitReached (d : Dev) (l cause : Nat) : Bool :=
  match cause with
  | 0 => decide (max 1 (d.rd F.UE_LIMIT) ≤ d.ueRecent l)
  | 1 => decide (d.rd F.CE_LIMIT < d.ceRecent l)
  | _ => true

/-- PC_FAILED (R285, R287): an unused spare that fails its scrub leaves the pool. -/
def execPcFailed (pc : Nat) (cause : BitVec 8) (s : State) : Host.Outcome State Fault Refusal :=
  s.act (fun d =>
    let st := d.rd (F.PC_STATE pc)
    let l := d.rd (F.PC_LOGICAL pc)
    if 640 ≤ pc ∨ 3 ≤ cause.toNat ∨ d.sys.phase ≠ .run then d
    else if st = 1 then d.removeSpare pc
    else if st = 2 ∨ d.limitReached l cause.toNat = false then d
    else
      let e := d.declareFailed pc cause.toNat
      if e.rd F.REPAIR_AUTO = 1 then (e.assignSpare l pc).1 else e.awaitRetire l pc)

/-! ### Sweeps (R288 to R292) -/

/-- The result of a PC_RETIRE (R297). -/
def retireResult (mirror twin poisoned spare : Nat) : List Byte :=
  leBytes 4 mirror ++ leBytes 4 twin ++ leBytes 4 poisoned ++ leBytes 2 spare

/-- A sweep has done its last line: its completion is recorded, and the PC_RETIREs that waited for it complete (R290, R296, R297). -/
def Dev.endSweep (d : Dev) (s : Sweep) : Dev :=
  let d := (d.mapTier (fun t => { t with sweeps := t.sweeps.filter (fun z => z.l != s.l) })).addRepair (.sweepDone s.l)
  let st := if s.spare = 640 then stCapReduced else stOk
  s.waiters.foldl (fun e w => e.setOutcome w.1 w.2 st
    ((retireResult s.mirror s.twin s.poisoned (if s.spare = 640 then 0xFFFF else s.spare) ++ noResult).take 16)) d

/-- REBUILD_SWEEP (R290): the sweep at the head of the queue does its next line; `twin` is what the partner answers where the line comes
from the twin copy. -/
def execRebuildSweep (twin : PeerRow) (s : State) : Host.Outcome State Fault Refusal :=
  s.act (fun d => match d.tier.sweeps with
    | [] => d
    | w :: _ =>
      if d.sys.phase ≠ .run then d
      else
        let x := if w.has w.next then (d, w)
          else d.rebuildLine w w.next (twin.status, (twin.data ++ List.replicate 256 0).take 256)
        let v : Sweep := { x.2 with next := w.next + 1, done := NatSet.del x.2.done w.next }
        if v.next < pcLines then x.1.setSweep v else x.1.endSweep v)

/-! ### PC_RETIRE (R297) -/

/-- The spare that serves the logical number which a failed pseudo-channel served; 0xFFFF where none does. -/
def Dev.spareFor (d : Dev) (p : Nat) : Nat :=
  let l := Tab.get d.tier.former p 0
  if l = 0 then 0xFFFF else (d.physPc (l - 1)).getD 0xFFFF

/-- A PC_RETIRE waits for the sweep of a logical pseudo-channel, or completes CAPACITY_REDUCED where an unmapping took its place. -/
def Dev.retireWait (x : Dev × Bool) (r : Nat) (k : Word) (l : Nat) : Dev × Option (St × List Byte) :=
  if x.2 then
    (x.1.mapTier (fun t => { t with sweeps := t.sweeps.map (fun s => if s.l = l then { s with waiters := s.waiters ++ [(r, k)] } else s) }), none)
  else (x.1, some (stCapReduced, retireResult 0 0 0 0xFFFF))

/-- PC_RETIRE (R297). -/
def Dev.retire (d : Dev) (r : Nat) (y : Desc) : Dev × Option (St × List Byte) :=
  let p := y.at 0x18 2
  if 639 < p then (d, some (stOutOfMap, noResult))
  else
    let st := d.rd (F.PC_STATE p)
    let l := d.rd (F.PC_LOGICAL p)
    if st = 1 then (d.removeSpare p, some (stOk, retireResult 0 0 0 0xFFFF))
    else if st = 2 then
      let f := Tab.get d.tier.former p 0
      if f ≠ 0 ∧ Tab.get d.tier.awaiting (f - 1) 0 = p + 1 then Dev.retireWait (d.assignSpare (f - 1) p) r y.count (f - 1)
      else (d, some (stOk, retireResult 0 0 0 (d.spareFor p)))
    else Dev.retireWait ((d.declareFailed p 3).assignSpare l p) r y.count l

/-- PC_RETIRE (R297). -/
def execPcRetire (ring : Fin 64) (count : Word) (s : State) : Host.Outcome State Fault Refusal :=
  s.act (fun d => d.runDesc ring count 0x53 (fun d y => d.retire ring y))

/-! ### The far tier (R286) -/

/-- FAR_FAIL (R286). -/
def execFarFail (pkg : Fin 20) (s : State) : Host.Outcome State Fault Refusal :=
  s.act (fun d =>
    if pkg.val ∈ d.tier.farFailed ∨ d.sys.phase ≠ .run then d
    else
      (((d.mapTier (fun t => { t with farFailed := NatSet.ins t.farFailed pkg })).wr F.FAR_FAIL 1).log 3 (0x210 + pkg / 5) 0x10A
        (leBytes 1 pkg)))

/-! ### Scrubbing (R277) -/

/-- A scrub read of one word of a spare that serves no line yet: it corrects, or poisons, counts and logs; `l` is the logical number
that an assigned spare is to serve, whose limits it then counts toward (R275 to R277, R285). The record names the line's address to
be, or 0 for an unused spare (R512). -/
def Dev.scrubSpare (d : Dev) (p i w : Nat) (l : Option Nat) : Dev :=
  let k := p * 2 ^ 25 + 4 * i + w
  let a := match l with | some l => lineAddr l i + 64 * w | none => 0
  if k ∈ d.mem.spareP ∨ k ∈ d.mem.spareU then
    let d : Dev := match l with
      | some _ => if k ∈ d.mem.spareP then d else { d with tier := { d.tier with ueWords := Tab.put d.tier.ueWords a (d.rd F.OP_TIME_MS) } }
      | none => d
    let d : Dev := { d with mem := { d.mem with spareP := NatSet.ins d.mem.spareP k, spareU := NatSet.del d.mem.spareU k } }
    (d.countErr .near true).logAccess (0x210 + p / 160) stMemUnc a
  else if k ∈ d.mem.spareC then
    let d : Dev := { d with mem := { d.mem with spareC := NatSet.del d.mem.spareC k } }
    (match l with | some l => d.noteCe l | none => d).countErr .near false
  else d

/-- The line that a scrub reads: the words of line `i` of spare `p`, where it is unused or has the line still to be rebuilt. -/
def Dev.scrubSpareLine (d : Dev) (p i : Nat) : Dev :=
  let go (l : Option Nat) : Dev := [0, 1, 2, 3].foldl (fun e w => e.scrubSpare p i w l) d
  if 640 ≤ p ∨ pcLines ≤ i then d
  else if d.rd (F.PC_STATE p) = 1 then go none
  else match d.tier.sweeps.find? (fun s => s.spare == p) with
    | some s => if s.has i then d else go (some s.l)
    | none => d

/-- A read of the four words of a line. -/
def Dev.scrubWords (d : Dev) (r : Region) (a : Nat) : Dev := (lineWords a).foldl (fun e w => (e.checkUnit r w).1) d

/-- SCRUB_READ (R277): the four words of one line are read; nobody receives a status. A line of a spare is one of an unused spare, or one
that an assigned spare has still to be given. A line that is lost has nothing to read. -/
def execScrubRead (line : ScrubLine) (s : State) : Host.Outcome State Fault Refusal :=
  s.act (fun d =>
    if d.rd F.SCRUB_HOURS = 0 ∨ d.sys.phase ≠ .run then d
    else match line with
    | .spare pc i => d.scrubSpareLine pc i
    | .flat addr =>
      let a := addr / 256 * 256
      match d.region a with
      | some (.near, _, _) =>
        let todo := d.tier.sweeps.any (fun s => s.l == logicalPc a && !s.has (lineOf a))
        if d.lineLost .near a || todo then d else d.scrubWords .near a
      | some (.far, _, _) => if d.lineLost .far a then d else d.scrubWords .far a
      | _ => d)

/-! ### The background tests (R263 to R265) -/

/-- Bytes of a region under test. -/
def bgtRegion : Nat := 4096

/-- The save copy of a region is a read of its granules, which corrects or poisons each (R256, R263, R264). -/
def Dev.saveRead (d : Dev) (r : Region) (a : Nat) : Dev := (unitsOf a bgtRegion 16).foldl (fun e u => (e.checkUnit r u).1) d

/-- A line of the Ingot that fails its test: a spare takes it over, with its poison marks, or it stays in use as it is (R264). -/
def Dev.ingotLineFails (d : Dev) (slice off : Nat) : Dev :=
  let d := d.wr F.INGOT_TEST_FAIL 1
  if d.rd (F.SPARES_I slice) = 0 then d.log 3 (0x200 + slice) 0x105 (leBytes 8 off)
  else
    let d := (d.wr (F.SPARES_I slice) (d.rd (F.SPARES_I slice) - 1)).mapTier (fun t => { t with ingotSpare := NatSet.ins t.ingotSpare (slice * 2 ^ 29 + off) })
    (d.log 2 (0x200 + slice) 0x105 (leBytes 8 off)).addRepair (.ingotLine slice off)

/-- BGT_INGOT_REGION (R263, R264): the region is read, tested and restored; `fails` are the 128 B lines of it (R236) that failed. -/
def execBgtIngotRegion (slice : Fin 4) (fails : NatSet) (s : State) : Host.Outcome State Fault Refusal :=
  s.act (fun d =>
    if d.rd F.BGT_INGOT_EN = 0 ∨ d.sys.phase ≠ .run then d
    else
      let pos := Tab.get d.tier.bgtPos slice 0
      let d := d.mapTier (fun t => { t with bgtPos := Tab.set t.bgtPos slice ((pos + 1) % 131072) 0 })
      let d := d.saveRead .ingot (ingotBase + slice * 2 ^ 29 + pos * bgtRegion)
      fails.foldl (fun e l => e.ingotLineFails slice (pos * bgtRegion + l % 32 * 128)) d)

/-- BGT_LS_REGION (R265): the store of a core that is IDLE or STOPPED and not in retention; it has no spare lines. -/
def execBgtLsRegion (core : Fin 96) (region : Nat) (fails : NatSet) (s : State) : Host.Outcome State Fault Refusal :=
  s.act (fun d =>
    let c := d.core core
    let pos := Tab.get d.tier.lsPos core 0
    if d.rd F.BGT_LS_EN = 0 ∨ d.sys.phase ≠ .run ∨ d.present core = false ∨ c.status = .running ∨ c.retained ∨ region ≠ pos then d
    else
      let d := d.mapTier (fun t => { t with lsPos := Tab.set t.lsPos core ((pos + 1) % 2048) 0 })
      let d := d.saveRead (.ls core) (lsAddr core + region * bgtRegion)
      fails.foldl (fun e l => (e.wr F.LS_TEST_FAIL 1).log 3 core 0x106 (leBytes 8 (region * bgtRegion + l % 32 * 128))) d)

/-! ### Retention of a local store (R262) -/

/-- The LS_RET bit of core `n`. -/
def Dev.lsRet (d : Dev) (n : Nat) : Bool :=
  bit (d.rd (if n < 32 then F.LS_RET_0 else if n < 64 then F.LS_RET_1 else F.LS_RET_2)) (n % 32)

/-- LS_RETENTION_ENTRY (R262). -/
def execLsRetentionEntry (core : Fin 96) (s : State) : Host.Outcome State Fault Refusal :=
  s.act (fun d =>
    let c := d.core core
    if d.present core ∧ d.lsRet core ∧ c.status = .idle ∧ d.sys.phase = .run then d.setCore core { c with retained := true } else d)

end Sys2Proof.Machine
end

