-- ==== Sys2Proof/Machine/Boot.lean ====
section
/-! DEFINITION. Losing power and starting: what keeps its value without rails (R471, R474, R515), the recorder's counts (R503, R504), the
repairs that committed records bring back (R296, R495), and the boot from a reference to Run or recovery (R455, R470, R488, R493). -/
namespace Sys2Proof.Machine
open Sys2Proof

/-! ### Removing the rails (R471, R474) -/

/-- Fields kept in the firmware store or fixed at manufacture. -/
def storedFields : List Field :=
  [F.IMG_INCOMPLETE, F.FW_VER_STORED, F.SVN_STORED, F.KEEP_WEAR_PCT, F.KEEP_RESERVE_PCT, F.POWER_CYCLES, F.SILICON_STEP, F.PEWTER_VER]

/-- The offsets of a stored calibration set: cold values are measured again at boot (R477, R478). -/
def storedCal (t : Tab CalItem) : Tab CalItem :=
  t.foldl (fun u x => Tab.set u x.1 { CalItem.reset with offset := x.2.offset } CalItem.reset) []

/-- What the device holds without its rails; `ph` says why they are gone (R471, R474). What the ports have sent stays sent. -/
def Dev.unpowered (d : Dev) (ph : Phase) : Dev :=
  let z := Dev.reset
  let e : Dev := { z with
    fuses := d.fuses
    sys := { z.sys with phase := ph, p54vOk := d.sys.p54vOk, auxOk := d.sys.auxOk, auxLatch := d.sys.auxLatch, tripN := d.sys.tripN,
                        tripped := d.sys.tripped, strapFeed := d.sys.strapFeed, strapSlot := d.sys.strapSlot }
    mem := { z.mem with keep := d.mem.keep, keepBad := d.mem.keepBad }
    tier := { z.tier with committed := d.tier.committed }
    portA := { z.portA with perst := d.portA.perst, out := d.portA.out }
    portB := { z.portB with perst := d.portB.perst, out := d.portB.out }
    svc := { z.svc with cal := storedCal d.svc.cal, hotLoad := d.svc.hotLoad, recStored := d.svc.recStored }
    recd := { z.recd with log := d.recd.log, newest := d.recd.newest, mark := d.recd.mark, saved := d.recd.saved, clean := d.recd.clean }
    env := d.env
    nextOrd := d.nextOrd
    free := d.free }
  (storedFields.foldl (fun e f => e.wr f (d.rd f)) e).wr F.RECOVER_NEXT d.svc.recStored

/-- Whether the rails are up. -/
def Dev.powered (d : Dev) : Bool :=
  match d.sys.phase with
  | .off => false
  | .sleep => false
  | _ => true

/-- A loss of power (R474). -/
def Dev.powerLost (d : Dev) (ph : Phase) : Dev :=
  ({ d with recd := { d.recd with clean := false } } : Dev).unpowered ph

/-! ### Starting the rails (R470, R503, R504, R523) -/

/-- The newest committed record's number, 0 where none is. -/
def Recorder.newestLogged (x : Recorder) : Word :=
  match x.byAge.getLast? with
  | some e => BitVec.ofNat 32 e.1
  | none => 0

/-- The number before the first of this power cycle (R503). -/
def Recorder.resumeSeq (x : Recorder) : Word :=
  if x.clean then x.newest
  else
    let n := x.newestLogged
    if (x.mark - nextSeq n).toNat < 2 ^ 31 then (if x.mark = 0 then n else x.mark - 1) else n

/-- The rails are good and the hub die waits for a reference; `kind` is the POWER_UP payload: 0 power-up, 1 Sleep exit (R470, R504, R511). -/
def Dev.powerOn (d : Dev) (kind : Nat) : Dev :=
  let r := d.recd
  let d := (d.wr F.POWER_CYCLES (d.rd F.POWER_CYCLES + 1)).wr F.OP_TIME_MS r.saved.2
  let d : Dev := { d with
    sys := { d.sys with phase := .waitRef, tripped := false }
    recd := { r with newest := r.resumeSeq, saved := (d.rd F.POWER_CYCLES, r.saved.2), clean := false } }
  d.log 1 0x350 0x119 (leBytes 1 kind)

/-! ### Repairs (R296, R495) -/

/-- Physical pseudo-channel `p` is failed and served logical `l`. -/
def Dev.markFailed (d : Dev) (l p : Nat) : Dev :=
  ((d.wr (F.PC_STATE p) 2).wr (F.PC_LOGICAL p) 0x3FF).mapTier (fun t => { t with former := Tab.set t.former p (l + 1) 0 })

/-- A sweep of logical `l` onto `spare` stands at its start. -/
def Dev.freshSweep (d : Dev) (l spare : Nat) : Dev :=
  (d.mapTier (fun t => { t with
    sweeps := t.sweeps.filter (fun s => s.l != l)
    awaiting := Tab.erase t.awaiting l })).putSweep l spare none (decide (Tab.get d.tier.awaiting l 0 ≠ 0))

/-- One committed repair record takes effect at boot. -/
def Dev.replay (d : Dev) (r : Repair) : Dev :=
  match r with
  | .assign l p old =>
    ((((d.markFailed l old).wr (F.PC_STATE p) 3).wr (F.PC_LOGICAL p) l).wr F.SPARES_LEFT (d.rd F.SPARES_LEFT - 1)).freshSweep l p
  | .removed p => (d.wr (F.PC_STATE p) 2).wr F.SPARES_LEFT (d.rd F.SPARES_LEFT - 1)
  | .failed p =>
    let l := d.rd (F.PC_LOGICAL p)
    (d.markFailed l p).mapTier (fun t => { t.declare l with
      sweeps := t.sweeps.filter (fun s => s.l != l), awaiting := Tab.set t.awaiting l (p + 1) 0 })
  | .sweepDone l => d.mapTier (fun t => { t with sweeps := t.sweeps.filter (fun s => s.l != l) })
  | .unmap l top =>
    let d := match d.physPc l with
      | some p => d.markFailed l p
      | none => d
    (d.wr F.NEAR_TOP_GIB top).freshSweep l 640
  | .ingotLine slice off =>
    (d.wr (F.SPARES_I slice) (d.rd (F.SPARES_I slice) - 1)).mapTier (fun t => { t with ingotSpare := NatSet.ins t.ingotSpare (slice * 2 ^ 29 + off) })
  | .coreMap n p =>
    (d.setCore n { d.core n with phys := p + 1 }).mapTier (fun t => { t with
      coreSpares := Tab.set t.coreSpares (d.dieOf n) (Tab.get t.coreSpares (d.dieOf n) 0 + 1) 0 })

/-! ### The PCIe links (R378, R457, R470) -/

/-- Whether a port's own reference is present (R456, R457). -/
def Dev.refOk (d : Dev) (p : PciePort) : Bool := decide (d.rd (match p with | .a => F.REF_A_OK | .b => F.REF_B_OK) = 1)

/-- The link of a port comes up at a speed and width, where its PERST, its reference and the module allow (R457, R470); what the
cross-port flush remembers starts again (R420). -/
def Dev.pcieTrain (d : Dev) (p : PciePort) (speed width : Nat) : Dev :=
  let q := d.port p
  let on := match d.sys.phase with
    | .run => true
    | .retain => true
    | .recovery => true
    | _ => false
  if q.perst || !d.refOk p || !on || d.pcieUp p || decide (speed = 0) then d
  else ((d.wr (F.LINK_SPEED (pnum p)) speed).wr (F.LINK_WIDTH (pnum p)) width).setPort p { q with lastAddr := none }

/-- The link of a port comes up with whatever it negotiates: a free choice among R379's speeds and widths (log 48). -/
def Dev.pcieAuto (d : Dev) (p : PciePort) : Dev :=
  let x := d.draw
  x.2.pcieTrain p (1 + x.1 % 3) (if x.1 / 4 % 2 = 0 then 8 else 4)

/-- The link of a port goes down without PERST: what waited for it is discarded (R383). -/
def Dev.pcieDown (d : Dev) (p : PciePort) : Dev :=
  if d.rd (F.LINK_SPEED (pnum p)) = 0 then d
  else
    ((d.wr (F.LINK_SPEED (pnum p)) 0).wr (F.LINK_WIDTH (pnum p)) 0).dropWaiting p

/-! ### Boot (R455, R470, R488, R493) -/

/-- Run: the components are loaded, committed repairs stand, the calibration set applies and the ports train (R470, R477, R488). -/
def Dev.bootRun (d : Dev) : Dev :=
  let h := d.storedHeader
  let d := [1, 2, 3, 4].foldl (fun e t => e.activate h t) d
  let d := ((d.wr F.FW_VER_STORED (imgVer h)).wr F.SVN_STORED (imgSvn h)).wr F.HOT_LOAD d.svc.hotLoad
  let d := d.wr F.CAL_STALE (if d.svc.hotLoad = 0 then 1 else 0)
  let d : Dev := { d with svc := { d.svc with bootSet := d.rd F.SFU_SET_VER }, sys := { d.sys with phase := .run } }
  (d.tier.committed.foldl Dev.replay d).measureAll

/-- Step 3 of R470 onward: Run where the stored image passes R487 and RECOVER_NEXT is 0, else recovery (R488, R493). -/
def Dev.boot (d : Dev) : Dev :=
  let r := d.storedReason
  let d := d.noteReason 0 r
  let d : Dev := if r = 0 ∧ d.rd F.RECOVER_NEXT = 0 then d.bootRun else { d with sys := { d.sys with phase := .recovery } }
  (d.pcieAuto .a).pcieAuto .b

/-- REFERENCE_ARRIVAL (R455, R456, R470): a reference becomes present; one that the device waits for is selected and boot goes on. -/
def execReferenceArrival (ref : PciePort) (s : State) : Host.Outcome State Fault Refusal :=
  s.act (fun d =>
    if d.refOk ref || !d.powered then d
    else
      let d := d.wr (match ref with | .a => F.REF_A_OK | .b => F.REF_B_OK) 1
      match d.sys.phase with
      | .waitRef => (d.wr F.REF_SEL (pnum (if d.refOk .a then .a else .b))).boot
      | _ => d.pcieAuto ref)

/-- A wake from Sleep; after a thermal trip it counts as a power-up (R470, R524). -/
def Dev.wakeSleep (d : Dev) : Dev := ({ d with sys := { d.sys with tripN := true } } : Dev).powerOn (if d.sys.tripped then 0 else 1)

/-- POWER_UP (R521, R523): P54V comes into its range with P3V3_AUX present. In Sleep it is a power-up too, or the wake that has waited
for it with KZ_WAKE_N still low. -/
def execPowerUp (s : State) : Host.Outcome State Fault Refusal :=
  s.act (fun d =>
    if d.sys.phase = .off ∧ d.sys.auxOk then ({ d with sys := { d.sys with p54vOk := true, auxLatch := false } } : Dev).powerOn 0
    else if d.sys.phase = .off then { d with sys := { d.sys with p54vOk := true } }
    else if d.sys.phase = .sleep ∧ d.sys.p54vOk = false then
      let e : Dev := { d with sys := { d.sys with p54vOk := true, kzLow := false } }
      if d.sys.auxOk = false ∨ d.sys.auxLatch then e
      else if d.sys.kzLow then e.wakeSleep
      else e.powerOn 0
    else d)

/-- KZ_WAKE_N (R470, R523, R524): a wake from Sleep, which waits while P54V is out of its range. -/
def execKzWakeN (s : State) : Host.Outcome State Fault Refusal :=
  s.act (fun d =>
    if d.sys.phase = .sleep ∧ d.sys.auxOk ∧ d.sys.auxLatch = false then
      if d.sys.p54vOk then d.wakeSleep else { d with sys := { d.sys with kzLow := true } }
    else d)

/-- RAIL_REMOVAL (R474): the input is below 42.0 V. In Sleep no rail but the wake domain's is up, and the wake detector stays (R466, R523);
the removal of P54V ends what an earlier loss of P3V3_AUX forbids. -/
def execRailRemoval (s : State) : Host.Outcome State Fault Refusal :=
  s.act (fun d =>
    match d.sys.phase with
    | .off => { d with sys := { d.sys with p54vOk := false } }
    | .sleep => { d with sys := { d.sys with p54vOk := false, auxLatch := false } }
    | _ => ({ d with sys := { d.sys with p54vOk := false, auxLatch := false } } : Dev).powerLost .off)

/-- OVERVOLTAGE (R521): the rails are removed as at a loss of power; in Sleep none is up, and P54V is out of its range (R470). -/
def execOvervoltage (s : State) : Host.Outcome State Fault Refusal :=
  s.act (fun d =>
    let e : Dev := { d with sys := { d.sys with p54vOk := false } }
    if d.powered then e.powerLost .off else e)

/-- P3V3_AUX_LOSS (R522, R523): the wake detector, the sideband and the THERM_TRIP_N latch lose their supply. -/
def execP3v3AuxLoss (s : State) : Host.Outcome State Fault Refusal :=
  s.act (fun d =>
    if d.sys.auxOk then
      { d with sys := { d.sys with auxOk := false, tripN := true, auxLatch := d.sys.auxLatch || d.powered } }
    else d)

/-- P3V3_AUX_RESTORE (R527). -/
def execP3v3AuxRestore (s : State) : Host.Outcome State Fault Refusal := s.act (fun d => { d with sys := { d.sys with auxOk := true } })

/-- The trip threshold of a sensor by its payload code; none where no sensor has the code (R524). -/
def tripAt (sensor : Nat) : Option Nat :=
  if sensor < 9 then some 115
  else if 0x10 ≤ sensor ∧ sensor < 0x24 then some 105
  else if 0x30 ≤ sensor ∧ sensor < 0x44 then some 100
  else if sensor = 0x50 then some 95
  else none

/-- THERMAL_TRIP (R524): the Fatal record starts a flush, and the rails are removed but for the wake domain. -/
def execThermalTrip (sensor celsius : BitVec 8) (s : State) : Host.Outcome State Fault Refusal :=
  s.act (fun d =>
    match tripAt sensor.toNat with
    | none => d
    | some t =>
      if celsius.toNat < t ∨ d.powered = false then d
      else
        let d : Dev := { d with sys := { d.sys with tripN := false, tripped := true } }
        (d.log 4 0x350 0x11A (leBytes 1 sensor.toNat ++ leBytes 1 celsius.toNat)).powerLost .sleep)

end Sys2Proof.Machine
end

