-- ==== Sys2Proof/Machine/Coll.lean ====
section
/-! DEFINITION. Phase mappings (R319 to R322) and collectives (R367 to R373): participants, READY, reductions, and the exchange of
each kind. The messages that the spec leaves to the device are log 25's. -/
namespace Sys2Proof.Machine
open Sys2Proof

/-! ### Phase mappings (R319 to R322) -/

/-- The mapping in a slot. -/
def Dev.phaseMap (d : Dev) (m : Nat) : PhaseMap := Tab.get d.cxe.maps m PhaseMap.reset

/-- Whether a mapping is empty (R320). -/
def PhaseMap.empty (m : PhaseMap) : Bool := m.axes.isEmpty

/-- The size of axis `a`; axes at or above NAXES count 1 (R319). -/
def PhaseMap.size (m : PhaseMap) (a : Nat) : Nat := m.axes.getD a 1

/-- How far apart neighbours on axis `a` stand in the table, axis 0 fastest (R320). -/
def PhaseMap.step (m : PhaseMap) (a : Nat) : Nat := (m.axes.take a).foldl (· * ·) 1

/-- The lowest table position that holds an ID (R321). -/
def PhaseMap.find (m : PhaseMap) (id : BitVec 16) : Option Nat := m.ids.findIdx? (fun x => x == id)

/-- The coordinate on axis `a` of a table position. -/
def PhaseMap.coord (m : PhaseMap) (pos a : Nat) : Nat := pos / m.step a % m.size a

/-- The PHASE_MAP result (R321). -/
def PhaseMap.result (m : PhaseMap) (id : BitVec 16) : List Byte :=
  match m.find id with
  | some p => (List.range 4).flatMap (fun a => leBytes 2 (m.coord p a)) ++ leBytes 1 1
  | none => leBytes 8 0 ++ leBytes 1 0

/-- PHASE_MAP (R319 to R321). -/
def Dev.loadMap (d : Dev) (y : Desc) : Dev × Option (St × List Byte) :=
  let slot := bits (y.at 0x18 1) 0 3
  let n := min 4 (bits (y.at 0x19 1) 0 3)
  let axes := (List.range n).map (fun a => y.at (0x1C + 2 * a) 2)
  let put (e : Dev) (m : PhaseMap) : Dev × Option (St × List Byte) :=
    (e.mapCxe (fun c => { c with maps := Tab.set c.maps slot m PhaseMap.reset }), some (stOk, m.result e.myId))
  if axes.isEmpty ∨ axes.contains 0 then put d PhaseMap.reset
  else
    let p := min 65536 (axes.foldl (· * ·) 1)
    let x := d.descLoad y y.addr (2 * p)
    if x.2.1 ≠ stOk then (x.1, some (x.2.1, noResult))
    else put x.1 ⟨axes, (chunks 2 x.2.2 p).map (fun b => BitVec.ofNat 16 (leNat b))⟩

/-- PHASE_MAP (R319). -/
def execPhaseMap (ring : Fin 64) (count : Word) (s : State) : Host.Outcome State Fault Refusal :=
  s.act (fun d => d.runDesc ring count 0x48 (fun d y => d.loadMap y))

/-! ### Elements (R368, R369) -/

/-- KIND of an ALL_REDUCE. -/
def kAllReduce : Nat := 0
/-- KIND of a REDUCE_SCATTER. -/
def kReduceScatter : Nat := 1
/-- KIND of an ALL_GATHER. -/
def kAllGather : Nat := 2
/-- KIND of an ALL_TO_ALL. -/
def kAllToAll : Nat := 3
/-- KIND of a BROADCAST. -/
def kBroadcast : Nat := 4
/-- KIND of a BARRIER. -/
def kBarrier : Nat := 5

/-- The bytes of an element as it stands in memory. -/
def Coll.memSize (c : Coll) : Nat := if c.xacc then 80 else elemBits c.fmt / 8

/-- Whether elements are combined in FP32 and rounded once at the end (R369). -/
def Coll.widens (c : Coll) : Bool := !c.xacc && (c.fmt == 7 || c.fmt == 8)

/-- Whether an ALL_REDUCE's partial results travel. -/
def Coll.partial_ (c : Coll) : Bool := c.kind == kAllReduce

/-- The bytes of an element as it travels: partial sums of BF16 and FP16 travel as FP32 (R369). -/
def Coll.size (c : Coll) : Nat := if c.partial_ && c.widens then 4 else c.memSize

/-- Elements in a packet (R373). -/
def Coll.perPkt (c : Coll) : Nat := maxData / c.size

/-- Changes every element of a byte string. -/
def mapElems (size : Nat) (f : Nat → List Byte) (bs : List Byte) : List Byte :=
  (chunks size bs (bs.length + 1)).flatMap (fun e => f (leNat e))

/-- Elements widened to FP32 (R369). -/
def Coll.widen (c : Coll) (bs : List Byte) : List Byte :=
  if c.widens then mapElems 2 (fun v => leBytes 4 (fFP32.encode rne ((elemOf c.fmt).decode v)).1) bs else bs

/-- Elements rounded once to FMT (R369). -/
def Coll.narrow (c : Coll) (bs : List Byte) : List Byte :=
  if c.widens then mapElems 4 (fun v => leBytes 2 ((elemOf c.fmt).encode rne (fFP32.decode v)).1) bs else bs

/-- The TYPE in which elements combine: FP32, FP64 or INT32. -/
def Coll.ty (c : Coll) : Nat := match c.fmt with | 10 => 3 | 11 => 4 | _ => 0

/-- Combines two elements, as bytes (R72, R123, R124, R369). -/
def Coll.comb1 (c : Coll) (a b : List Byte) : List Byte :=
  if c.xacc then ((ExAcc.ofBytes a).combine (ExAcc.ofBytes b)).toBytes
  else
    let o := match c.op with | 1 => VxaOp.max | 2 => VxaOp.min | _ => VxaOp.add
    leBytes (tyBits c.ty / 8) ((elemOp2 o c.ty (leNat a) (leNat b)).getD (0, 0)).1

/-- The bytes of an element as it combines. -/
def Coll.combSize (c : Coll) : Nat := if c.widens then 4 else c.memSize

/-- Combines two strings of elements. -/
def Coll.comb (c : Coll) (a b : List Byte) : List Byte :=
  let n := c.combSize
  ((chunks n a (a.length + 1)).zip (chunks n b (b.length + 1))).flatMap (fun p => c.comb1 p.1 p.2)

/-- R370's order over the participants' values, listed by rank: axis by axis, each group folded from coordinate 0 on. -/
def Coll.inOrder (c : Coll) (shape : List Nat) (xs : List (List Byte)) : List Byte :=
  match shape with
  | [] => xs.headD []
  | z :: rest => c.inOrder rest ((pieces z xs (xs.length + 1)).map (fun g => g.tail.foldl c.comb (g.headD [])))

/-- Whether the order of combining can show in the result with deterministic mode off (R370). -/
def Coll.orderShows (c : Coll) : Bool := !c.det && !c.xacc && c.fmt != 11 && c.op == 0

/-- The reduction of the participants' values; with the mode off the order and grouping of a floating-point SUM are free (R370). -/
def Coll.reduce (c : Coll) (k : Nat) (xs : List (List Byte)) : List Byte :=
  if c.orderShows then
    (List.range ((xs.headD []).length / c.combSize)).flatMap (fun e =>
      combineFree c.comb1 [] (xs.map (fun x => (x.drop (e * c.combSize)).take c.combSize)) (k / 2 ^ (64 * e)) (xs.length + 1))
  else c.inOrder c.shape xs

/-! ### Ranks (R367) -/

/-- The coordinate of a rank on the named axis at place `i`. -/
def Coll.coord (c : Coll) (rank i : Nat) : Nat := rank / (c.shape.take i).foldl (· * ·) 1 % c.shape.getD i 1

/-- The rank distance of neighbours on the named axis at place `i`. -/
def Coll.stride (c : Coll) (i : Nat) : Nat := (c.shape.take i).foldl (· * ·) 1

/-- The rank of a device other than this one. -/
def Coll.rankOf (c : Coll) (id : BitVec 16) : Option Nat :=
  (c.peers.zipIdx.find? (fun p => p.1 == id && p.2 != c.rank)).map (fun p => p.2)

/-- The ranks of all other participants. -/
def Coll.others (c : Coll) : List Nat := (List.range c.parts).filter (fun r => r != c.rank)

/-- The participants that this one sends to or hears from, to which it sends READY (R371, log 25). -/
def Coll.partners (c : Coll) : List Nat :=
  if c.n = 0 then c.others
  else if c.kind = kAllReduce then
    if c.det then
      (List.range c.shape.length).flatMap (fun i =>
        let x := c.coord c.rank i
        (if 0 < x then [c.rank - c.stride i] else []) ++ (if x + 1 < c.shape.getD i 1 then [c.rank + c.stride i] else []))
    else [(c.rank + 1) % c.parts, (c.rank + c.parts - 1) % c.parts].eraseDups.filter (fun r => r != c.rank)
  else if c.kind = kBroadcast ∧ c.rank ≠ c.root then [c.root]
  else c.others

/-! ### A collective's progress -/

/-- A collective under way in one command: the block, the collective, its first failure, the command's collisions and the number of the
next shared-port access. -/
structure CRun where
  dev   : Dev
  c     : Coll
  st    : St
  drops : Drops
  acc   : Nat

/-- The COLL packet of a message (R355, R356). -/
def Coll.pkt (c : Coll) (me : BitVec 16) (m : CollMsg) : Pkt :=
  ⟨c.vc, popColl, false, 0, 0, 32, c.peers.getD m.rank 0xFFFF, me, m.off, m.data.length, c.id, BitVec.ofNat 16 c.ring, [], m.data⟩

/-- The READY packet to a rank (R371). -/
def Coll.readyPkt (c : Coll) (me : BitVec 16) (rank : Nat) : Pkt :=
  ⟨0, popReady, false, 0, 0, 32, c.peers.getD rank 0xFFFF, me, 0, 0, c.id, BitVec.ofNat 16 c.ring, [], []⟩

/-- Sends a packet of a collective; one that cannot go fails it (R372). -/
def CRun.put (x : CRun) (k : Pkt) : CRun :=
  if x.st ≠ stOk then x
  else
    let y := x.dev.sendPkt k
    match y.2 with
    | .ok p => { x with dev := y.1, c := { x.c with links := NatSet.ins x.c.links p, bytes := x.c.bytes + k.data.length } }
    | .error _ => { x with dev := y.1, st := stLinkLost }

/-- Whether a message can go to a rank: its READY has come, and no earlier packet of the ring to that device went another way and is
unanswered (R363, R371). -/
def CRun.canSend (x : CRun) (rank : Nat) : Bool :=
  x.c.ready.contains rank && !x.dev.routeBusy x.c.ring (x.c.peers.getD rank 0xFFFF) x.c.vc []

/-- Sends a message, or keeps it until it can go. -/
def CRun.send (x : CRun) (m : CollMsg) : CRun :=
  if x.canSend m.rank then x.put (x.c.pkt x.dev.myId m)
  else { x with c := { x.c with queue := x.c.queue ++ [m] } }

/-- Sends the messages that can go. -/
def CRun.flush (x : CRun) : CRun :=
  let go := x.c.queue.filter (fun m => x.canSend m.rank)
  go.foldl CRun.send { x with c := { x.c with queue := x.c.queue.filter (fun m => !x.canSend m.rank) } }

/-- The messages that carry elements `off` to `off + n` of a string to a rank; `base` is the message offset of element `off`. -/
def Coll.msgs (c : Coll) (rank : Nat) (val : List Byte) (off n base : Nat) : List CollMsg :=
  (rowPieces n c.perPkt).map (fun p => (⟨rank, base + p.1, (val.drop ((off + p.1) * c.size)).take (p.2 * c.size)⟩ : CollMsg))

/-- Sends elements of a string to a rank. -/
def CRun.sendAll (x : CRun) (rank : Nat) (val : List Byte) (off n base : Nat) : CRun := (x.c.msgs rank val off n base).foldl CRun.send x

/-- Writes elements of the result, in memory form, at element `off` of DEST. -/
def CRun.store (x : CRun) (off : Nat) (bs : List Byte) : CRun :=
  if x.st ≠ stOk ∨ bs.isEmpty then x
  else match x.dev.desc x.c.ring x.c.count with
    | none => x
    | some y =>
      let w := x.dev.descStore x.c.ring y ((x.c.dest + off * x.c.memSize) % 2 ^ 64) bs (fun _ => false) x.drops x.acc
      { x with dev := w.1.dev, st := w.1.st, acc := w.2 }

/-- Puts bytes into a string at a byte offset. -/
def setRange (val : List Byte) (at_ : Nat) (bs : List Byte) : List Byte := val.take at_ ++ bs ++ val.drop (at_ + bs.length)

/-- The elements of this device's value that a message of `m` elements at `off` meets. -/
def Coll.slice (c : Coll) (off m : Nat) : List Byte := (c.val.drop (off * c.size)).take (m * c.size)

/-- A piece of an ALL_REDUCE is complete for this device's current axis: it becomes part of its value, and of the result where no axis
is left (R370, R373). -/
def CRun.final (x : CRun) (off : Nat) (bs : List Byte) (last : Bool) : CRun :=
  let x := { x with c := { x.c with val := setRange x.c.val (off * x.c.size) bs, left := x.c.left - bs.length / x.c.size } }
  if last then x.store off (x.c.narrow bs) else x

/-! ### ALL_REDUCE along chains (R373) -/

/-- Starts the chain of the current axis; coordinate 0 sends first. -/
def CRun.startAxis (x : CRun) : CRun :=
  let i := x.c.axis
  if x.c.shape.length ≤ i then x
  else
    let x := { x with c := { x.c with left := x.c.n } }
    if x.c.coord x.c.rank i = 0 then x.sendAll (x.c.rank + x.c.stride i) x.c.val 0 x.c.n 0 else x

/-- A message on the chain of the current axis: up from the lower neighbour, or down from the higher one. -/
def CRun.chain (x : CRun) (m : CollMsg) : CRun :=
  let c := x.c
  let i := c.axis
  let k := c.coord c.rank i
  let z := c.shape.getD i 1
  let cnt := m.data.length / c.size
  let last := i + 1 == c.shape.length
  if m.rank < c.rank then
    let v := c.comb m.data (c.slice m.off cnt)
    if k + 1 < z then x.send ⟨c.rank + c.stride i, m.off, v⟩
    else (x.final m.off v last).send ⟨c.rank - c.stride i, m.off, v⟩
  else
    let y := x.final m.off m.data last
    if 0 < k then y.send ⟨c.rank - c.stride i, m.off, m.data⟩ else y

/-- The place among the named axes of the only one on which a sender's rank differs. -/
def Coll.axisOf (c : Coll) (rank : Nat) : Nat :=
  ((List.range c.shape.length).find? (fun i => c.coord rank i != c.coord c.rank i)).getD 0

/-- Moves on to the next axes while the current one is complete, taking up the messages that came early for them. -/
def CRun.nextAxes (x : CRun) (fuel : Nat) : CRun :=
  match fuel with
  | 0 => x
  | n + 1 =>
    if x.st = stOk ∧ x.c.axis < x.c.shape.length ∧ x.c.left = 0 then
      let x := { x with c := { x.c with axis := x.c.axis + 1 } }
      let now := x.c.early.filter (fun m => x.c.axisOf m.rank == x.c.axis)
      let x := { x with c := { x.c with early := x.c.early.filter (fun m => x.c.axisOf m.rank != x.c.axis) } }
      (now.foldl CRun.chain x.startAxis).nextAxes n
    else x

/-- A message of a deterministic ALL_REDUCE: it is kept where its axis has not come yet. -/
def CRun.detMsg (x : CRun) (m : CollMsg) : CRun :=
  let a := x.c.axisOf m.rank
  if x.c.axis < a then { x with c := { x.c with early := x.c.early ++ [m] } }
  else if a = x.c.axis then (x.chain m).nextAxes 8
  else x

/-! ### ALL_REDUCE in two rings (R373, log 25) -/

/-- The first element of segment `j` of a ring's half: half 0 goes up the ranks, half 1 down. -/
def Coll.segStart (c : Coll) (half j : Nat) : Nat :=
  let h := c.n / 2
  if half = 0 then j * h / c.parts else h + j * (c.n - h) / c.parts

/-- The rank to which a ring sends on. -/
def Coll.ringNext (c : Coll) (half : Nat) : Nat := if half = 0 then (c.rank + 1) % c.parts else (c.rank + c.parts - 1) % c.parts

/-- Each ring begins with the segment of this device's own number. -/
def CRun.startRings (x : CRun) : CRun :=
  let x := { x with c := { x.c with left := x.c.n } }
  [0, 1].foldl (fun (y : CRun) h =>
    let a := y.c.segStart h y.c.rank
    y.sendAll (y.c.ringNext h) y.c.val a (y.c.segStart h (y.c.rank + 1) - a) a) x

/-- A message of a ring: its segment is combined on its way round, and then passed round complete. -/
def CRun.ringMsg (x : CRun) (m : CollMsg) : CRun :=
  let c := x.c
  let half := if m.off < c.n / 2 then 0 else 1
  let j := ((List.range c.parts).find? (fun j => decide (c.segStart half j ≤ m.off ∧ m.off < c.segStart half (j + 1)))).getD 0
  let k := if half = 0 then (c.rank + c.parts - j) % c.parts else (j + c.parts - c.rank) % c.parts
  let seen := !(Tab.get c.got m.off []).isEmpty
  let next (bs : List Byte) : CollMsg := ⟨c.ringNext half, m.off, bs⟩
  if k = 0 ∨ seen then
    let y := x.final m.off m.data true
    if k + 2 = c.parts then y else y.send (next m.data)
  else
    let v := c.comb m.data (c.slice m.off (m.data.length / c.size))
    let y := { x with c := { c with got := Tab.set c.got m.off [1] [] } }
    if k + 1 = c.parts then (y.final m.off v true).send (next v) else y.send (next v)

/-! ### The other kinds -/

/-- The place of a rank's data among the pieces received. -/
def gotKey (rank off : Nat) : Nat := rank * 2 ^ 40 + off

/-- The whole block received from a rank. -/
def Coll.block (c : Coll) (rank : Nat) : List Byte :=
  (c.got.filter (fun e => decide (gotKey rank 0 ≤ e.1 ∧ e.1 < gotKey (rank + 1) 0))).flatMap (fun e => e.2)

/-- A REDUCE_SCATTER with every block of this rank: the reduction is written (R368, R370). -/
def CRun.scatterDone (x : CRun) : CRun :=
  let f := x.dev.draw
  let x := if x.c.orderShows then { x with dev := f.2 } else x
  x.store 0 (x.c.narrow (x.c.reduce f.1 ((List.range x.c.parts).map (fun r => x.c.widen (x.c.block r)))))

/-- What a participant does at its start (R368, R373). -/
def CRun.start (x : CRun) : CRun :=
  let c := x.c
  let sz := c.size
  let own (r : Nat) : List Byte := (c.val.drop (r * c.n * sz)).take (c.n * sz)
  let all (f : CRun → Nat → CRun) (x : CRun) : CRun := c.others.foldl f x
  if c.n = 0 then x
  else if c.kind = kAllReduce then
    if c.parts = 1 then x.store 0 (c.narrow c.val)
    else if c.det then (x.startAxis).nextAxes 8
    else x.startRings
  else if c.kind = kReduceScatter then
    let x := { x with c := { c with left := (c.parts - 1) * c.n, got := Tab.set c.got (gotKey c.rank 0) (own c.rank) [] } }
    let x := all (fun y r => y.sendAll r c.val (r * c.n) c.n 0) x
    if x.c.left = 0 then x.scatterDone else x
  else if c.kind = kAllGather then
    all (fun y r => y.sendAll r c.val 0 c.n 0) ({ x with c := { c with left := (c.parts - 1) * c.n } }.store (c.rank * c.n) c.val)
  else if c.kind = kAllToAll then
    all (fun y r => y.sendAll r c.val (r * c.n) c.n 0)
      ({ x with c := { c with left := (c.parts - 1) * c.n } }.store (c.rank * c.n) (own c.rank))
  else if c.rank = c.root then all (fun y r => y.sendAll r c.val 0 c.n 0) (x.store 0 c.val)
  else { x with c := { c with left := c.n } }

/-- A COLL message, cut to the elements that this device's descriptor counts (R371, log 37). -/
def CRun.message (x : CRun) (m : CollMsg) : CRun :=
  let c := x.c
  let cnt := min (m.data.length / c.size) (c.n - m.off)
  let m : CollMsg := { m with data := m.data.take (cnt * c.size) }
  if cnt = 0 then x
  else if c.kind = kAllReduce then (if c.det then x.detMsg m else x.ringMsg m)
  else
    let x := { x with c := { c with left := c.left - cnt } }
    if c.kind = kReduceScatter then
      let x := { x with c := { x.c with got := Tab.set x.c.got (gotKey m.rank m.off) m.data [] } }
      if x.c.left = 0 then x.scatterDone else x
    else if c.kind = kBroadcast then x.store m.off m.data
    else x.store (m.rank * c.n + m.off) m.data

/-- Whether a collective is complete: its result is there, its messages have gone, and a BARRIER has met everyone (R368). -/
def Coll.complete (c : Coll) : Bool :=
  decide (c.left = 0) && c.queue.isEmpty && (c.n != 0 || c.others.all (fun r => c.ready.contains r)) &&
    (!(c.kind == kAllReduce && c.det && c.n != 0) || decide (c.shape.length ≤ c.axis))

/-- Puts a collective back, or ends it (R372). -/
def CRun.close (x : CRun) : Dev :=
  if x.st ≠ stOk then x.dev.endColl x.c x.st
  else if x.c.complete then x.dev.endColl x.c stOk
  else x.dev.mapCxe (fun e => { e with
    colls := if e.colls.any (fun z => z.ring == x.c.ring && z.count == x.c.count)
      then e.colls.map (fun z => if z.ring == x.c.ring && z.count == x.c.count then x.c else z)
      else e.colls ++ [x.c] })

/-! ### COLLECTIVE (R367, R368, R371) -/

/-- FMT as it is read (R368). -/
def collFmt (v : Nat) : Nat := if 7 ≤ v ∧ v ≤ 11 then v else 9

/-- The bit of AXES for each axis, as the list of the named axes. -/
def namedAxes (v : Nat) : List Nat := (List.range 4).filter (fun a => v.testBit a)

/-- The participants' IDs by rank: this device's coordinates outside the named axes, every coordinate on them (R367). -/
def PhaseMap.group (m : PhaseMap) (pos : Nat) (axes : List Nat) : List (BitVec 16) :=
  let base := axes.foldl (fun p a => p - m.coord pos a * m.step a) pos
  let poss := axes.foldl (fun (ps : List Nat) a => (List.range (m.size a)).flatMap (fun k => ps.map (fun p => p + k * m.step a))) [base]
  poss.map (fun p => m.ids.getD p 0xFFFF)

/-- This device's rank (R367). -/
def PhaseMap.rank (m : PhaseMap) (pos : Nat) (axes : List Nat) : Nat :=
  (axes.foldl (fun (x : Nat × Nat) a => (x.1 + m.coord pos a * x.2, x.2 * m.size a)) (0, 1)).1

/-- The collective that a descriptor names, without its data; none where the device has no place in the mapping (R321, R359, R367, R368). -/
def Dev.collOf (d : Dev) (r : Nat) (y : Desc) : Option Coll :=
  let m := d.phaseMap (bits (y.at 0x20 1) 0 3)
  if !d.hasId || m.empty then none
  else match m.find d.myId with
    | none => none
    | some pos =>
      let axes := namedAxes (bits (y.at 0x20 1) 4 4)
      let kind := min 5 (bits (y.at 0x21 1) 0 3)
      let vc := bits (y.at 0x2C 1) 0 3
      let op := bits (y.at 0x23 1) 0 2
      some { id := BitVec.ofNat 32 (y.at 0x24 4), ring := r, count := y.count, det := d.rd F.DET_MODE == 1, kind := kind,
             fmt := collFmt (bits (y.at 0x22 1) 0 4), xacc := bit (y.at 0x22 1) 4, op := if op = 3 then 0 else op,
             n := if kind = kBarrier then 0 else y.cnt, root := y.at 0x28 4, vc := if 3 ≤ vc ∧ vc ≤ 6 then vc else 3,
             dest := y.at 0x18 8, shape := (axes.map m.size).filter (fun z => z != 1), rank := m.rank pos axes,
             peers := m.group pos axes, val := [], got := [], axis := 0, early := [], ready := [], queue := [], links := [],
             bytes := 0, left := 0 }

/-- Elements of this device's source (R368). -/
def Coll.sourceElems (c : Coll) : Nat :=
  if c.kind = kReduceScatter ∨ c.kind = kAllToAll then c.parts * c.n
  else if c.kind = kBroadcast ∧ c.rank ≠ c.root then 0
  else c.n

/-- COLLECTIVE: the source is read, READY goes out, and the READY notices held for it are taken up (R367 to R371). It waits while earlier
packets of its ring to a participant went another way and are unanswered (R363), and for a port in D3hot (R385). -/
def Dev.startColl (d : Dev) (r : Nat) (y : Desc) (drops : Drops) : Dev × Option (St × List Byte) :=
  match d.collOf r y with
  | none => (d, some (stOutOfMap, noResult))
  | some c =>
    if c.kind = kBroadcast ∧ c.parts ≤ c.root then (d, some (stOutOfMap, leBytes 4 c.parts ++ leBytes 4 c.rank))
    else if c.partners.any (fun k => d.routeBusy r (c.peers.getD k 0xFFFF) 0 []) then (d, some (stWait, []))
    else
      let x := if c.sourceElems = 0 then (d, stOk, []) else d.descLoad y y.addr (c.sourceElems * c.memSize)
      if x.2.1 ≠ stOk then (x.1, some (x.2.1, leBytes 4 c.parts ++ leBytes 4 c.rank))
      else
        let c := { c with val := if c.partial_ then c.widen x.2.2 else x.2.2 }
        let mine := x.1.cxe.notices.filter (fun n => n.2 == c.id && c.peers.contains n.1)
        let ready := mine.foldl (fun (t : NatSet) n => match c.rankOf n.1 with | some k => NatSet.ins t k | none => t) []
        let e := x.1.mapCxe (fun s => { s with notices := s.notices.filter (fun n => !mine.contains n) })
        let x : CRun := ⟨e, { c with ready := ready }, stOk, drops, 0⟩
        let x := c.partners.foldl (fun (z : CRun) k => z.put (c.readyPkt z.dev.myId k)) x
        let x := x.start
        if x.st = stWait then (d, some (stWait, [])) else (x.close, none)

/-- COLLECTIVE (R368). -/
def execCollective (ring : Fin 64) (count : Word) (drops : Drops) (s : State) : Host.Outcome State Fault Refusal :=
  s.act (fun d => d.runDesc ring count 0x62 (fun d y => d.startColl ring y drops))

/-! ### COLL, READY and the timers (R369 to R372) -/

/-- The collective under way that a packet of `src` with a COLL_ID belongs to, with the sender's rank. -/
def Dev.collFor (d : Dev) (id : Word) (src : BitVec 16) : Option (Coll × Nat) :=
  (d.cxe.colls.filterMap (fun c => if c.id == id then (c.rankOf src).map (fun k => (c, k)) else none)).head?

/-- COLL (R369 to R373). A packet of no collective under way is ignored (log 37); one whose data go to a port in D3hot waits (R385). -/
def execPktColl (drops : Drops) (s : State) : Host.Outcome State Fault Refusal :=
  s.act (fun d => match d.takePkt (d.mine popColl) with
    | none => d
    | some (k, e) => match e.collFor k.tag k.src with
      | none => e
      | some (c, r) =>
        let x := (⟨e, c, stOk, drops, 0⟩ : CRun).message ⟨r, k.addr, k.data⟩
        if x.st = stWait then d else x.close)

/-- READY (R371): up to 4,096 notices are held for collectives not yet started. -/
def execPktReady (s : State) : Host.Outcome State Fault Refusal :=
  s.act (fun d => match d.takePkt (d.mine popReady) with
    | none => d
    | some (k, e) => match e.collFor k.tag k.src with
      | some (c, r) => (CRun.flush ⟨e, { c with ready := NatSet.ins c.ready r }, stOk, [], 0⟩).close
      | none =>
        if e.cxe.notices.contains (k.src, k.tag) || decide (4096 ≤ e.cxe.notices.length) then e
        else e.mapCxe (fun s => { s with notices := s.notices ++ [(k.src, k.tag)] }))

/-- READY_RESEND (R371): READY goes again to the participants that have not answered with theirs. -/
def execReadyResend (collId : Word) (s : State) : Host.Outcome State Fault Refusal :=
  s.act (fun d => (d.cxe.colls.filter (fun c => c.id == collId)).foldl (fun e c =>
    ((c.partners.filter (fun r => !c.ready.contains r)).foldl (fun (z : CRun) r => z.put (c.readyPkt z.dev.myId r)) ⟨e, c, stOk, [], 0⟩).close) d)

/-- COLL_TIMEOUT (R372): none where COLL_TIMEOUT_MS is 0. -/
def execCollTimeout (collId : Word) (s : State) : Host.Outcome State Fault Refusal :=
  s.act (fun d =>
    if d.rd F.COLL_TIMEOUT_MS = 0 then d
    else (d.cxe.colls.filter (fun c => c.id == collId)).foldl (fun e c => e.endColl c stLinkLost) d)

/-! ### Answers, which let held messages go (R363, R366, R374) -/

/-- Collectives send the messages that waited for an answer (R363). -/
def Dev.resumeColls (d : Dev) : Dev :=
  (d.cxe.colls.filter (fun c => !c.queue.isEmpty)).foldl (fun e c => (CRun.flush ⟨e, c, stOk, [], 0⟩).close) d

/-- WRITE_ACK (R366). -/
def execPktWriteAck (s : State) : Host.Outcome State Fault Refusal :=
  s.act (fun d => match d.takePkt (d.mine popWriteAck) with
    | none => d
    | some (k, e) =>
      let x := e.peerStatus (BitVec.ofNat 16 k.addr)
      (x.1.answered k.tag x.2).resumeColls)

/-- READ_RESP (R356, R366): the data of an OK answer is written at its place in the destination, and the request has its status. -/
def execPktReadResp (drops : Drops) (s : State) : Host.Outcome State Fault Refusal :=
  s.act (fun d => match d.takePkt (d.mine popReadResp) with
    | none => d
    | some (k, e) =>
      let x := e.peerStatus (BitVec.ofNat 16 k.addr)
      let e := x.1
      let st := x.2
      match e.cxe.outst.find? (fun o => o.tag == k.tag && o.answer.isNone && !o.write) with
      | none => e
      | some o =>
        if st ≠ stOk then (e.answered k.tag st).resumeColls
        else
          let w := e.storeC o.addr (k.data.take o.len) o.ring (fun _ => false) none drops 0
          let top := match w.1.dev.desc o.ring o.count with | some y => y.nearTop | none => 0
          if w.1.st = stWait then d else ((w.1.dev.noteOther o.ring o.count o.addr w.1.done).answered k.tag (w.1.dev.capStatus top w.1.st (w.1.dev.badAddr o.addr o.len))).resumeColls)

/-- ACK_TIMEOUT (R366). -/
def execAckTimeout (tag : Word) (s : State) : Host.Outcome State Fault Refusal := s.act (fun d => (d.answered tag stLinkLost).resumeColls)

/-- A port is declared lost (R374, R375); messages that waited for an answer which the loss has given go on (R363). -/
def Dev.declareLost (d : Dev) (p cause : Nat) : Dev := (d.cutLink p cause).resumeColls

/-- A write of 1 to RETRAIN (R374, R377). -/
def Dev.retrainWrite (d : Dev) (p : Nat) : Dev := d.declareLost p 5

/-- RETRAIN (R377). -/
def execRetrain (port : PciePort) (link : Fin 18) (s : State) : Host.Outcome State Fault Refusal :=
  s.act (fun d => d.onReg port (fun d => d.retrainWrite link))

/-- A write of PORT_EN (R341, R374): clearing it declares a port lost that is not; setting it lets the port train (log 38). -/
def Dev.portEnWrite (d : Dev) (p : Nat) (on : Bool) : Dev :=
  if on then
    if d.rd (F.PORT_EN p) = 1 then d
    else (d.wr (F.PORT_EN p) 1).setLink p { d.link p with lost := false, failed := false }
  else if d.rd (F.PORT_EN p) = 0 then d
  else
    let d := d.wr (F.PORT_EN p) 0
    if (d.link p).lost ∧ d.rd (F.LINK_STATE p) = 0 then d else d.declareLost p 4

/-- PORT_EN (R374). -/
def execPortEn (port : PciePort) (link : Fin 18) (on : Bool) (s : State) : Host.Outcome State Fault Refusal :=
  s.act (fun d => d.onReg port (fun d => d.portEnWrite link on))

/-- LINK_LOSS (R374): causes 1, 3 and 6 come from the line, cause 3 where more than 1,000 uncorrectable codewords have been counted; cause
2 comes from sixteen resends of one flit. -/
def execLinkLoss (link : Fin 18) (cause : BitVec 8) (s : State) : Host.Outcome State Fault Refusal :=
  s.act (fun d =>
    let c := cause.toNat
    let due := if c = 2 then (d.link link).resends.any (fun x => decide (16 ≤ x.2))
      else c == 1 || (c == 3 && decide (1000 < d.rd (F.FEC_UNCORR link))) || c == 6
    if d.linkUp link && due then d.declareLost link c else d)

end Sys2Proof.Machine
end

