-- ==== Sys2Proof/Machine/Experts.lean ====
section
/-! DEFINITION. Token dispatch and combine (R301 to R315). -/
namespace Sys2Proof.Machine
open Sys2Proof

/-- K, at most 8 (R301). -/
def Desc.choices (y : Desc) : Nat := min 8 (bits (y.at 0x36 1) 0 4)

/-- The signed 32-bit value of a number. -/
def int32 (v : Nat) : Int := signed 32 v

/-- An entry of the expert map (R302). -/
structure Expert where
  dev  : BitVec 16
  buf  : Nat
  obuf : Nat
  note : Nat

/-- The expert that 32 B spell; NOTE's low three bits are ignored (R302). -/
def Expert.parse (bs : List Byte) : Expert :=
  ⟨BitVec.ofNat 16 (field bs 0 2), field bs 8 8, field bs 0x10 8, field bs 0x18 8 / 8 * 8⟩

/-- A length rounded up to 256 B (R303, R313). -/
def round256 (n : Nat) : Nat := ceilDiv n 256 * 256

/-! ### DISPATCH (R301 to R308) -/

/-- A DISPATCH under way: the block, the first failure, the counts of R308, rows placed and choices named by expert, and the number of
the next shared-port access. -/
structure DRun where
  dev     : Dev
  st      : St
  kept    : Nat
  dropped : Nat
  invalid : Nat
  used    : Tab Nat
  demand  : Tab Nat
  acc     : Nat

/-- A DISPATCH: its descriptor, the map, and the collisions of its writes. -/
structure Disp where
  ring  : Nat
  desc  : Desc
  nsrc  : Nat
  exps  : List Expert
  drops : Drops

/-- LEN. -/
def Disp.rowLen (p : Disp) : Nat := p.desc.len
/-- SRC_RANK. -/
def Disp.rank (p : Disp) : Nat := p.desc.at 0x34 2
/-- CAP. -/
def Disp.cap (p : Disp) : Nat := p.desc.at 0x38 4
/-- E. -/
def Disp.count (p : Disp) : Nat := p.exps.length

/-- The address of slot `i` of this source's region in a receive buffer (R303). -/
def Disp.slotAddr (p : Disp) (x : Expert) (i : Nat) : Nat :=
  x.buf + round256 (8 * p.nsrc) + (p.rank * p.cap + i) * round256 p.rowLen

/-- A write of the dispatch to an expert's device: here, or as WRITE packets on VC 4 (R307, R345). -/
def Disp.put (p : Disp) (t : DRun) (dev : BitVec 16) (a : Nat) (bs : List Byte) : DRun :=
  if bs.isEmpty then t
  else if dev = t.dev.myId then
    let w := t.dev.descStore p.ring p.desc (a % 2 ^ 64) bs (fun _ => false) p.drops t.acc
    { t with dev := w.1.dev, st := w.1.st, acc := w.2 }
  else
    let tgt : SendTo := ⟨p.ring, p.desc.count, dev, 4, [], false⟩
    { t with dev := (rowPieces bs.length maxData).foldl (fun d q =>
        d.sendReq tgt popWrite ((a + q.1) % 2 ^ 64) 0 q.2 q.1 ((bs.drop q.1).take q.2)) t.dev }

/-- Writes a POS entry: the slot and the expert (R304, R305). -/
def Disp.putPos (p : Disp) (t : DRun) (k : Nat) (slot : Int) (e : Nat) : DRun :=
  let bs := leBytes 4 (intBits 32 slot) ++ leBytes 4 e
  let w := t.dev.descStore p.ring p.desc ((p.desc.at 0x28 8 + 8 * k) % 2 ^ 64) bs (fun _ => false) p.drops t.acc
  { t with dev := w.1.dev, st := w.1.st, acc := w.2 }

/-- One visited choice: token `t`, choice `j` (R304). Its POS entry is written first, then its row is sent (log 39). -/
def Disp.visit (p : Disp) (t : DRun) (c : Nat × Nat) : DRun :=
  if t.st ≠ stOk then t
  else
    let k := c.1 * p.desc.choices + c.2
    let x := t.dev.descLoad p.desc ((p.desc.at 0x18 8 + 4 * k) % 2 ^ 64) 4
    if x.2.1 ≠ stOk then { t with dev := x.1, st := x.2.1 }
    else
      let t := { t with dev := x.1 }
      let e := leNat x.2.2
      match (if int32 e < 0 then none else p.exps[e]?) with
      | none => p.putPos { t with invalid := t.invalid + 1 } k (-2) e
      | some q =>
        let i := Tab.get t.used e 0
        let t := { t with demand := Tab.set t.demand e (Tab.get t.demand e 0 + 1) 0 }
        if p.cap ≤ i then p.putPos { t with dropped := t.dropped + 1 } k (-1) e
        else
          let t := p.putPos t k i e
          if t.st ≠ stOk ∨ p.rowLen = 0 then { t with kept := t.kept + 1, used := Tab.set t.used e (i + 1) 0 }
          else
            let r := t.dev.descLoad p.desc ((p.desc.addr + c.1 * p.desc.at 0x30 4) % 2 ^ 64) p.rowLen
            if r.2.1 ≠ stOk then { t with dev := r.1, st := r.2.1 }
            else p.put { t with dev := r.1, kept := t.kept + 1, used := Tab.set t.used e (i + 1) 0 } q.dev (p.slotAddr q i) r.2.2

/-- The choices in the order of PRIO (R304). -/
def Disp.order (p : Disp) : List (Nat × Nat) :=
  let ts := List.range p.desc.cnt
  let js := List.range p.desc.choices
  if bit (p.desc.at 0x36 1) 4 then ts.flatMap (fun t => js.map (fun j => (t, j))) else js.flatMap (fun j => ts.map (fun t => (t, j)))

/-- The count words of one expert: at BUF, then at NOTE (R303, R305). -/
def Disp.countWord (p : Disp) (t : DRun) (q : Expert × Nat) : DRun :=
  if t.st ≠ stOk then t
  else
    let w := leBytes 4 (Tab.get t.used q.2 0) ++ leBytes 4 (p.desc.at 0x3C 4)
    let t := p.put t q.1.dev (q.1.buf + 8 * p.rank) w
    if t.st ≠ stOk ∨ q.1.note = 0 then t else p.put t q.1.dev (q.1.note + 8 * p.rank) w

/-- The DISPATCH result (R308). -/
def DRun.result (t : DRun) : List Byte :=
  leBytes 4 t.kept ++ leBytes 4 t.dropped ++ leBytes 4 t.invalid ++ leBytes 4 ((t.demand.map (fun e => e.2)).foldl max 0)

/-- DISPATCH: rows and POS entries, then the count words where nothing stopped it (R305 to R307). It has its status once its packets
have their answers. -/
def Dev.dispatch (d : Dev) (r : Nat) (y : Desc) (drops : Drops) : Dev × Option (St × List Byte) :=
  let h := d.descLoad y (y.at 0x20 8) 64
  if h.2.1 ≠ stOk then (h.1, some (h.2.1, noResult))
  else
    let e := field h.2.2 0 2
    if e = 0 then (h.1, some (stOk, noResult))
    else
      let m := h.1.descLoad y ((y.at 0x20 8 + 64) % 2 ^ 64) (32 * e)
      if m.2.1 ≠ stOk then (m.1, some (m.2.1, noResult))
      else
        let p : Disp := ⟨r, y, field h.2.2 2 2, (chunks 32 m.2.2 e).map Expert.parse, drops⟩
        if p.exps.any (fun q => q.dev != d.myId && d.routeBusy r q.dev 4 []) then (d, some (stWait, []))
        else
          let t := p.order.foldl p.visit ⟨m.1, stOk, 0, 0, 0, [], [], 0⟩
          let t := p.exps.zipIdx.foldl p.countWord t
          if t.st = stWait then (d, some (stWait, []))
          else (t.dev.mapCxe (fun c => { c with jobs := c.jobs ++ [⟨r, y.count, some (t.st, t.result)⟩] }), none)

/-- DISPATCH (R305). -/
def execDispatch (ring : Fin 64) (count : Word) (drops : Drops) (s : State) : Host.Outcome State Fault Refusal :=
  s.act (fun d => (d.runDesc ring count 0x41 (fun d y => d.dispatch ring y drops)).settleJob ring count)

/-! ### COMBINE (R312 to R315) -/

/-- A format code of COMBINE: BF16, FP16, else FP32 (R312). -/
def combFmt (v : Nat) : Nat := if v = 7 ∨ v = 8 then v else 9

/-- A COMBINE under way: the block, the first failure, the counts of R315, the peers' rows not yet used, the next access. -/
structure CombRun where
  dev    : Dev
  st     : St
  done   : Nat
  read   : Nat
  empty  : Nat
  unnorm : Nat
  rows   : List PeerRow
  acc    : Nat

/-- A read of the combine. -/
def CombRun.load (t : CombRun) (y : Desc) (a n : Nat) : CombRun × List Byte :=
  if t.st ≠ stOk then (t, [])
  else
    let x := t.dev.descLoad y (a % 2 ^ 64) n
    ({ t with dev := x.1, st := x.2.1 }, x.2.2)

/-- Asks a device for `n` bytes at `a`, in READ_REQs of one packet's worth on VC 2 (R345, R355, R365). -/
def Dev.askRow (d : Dev) (r : Nat) (dev : BitVec 16) (a n : Nat) : Dev × St :=
  (rowPieces n maxData).foldl (fun x p => if x.2 = stOk then x.1.sendNow r dev 2 popReadReq (a + p.1) p.2 [] else x) (d, stOk)

/-- A row of an expert's device: this one's memory, or what the peer answers to the ring's READ_REQ (R313, log 17). The read waits while
earlier packets of the ring to that device went another way and are unanswered (R363, R415). -/
def CombRun.peerRow (t : CombRun) (r : Nat) (y : Desc) (dev : BitVec 16) (a n : Nat) : CombRun × List Byte :=
  if t.st ≠ stOk then (t, [])
  else if dev = t.dev.myId then t.load y a n
  else if t.dev.routeBusy r dev 2 [] then ({ t with st := stWait }, [])
  else
    let q := t.dev.askRow r dev a n
    if q.2 ≠ stOk then ({ t with dev := q.1, st := q.2 }, [])
    else match t.rows with
      | [] => ({ t with dev := q.1, st := stLinkLost }, [])
      | x :: rest =>
        let z := q.1.peerStatus x.status
        ({ t with dev := z.1, rows := rest, st := z.2 }, (x.data ++ List.replicate n 0).take n)

/-- The elements of a row as values. -/
def rowVals (fmt : Nat) (bs : List Byte) : List FVal :=
  (chunks (elemBits fmt / 8) bs (bs.length + 1)).map (fun e => (elemOf fmt).decode (leNat e))

/-- The kept choices of a token: choice, slot, expert (R304, R313). -/
def CombRun.keptOf (t : CombRun) (y : Desc) (tok : Nat) : CombRun × List (Nat × Nat × Int) :=
  let k := y.choices
  (List.range k).foldl (fun (x : CombRun × List (Nat × Nat × Int)) j =>
    let p := x.1.load y (y.at 0x18 8 + 8 * (tok * k + j)) 8
    let slot := int32 (field p.2 0 4)
    if p.1.st = stOk ∧ 0 ≤ slot then (p.1, x.2 ++ [(j, slot.toNat, int32 (field p.2 4 4))]) else (p.1, x.2)) (t, [])

/-- The weights of a token's kept choices, in ascending choice (R312). -/
def CombRun.weights (t : CombRun) (y : Desc) (tok : Nat) (ks : List (Nat × Nat × Int)) : CombRun × List Word :=
  ks.foldl (fun (x : CombRun × List Word) c =>
    let w := x.1.load y (y.at 0x28 8 + 4 * (tok * y.choices + c.1)) 4
    (w.1, x.2 ++ [BitVec.ofNat 32 (leNat w.2)])) (t, [])

/-- The expert row of one kept choice, as values (R313). -/
def CombRun.expertRow (t : CombRun) (r : Nat) (y : Desc) (c : Nat × Nat × Int) : CombRun × List FVal :=
  let fy := combFmt (bits (y.at 0x37 1) 0 4)
  let m := t.load y (((y.at 0x20 8 : Int) + 64 + 32 * c.2.2) % 2 ^ 64).toNat 32
  let x := Expert.parse m.2
  let n := y.len * (elemBits fy / 8)
  let q := m.1.peerRow r y x.dev (x.obuf + (y.at 0x34 2 * y.at 0x38 4 + c.2.1) * round256 n) n
  ({ q.1 with read := if q.1.st = stOk then q.1.read + 1 else q.1.read }, rowVals fy q.2)

/-- The sum of the kept weights, rounded at each step (R314). -/
def weightSum (ws : List Word) : Word := ws.foldl (fun a w => (toF32 ((f32 a).add (f32 w))).1) 0

/-- Whether a sum normalises: finite and not zero (R314). -/
def sumNorms (w : Word) : Bool := match f32 w with | .fin _ m _ => decide (m ≠ 0) | _ => false

/-- One element of the output, in FP32 (R314). -/
def combElem (acc0 : Word) (ws : List Word) (ys : List (List FVal)) (i : Nat) : Word :=
  (ws.zip ys).foldl (fun acc p => (toF32 (((f32 p.1).mul (p.2.getD i FVal.zero)).add (f32 acc))).1) acc0

/-- One token (R314). -/
def CombRun.token (t : CombRun) (r : Nat) (y : Desc) (drops : Drops) (tok : Nat) : CombRun :=
  if t.st ≠ stOk then t
  else
    let fo := combFmt (bits (y.at 0x37 1) 4 4)
    let sz := elemBits fo / 8
    let flags := y.at 0x36 1
    let out := y.addr + tok * y.at 0x30 4
    let k := t.keptOf y tok
    let w := k.1.weights y tok k.2
    let rows := k.2.foldl (fun (x : CombRun × List (List FVal)) c => let z := x.1.expertRow r y c; (z.1, x.2 ++ [z.2])) (w.1, [])
    let old := if bit flags 5 then rows.1.load y out (y.len * sz) else (rows.1, [])
    if old.1.st ≠ stOk then old.1
    else
      let sum := weightSum w.2
      let norm := bit flags 4 && sumNorms sum
      let ws := if norm then w.2.map (fun v => (toF32 ((f32 v).div (f32 sum))).1) else w.2
      let base := (rowVals fo old.2).map (fun v => (toF32 v).1)
      let bytes := if k.2.isEmpty ∧ bit flags 5 then old.2
        else (List.range y.len).flatMap (fun i => leBytes sz ((elemOf fo).encode rne (f32 (combElem (base.getD i 0) ws rows.2 i))).1)
      let z := old.1.dev.descStore r y (out % 2 ^ 64) bytes (fun _ => false) drops old.1.acc
      let ok := z.1.st == stOk
      { old.1 with
        dev := z.1.dev
        st := z.1.st
        acc := z.2
        done := old.1.done + b2n ok
        empty := old.1.empty + b2n (ok && k.2.isEmpty)
        unnorm := old.1.unnorm + b2n (ok && !k.2.isEmpty && bit flags 4 && !norm) }

/-- COMBINE (R312 to R315). -/
def Dev.combine (d : Dev) (r : Nat) (y : Desc) (rows : List PeerRow) (drops : Drops) : Dev × Option (St × List Byte) :=
  if y.cnt = 0 ∨ y.choices = 0 ∨ y.len = 0 then (d, some (stOk, noResult))
  else
    let t := (List.range y.cnt).foldl (fun (t : CombRun) tok => t.token r y drops tok) ⟨d, stOk, 0, 0, 0, 0, rows, 0⟩
    (t.dev, some (t.st, leBytes 4 t.done ++ leBytes 4 t.read ++ leBytes 4 t.empty ++ leBytes 4 t.unnorm))

/-- COMBINE (R314). -/
def execCombine (ring : Fin 64) (count : Word) (rows : List PeerRow) (drops : Drops) (s : State) : Host.Outcome State Fault Refusal :=
  s.act (fun d => d.runDesc ring count 0x42 (fun d y => d.combine ring y rows drops))

end Sys2Proof.Machine
end

