-- ==== Sys2Proof/Machine/Service.lean ====
section
/-! DEFINITION. The service mailbox (R485): firmware updates and activation (R489 to R492), recovery (R493, R494), replacing a core (R495,
R496), anti-rollback (R497), keys (R498, R499), and attestation (R500). -/
namespace Sys2Proof.Machine
open Sys2Proof

/-! ### FW_UPDATE and FW_ACTIVATE (R489 to R492) -/

/-- The result of FW_UPDATE (R489). -/
def updateResult (reason : Nat) (h : List Byte) : List Byte :=
  leBytes 1 reason ++ leBytes 3 0 ++ leBytes 4 (imgVer h) ++ leBytes 1 (imgSvn h)

/-- The work under way of a descriptor of the mailbox. -/
def Dev.workOf (d : Dev) (r : Nat) (k : Word) : Option SvcWork :=
  match d.svc.job with
  | some j => if j.ring = r ∧ j.count = k ∧ d.sys.phase = .run then some j.work else none
  | none => none

/-- The mailbox goes on with a descriptor in a later step. -/
def Dev.setWork (d : Dev) (r : Nat) (k : Word) (w : SvcWork) : Dev := { d with svc := { d.svc with job := some ⟨r, k, w⟩ } }

/-- The mailbox ends the descriptor it has under way. -/
def Dev.endWork (d : Dev) (r : Nat) (k : Word) (st : St) (res : List Byte) : Dev :=
  ({ d with svc := { d.svc with job := none } }).setOutcome r k st ((res ++ noResult).take 16)

/-- Writes on with an accepted image: the outcome, none where blocks are left for a later step (R489). -/
def Dev.fwWrite (d : Dev) (r : Nat) (k : Word) (img : List Byte) (fl : FlashRun) (next : Nat) (upto : Option Nat) :
    Dev × Option (St × List Byte) :=
  let z := d.storeImage img fl next upto
  match z.2 with
  | some st => (z.1, some (st, updateResult 0 img))
  | none => (z.1.setWork r k (.update img (max next (upto.getD 0))), none)

/-- FW_UPDATE (R489, R490). -/
def Dev.fwUpdate (d : Dev) (r : Nat) (y : Desc) (fl : FlashRun) (upto : Option Nat) : Dev × Option (St × List Byte) :=
  if y.len = 0 then (d, some (stOk, noResult))
  else if imageMax < y.len then (d, some (stSigBad, updateResult 1 []))
  else
    let x := d.descLoad y y.addr y.len
    if x.2.1 = stWait then (d, some (stWait, []))
    else if x.2.1 ≠ stOk then (x.1, some (x.2.1, noResult))
    else
      let img := x.2.2
      let reason := x.1.imageReason img y.len
      if reason ≠ 0 then (x.1.noteReason 0x7A reason, some (reasonStatus reason, updateResult reason img))
      else x.1.fwWrite r y.count img fl 0 upto

/-- FW_UPDATE (R489). With `upto` this step writes up to that block, and a later step of the same descriptor goes on; what
comes between finds the image partly written (R490). -/
def execFwUpdate (ring : Fin 64) (count : Word) (fl : FlashRun) (upto : Option Nat) (s : State) : Host.Outcome State Fault Refusal :=
  s.act (fun d => match d.workOf ring count with
    | some (.update img next) =>
      let z := d.fwWrite ring count img fl next upto
      match z.2 with
      | some o => z.1.endWork ring count o.1 o.2
      | none => z.1
    | _ => d.runDesc ring count 0x7A (fun d y => d.fwUpdate ring y fl upto))

/-- The component types that a FW_ACTIVATE names, in the order of R491. -/
def activateOrder (mask : Nat) : List Nat := [3, 2, 4, 1].filter (fun t => bit mask (t - 1))

/-- The result of a FW_ACTIVATE (R492). -/
def Dev.activateResult (d : Dev) (mask : Nat) : List Byte := leBytes 1 mask ++ leBytes 3 0 ++ leBytes 4 (d.rd F.FW_VER_RUN)

/-- The restart of the Bronze core ends: the new management firmware runs, and the recorder is flushed (R492, R506). -/
def Dev.restartEnds (d : Dev) : Dev := (d.activate d.storedHeader 1).flushLog

/-- FW_ACTIVATE (R491, R492); with `split` the restart of the Bronze core goes on after this step. -/
def Dev.fwActivate (d : Dev) (r : Nat) (y : Desc) (split : Bool) : Dev × Option (St × List Byte) :=
  let mask := bits (y.at 0x18 1) 0 4
  if mask = 0 then (d, some (stOk, d.activateResult 0))
  else if d.rd F.IMG_INCOMPLETE = 1 ∨ d.storedFormOk = false then (d, some (stSigBad, d.activateResult 0))
  else
    let h := d.storedHeader
    let d := ((activateOrder mask).filter (fun t => decide (t ≠ 1))).foldl (fun e t => e.activate h t) d
    if bit mask 0 = false then (d, some (stOk, d.activateResult mask))
    else if split then (d.setWork r y.count (.restart mask), none)
    else (d.restartEnds, some (stOk, d.restartEnds.activateResult mask))

/-- FW_ACTIVATE (R491, R492): one step, or two where `split` leaves the restart under way; the second ends it. -/
def execFwActivate (ring : Fin 64) (part : DescPart) (s : State) : Host.Outcome State Fault Refusal :=
  s.act (fun d => match d.workOf ring part.count with
    | some (.restart mask) => d.restartEnds.endWork ring part.count stOk (d.restartEnds.activateResult mask)
    | _ => d.runDesc ring part.count 0x7B (fun d y => d.fwActivate ring y part.split))

/-! ### Recovery (R488, R493, R494) -/

/-- RECOVER_NEXT (R488): committed to the firmware store, once NV_INHIBIT allows. -/
def Dev.recoverWrite (d : Dev) (on : Bool) : Dev :=
  let d := d.wr F.RECOVER_NEXT (b2n on)
  if d.nvInhibit then d.nvRefuse else { d with svc := { d.svc with recStored := b2n on } }

/-- Whether a port's host reaches the update and security block, which recovery serves too (R416, R531). -/
def Dev.updReach (d : Dev) (p : PciePort) : Bool := d.hostReach p && !d.bar4Busy p

/-- RECOVER_NEXT (R488). -/
def execRecoverNext (port : PciePort) (on : Bool) (s : State) : Host.Outcome State Fault Refusal :=
  s.act (fun d =>
    let d := d.landPort port
    if d.updReach port then (d.dropLatch port).recoverWrite on else d)

/-- The end of a recovery attempt (R494). -/
def Dev.recoveryEnds (d : Dev) (st : St) : Dev := (d.wr F.REC_STATUS st.toNat).wr F.REC_DONE 1

/-- Steps 3 to 5 of R494: the image that the host has put into Ingot slice I0. An image length above the 64 MiB that the ROM serves fails
check 1 (R487). A recovered boot logs POWER_UP with payload 2 (R511). -/
def Dev.recover (d : Dev) (fl : FlashRun) : Dev :=
  let n := d.rd F.REC_LEN
  let d := d.wr F.REC_DONE 0
  if imageMax < n then d.recoveryEnds stSigBad
  else
    let x := d.load ingotBase n
    if x.2.1 ≠ stOk then x.1.recoveryEnds x.2.1
    else
      let r := x.1.imageReason x.2.2 n
      if r ≠ 0 then (x.1.noteReason 0 r).recoveryEnds (reasonStatus r)
      else
        let z := x.1.storeImage x.2.2 fl 0 none
        let st := z.2.getD stOk
        if st ≠ stOk then z.1.recoveryEnds st
        else
          let d := (z.1.recoveryEnds stOk).recoverWrite false
          let d : Dev := { d with svc := { d.svc with recovered := true } }
          (d.log 1 0x350 0x119 (leBytes 1 2)).boot

/-- REC_GO (R494, R501): outside recovery the register starts nothing. -/
def Dev.recGoWrite (d : Dev) (fl : FlashRun) : Dev := if d.sys.phase = .recovery then d.recover fl else d

/-- REC_GO (R494). -/
def execRecGo (run : RecRun) (s : State) : Host.Outcome State Fault Refusal :=
  s.act (fun d =>
    let d := d.landPort run.port
    if d.updReach run.port then (d.dropLatch run.port).recGoWrite run.fl else d)

/-! ### CORE_SPARE (R495, R496) -/

/-- Spares of a compute die (R2). -/
def sparesPerDie : Nat := 2

/-- Spares that a die has used. -/
def Dev.sparesUsed (d : Dev) (die : Nat) : Nat := Tab.get d.tier.coreSpares die 0

/-- The logical core that a CORE_SPARE names. -/
def Desc.spareCore (y : Desc) : Nat := y.at 0x18 2

/-- Whether a CORE_SPARE can go on: its core is present and its die has a spare left. -/
def Dev.canSpare (d : Dev) (y : Desc) : Bool :=
  d.present y.spareCore && decide (d.sparesUsed (d.dieOf y.spareCore) < sparesPerDie)

/-- The started descriptor that its engine would take up next with opcode `op` and that passes the checks of R398. -/
def Dev.takes (d : Dev) (r : Nat) (k : Word) (op : Nat) : Option Desc :=
  (d.desc r k).filter (fun y =>
    d.engineOn op && y.op == op && !y.taken && y.outcome.isNone && d.firstForEngine y && (d.precheck r y).isNone)

/-- Step 1 of R495: a RUNNING core is stopped as by an immediate CORE_STOP; runs that wait for it do not start yet. -/
def Dev.spareStop (d : Dev) (n : Nat) : Dev :=
  let c := d.core n
  match c.status with
  | .running =>
    if c.halt.isSome then d
    else
      let d := (d.setCore n { c with runQ := [] }).stopNow n
      d.setCore n { d.core n with runQ := c.runQ }
  | _ => d

/-- The marks of the granules of a store that read uncorrectable. -/
def Dev.badGranules (d : Dev) (n : Nat) : NatSet :=
  (d.mem.poison ++ d.mem.latentU.filter (fun u => !d.mem.poison.contains u)).filter (fun u => decide (lsAddr n ≤ u ∧ u < lsAddr n + 0x800000))

/-- Step 3 of R495: what the spare's store holds. A copy carries no element format, so it clears the finiteness bits (R101); a fresh
store is as after power-up. -/
def Dev.spareStore (d : Dev) (n : Nat) (fresh : Bool) : Dev × Nat :=
  let inLs (u : Nat) : Bool := decide (lsAddr n ≤ u ∧ u < lsAddr n + 0x800000)
  let clear (e : Dev) : Dev := { e with mem := { e.mem with finite := e.mem.finite.filter (fun u => !inLs u) } }
  if fresh then
    let e := clear d
    ({ e with mem := { e.mem with
        bytes := e.mem.bytes.filter (fun c => !inLs c.1)
        poison := e.mem.poison.filter (fun u => !inLs u)
        latentU := e.mem.latentU.filter (fun u => !inLs u)
        latentC := e.mem.latentC.filter (fun u => !inLs u) } }, 0)
  else
    let bad := d.badGranules n
    let e := bad.foldl (fun e u => e.uncorrectable (.ls n) u) d
    (clear { e with mem := { e.mem with latentC := e.mem.latentC.filter (fun u => !inLs u) } }, bad.length)

/-- CORE_SPARE once its core does not run (R495, R496). -/
def Dev.spare (d : Dev) (r : Nat) (y : Desc) : Dev × Option (St × List Byte) :=
  let n := y.spareCore
  if d.present n = false then (d.logDesc 1 r y stEngineAbsent false, some (stEngineAbsent, noResult))
  else if d.canSpare y = false then (d, some (stEngineAbsent, noResult))
  else if (d.core n).status = .running then (d, some (stWait, []))
  else
    let die := d.dieOf n
    let used := d.sparesUsed die
    let p := 24 + used
    let x := d.spareStore n (bit (y.at 0x1A 1) 0)
    let c := x.1.core n
    let fresh : Core := { Core.reset with
      phys := p + 1, codeBase := c.codeBase, codeLen := c.codeLen, runQ := c.runQ, coast := decide (x.1.rd F.COASTING = 1) }
    let d := (x.1.setCore n fresh).mapTier (fun t => { t with coreSpares := Tab.set t.coreSpares die (used + 1) 0 })
    let d := ((d.wr F.CORE_SPARED 1).addRepair (.coreMap n p)).commitRepairs
    (d.settle n, some (if d.nvInhibit then stNvInhibited else stOk,
      leBytes 1 p ++ leBytes 1 (sparesPerDie - (used + 1)) ++ leBytes 2 0 ++ leBytes 4 x.2))

/-- CORE_SPARE (R495): it waits until what its core has started has finished. -/
def execCoreSpare (ring : Fin 64) (count : Word) (s : State) : Host.Outcome State Fault Refusal :=
  s.act (fun d =>
    let e := match d.takes ring count 0x7C with
      | some y => if d.canSpare y then d.spareStop y.spareCore else d
      | none => d
    e.runDesc ring count 0x7C (fun d y => d.spare ring y))

/-! ### SVN_COMMIT and KEY_ADMIN (R488, R497 to R499) -/

/-- The stored image would fail at the next boot; `why` is 0 for a revocation, 1 for the counter (R488, R511). -/
def Dev.wouldFail (d : Dev) (why : Nat) : Dev := (d.wr F.IMG_WOULD_FAIL 1).log 2 0x360 0x117 (leBytes 1 why)

/-- SVN_COMMIT (R497). -/
def Dev.svnCommit (d : Dev) : Dev × Option (St × List Byte) :=
  let run := d.rd F.SVN_RUN
  let result (e : Dev) : List Byte := leBytes 1 e.fuses.svnCounter
  if d.nvInhibit then (d.nvRefuse, some (stNvInhibited, result d))
  else if run ≤ d.fuses.svnCounter then (d, some (stOk, result d))
  else
    let e : Dev := { d with fuses := { d.fuses with svnCounter := run } }
    (if d.rd F.SVN_STORED < run then e.wouldFail 1 else e, some (stOk, result e))

/-- SVN_COMMIT (R497). -/
def execSvnCommit (ring : Fin 64) (count : Word) (s : State) : Host.Outcome State Fault Refusal :=
  s.act (fun d => d.runDesc ring count 0x7D (fun d _ => d.svnCommit))

/-- The message that a key operation signs (R499). -/
def Dev.keyMessage (d : Dev) (op slot auth : Nat) (key : List Byte) : List Byte :=
  leBytes 1 op ++ leBytes 1 slot ++ leBytes 1 auth ++ leBytes 5 0 ++ key ++ leBytes 16 d.fuses.uid.toNat

/-- Whether a key operation is allowed and its signature verifies (R499). -/
def Dev.keyAllowed (d : Dev) (op slot auth : Nat) (key sig : List Byte) : Bool :=
  let msg := d.keyMessage op slot auth key
  let own (k : BitVec 512) : Bool := sigOk k msg sig
  let ownerAuth : Bool := decide (auth < 3) && d.ownerSlot auth == 1 && own (Tab.get d.fuses.ownerKey auth 0)
  match op with
  | 0 =>
    decide (slot < 3) && d.ownerSlot slot == 0 && onCurve (field key 0 32) (field key 32 32) &&
      (if d.owned then ownerAuth else own (BitVec.ofNat 512 (leNat key)))
  | 1 => decide (slot < 3) && d.ownerSlot slot == 1 && decide (([0, 1, 2].filter (fun k => d.ownerSlot k == 1)).length ≠ 1) && ownerAuth
  | 2 =>
    d.vendorValid slot && decide (([0, 1, 2, 3].filter d.vendorValid).length ≠ 1) && auth != slot && d.vendorValid auth &&
      own (Tab.get d.fuses.vendorKey auth 0)
  | _ => false

/-- The fuses after a key operation (R498, R499). -/
def Fuses.keyOp (f : Fuses) (op slot : Nat) (key : List Byte) : Fuses :=
  match op with
  | 0 => { f with ownerState := Tab.set f.ownerState slot 1 0, ownerKey := Tab.set f.ownerKey slot (BitVec.ofNat 512 (leNat key)) 0 }
  | 1 => { f with ownerState := Tab.set f.ownerState slot 2 0 }
  | 2 => { f with vendorRevoked := NatSet.ins f.vendorRevoked slot }
  | _ => f

/-- Whether a revocation takes away a key that signed the stored image (R488). -/
def Dev.signedBy (d : Dev) (op slot : Nat) : Bool :=
  let h := d.storedHeader
  match op with
  | 1 => imgOwned h && imgOwner h == slot
  | 2 => imgVendor h == slot
  | _ => false

/-- KEY_ADMIN (R499). -/
def Dev.keyAdmin (d : Dev) (y : Desc) : Dev × Option (St × List Byte) :=
  let op := y.at 0x18 1
  let slot := y.at 0x19 1
  if 2 < op then (d, some (stBadOpcode, noResult))
  else if d.nvInhibit then (d.nvRefuse, some (stNvInhibited, noResult))
  else
    let x := d.descLoad y y.addr 128
    if x.2.1 ≠ stOk then (x.1, some (x.2.1, noResult))
    else
      let key := x.2.2.take 64
      if x.1.keyAllowed op slot (y.at 0x1A 1) key (x.2.2.drop 64) then
        let e : Dev := { x.1 with fuses := x.1.fuses.keyOp op slot key }
        (if x.1.signedBy op slot then e.wouldFail 0 else e, some (stOk, noResult))
      else (x.1.secFail 0x7E op, some (stSigBad, noResult))

/-- KEY_ADMIN (R499). -/
def execKeyAdmin (ring : Fin 64) (count : Word) (s : State) : Host.Outcome State Fault Refusal :=
  s.act (fun d => d.runDesc ring count 0x7E (fun d y => d.keyAdmin y))

/-! ### ATTEST (R500) -/

/-- OWNER_STATE: two bits a slot (R500). -/
def Fuses.ownerBits (f : Fuses) : Nat := [0, 1, 2].foldl (fun m k => m + Tab.get f.ownerState k 0 % 4 * 4 ^ k) 0

/-- VENDOR_REVOKED: a bit a slot. -/
def Fuses.revokedBits (f : Fuses) : Nat := [0, 1, 2, 3].foldl (fun m k => if f.vendorRevoked.contains k then m + 2 ^ k else m) 0

/-- CORE_SPARES_USED: two bits a die. -/
def Dev.spareBits (d : Dev) : Nat := [0, 1, 2, 3].foldl (fun m k => m + d.sparesUsed k % 4 * 4 ^ k) 0

/-- The report without its signature (R500). -/
def Dev.report (d : Dev) (nonce : List Byte) : List Byte :=
  leBytes 4 0x54535441 ++ leBytes 2 1 ++ leBytes 2 d.coreCount ++ leBytes 16 d.fuses.uid.toNat ++ (nonce ++ List.replicate 32 0).take 32 ++
    leBytes 4 (d.rd F.FW_VER_RUN) ++ leBytes 4 (d.rd F.TRANSLATOR_VER) ++ leBytes 4 (d.rd F.SFU_SET_VER) ++ leBytes 4 (d.rd F.PHY_FW_VER) ++
    leBytes 1 d.fuses.svnCounter ++ leBytes 1 (d.rd F.SVN_RUN) ++ leBytes 1 d.fuses.ownerBits ++ leBytes 1 d.fuses.revokedBits ++ leBytes 4 0 ++
    sha256 (d.storedHeader.take 0x300) ++ sha256 d.svc.hashes.flatten ++ leBytes 1 d.spareBits ++ leBytes 1 (d.rd F.SPARES_LEFT) ++
    leBytes 2 (d.rd F.NEAR_TOP_GIB) ++
    leBytes 1 (d.rd F.CAL_STALE + 2 * d.rd F.IMG_INCOMPLETE + 4 * b2n d.svc.recovered) ++ leBytes 3 0 ++
    leBytes 4 (d.rd F.POWER_CYCLES) ++ leBytes 8 (d.rd F.OP_TIME_MS) ++
    (List.range 18).flatMap (fun p => leBytes 4 (d.link p).phyVer.toNat) ++ leBytes 212 0

/-- ATTEST (R500): the identity key's signature is a free value, since no master reads that key (log 49). -/
def Dev.attest (d : Dev) (r : Nat) (y : Desc) (drops : Drops) : Dev × Option (St × List Byte) :=
  if y.len < 512 then (d, some (stOk, noResult))
  else
    let cert := d.fuses.cert
    let body := d.report ((y.raw.drop 0x18).take 32)
    let x := d.draw
    let w := x.2.descStore r y y.addr (body ++ leBytes 64 x.1) (fun _ => false) drops 0
    if w.1.st ≠ stOk then (w.1.dev, some (w.1.st, noResult))
    else if y.len < 512 + cert.length then (w.1.dev, some (stOk, leBytes 2 cert.length ++ leBytes 1 0))
    else
      let z := w.1.dev.descStore r y ((y.addr + 0x200) % 2 ^ 64) cert (fun _ => false) drops w.2
      (z.1.dev, some (z.1.st, leBytes 2 cert.length ++ leBytes 1 (b2n (z.1.st == stOk))))

/-- ATTEST (R500). -/
def execAttest (ring : Fin 64) (count : Word) (drops : Drops) (s : State) : Host.Outcome State Fault Refusal :=
  s.act (fun d => d.runDesc ring count 0x7F (fun d y => d.attest ring y drops))

end Sys2Proof.Machine
end

