-- ==== Sys2Proof/Machine/Power.lean ====
section
/-! DEFINITION. Clocks, power states, sag and calibration (R455 to R483), the gating of core clocks (R467), and PERST, D3hot and the PCIe
links (R384, R385). -/
namespace Sys2Proof.Machine
open Sys2Proof

/-! ### References (R456 to R460) -/

/-- The selected reference. -/
def Dev.selected (d : Dev) : PciePort := portOfNat (d.rd F.REF_SEL)

/-- The field that shows a reference's presence. -/
def okField (p : PciePort) : Field := match p with | .a => F.REF_A_OK | .b => F.REF_B_OK

/-- Every present core's records show that the island's multiple changed, or that it coasted (R333, R337). -/
def Dev.flagCores (d : Dev) (ns : List Nat) (f : Core → Core) : Dev := ns.foldl (fun e n => e.setCore n (f (e.core n))) d

/-- The present cores. -/
def Dev.presentCores (d : Dev) : List Nat := List.range d.coreCount

/-- The cores of a die. -/
def Dev.dieCores (d : Dev) (die : Nat) : List Nat := (List.range d.perDie).map (fun i => die * d.perDie + i)

/-- A die's effective multiple becomes `m` (R462, R463). -/
def Dev.setMult (d : Dev) (die m : Nat) : Dev :=
  if d.rd (F.MULT_NOW die) = m then d
  else (d.wr (F.MULT_NOW die) m).flagCores (d.dieCores die) (fun c => { c with multChg := true })

/-- The islands run at 400 MHz at once (R458, R459). -/
def Dev.to400 (d : Dev) : Dev := [0, 1, 2, 3].foldl (fun e k => e.setMult k 4) d

/-- Every link port that is up is lost with cause 1 (R458, R459). -/
def Dev.loseLinks (d : Dev) : Dev := (List.range 18).foldl (fun e p => if e.linkUp p then e.declareLost p 1 else e) d

/-- Whether the block's clocks and registers run: Run, Retain or recovery. -/
def Dev.awake (d : Dev) : Bool := d.sys.phase.railsUp

/-- A write of REF_SEL (R458): the other reference, if it is present, is switched to; a coast ends with it (log 50). -/
def Dev.refSelWrite (d : Dev) (sel : PciePort) : Dev :=
  if d.refOk sel = false ∨ sel = d.selected then d
  else (((d.wr F.REF_SEL (pnum sel)).wr F.COASTING 0).to400).loseLinks

/-- REF_SEL_WRITE (R458). -/
def execRefSelWrite (port : PciePort) (sel : PciePort) (s : State) : Host.Outcome State Fault Refusal :=
  s.act (fun d => d.onReg port (fun d => d.refSelWrite sel))

/-- REFERENCE_LOSS (R457, R459): the selected reference becomes absent. -/
def execReferenceLoss (s : State) : Host.Outcome State Fault Refusal :=
  s.act (fun d =>
    if d.awake ∧ d.refOk d.selected then
      let sel := d.selected
      let d := ((d.wr (okField sel) 0).wr F.COASTING 1).wr F.CLK_COAST 1
      let d := (d.to400.flagCores d.presentCores (fun c => { c with coast := true })).loseLinks
      let d := (d.pcieDown sel).log 3 0x350 0x112 (leBytes 1 (pnum sel))
      d.deviceEvent F.EVT_COAST
    else d)

/-- REFERENCE_RELOCK (R460): the selected reference has been present for 1 ms; its PCIe port trains again (log 48). -/
def execReferenceRelock (s : State) : Host.Outcome State Fault Refusal :=
  s.act (fun d =>
    if d.awake ∧ d.rd F.COASTING = 1 then
      let sel := d.selected
      ((d.wr (okField sel) 1).wr F.COASTING 0).pcieAuto sel
    else d)

/-- OTHER_REFERENCE_LOSS (R456, R457): the reference that is not selected becomes absent. -/
def execOtherReferenceLoss (s : State) : Host.Outcome State Fault Refusal :=
  s.act (fun d =>
    let p := otherPort d.selected
    if d.awake ∧ d.refOk p then (d.wr (okField p) 0).pcieDown p else d)

/-! ### Core-island frequency (R462 to R465) -/

/-- Whether CAL_HOT's load runs (R462, R480). -/
def Dev.hotRuns (d : Dev) : Bool := match d.svc.job with | some ⟨_, _, .calHot⟩ => true | _ => false

/-- The requested multiple of a die: software's, or 36 during CAL_HOT's load (R462, R480). -/
def Dev.wantMult (d : Dev) (die : Nat) : Nat := if d.hotRuns then 36 else min 36 (max 4 (d.rd (F.CORE_MULT die)))

/-- A die's power-cap limit: none where it has no cap (R464, log 51). -/
def Dev.pcapLimit (d : Dev) (die : Nat) : Nat := if d.rd (F.DIE_PWR_CAP die) = 0 then 36 else Tab.get d.sys.pcap die 36

/-- A die's thermal limit (R465). -/
def Dev.thermLimit (d : Dev) (die : Nat) : Nat := Tab.get d.sys.therm die 36

/-- The effective multiple that every limit allows at once (R462). -/
def Dev.multTarget (d : Dev) (die : Nat) : Nat :=
  let m := d.wantMult die
  let m := if d.rd F.CAL_STALE = 1 ∧ d.hotRuns = false then min m 32 else m
  let m := if d.rd F.PWR_WARN = 1 then 4 else m
  let m := min (min m (d.pcapLimit die)) (d.thermLimit die)
  if d.rd F.COASTING = 1 then 4 else m

/-- One 250 ns of a die's stepping: down one step at a time, up one step each 1 µs (R463). -/
def Dev.stepMult (d : Dev) (die : Nat) : Dev :=
  let now := d.rd (F.MULT_NOW die)
  let m := d.multTarget die
  let k := Tab.get d.sys.stepUp die 0
  let put (n : Nat) : Dev := { d with sys := { d.sys with stepUp := Tab.set d.sys.stepUp die n 0 } }
  if m < now then (put 0).setMult die (now - 1)
  else if now < m then (if k = 3 then (put 0).setMult die (now + 1) else put (k + 1))
  else put 0

/-- MULTIPLE_UPDATE (R462, R463). -/
def execMultipleUpdate (s : State) : Host.Outcome State Fault Refusal :=
  s.act (fun d => if d.sys.phase = .run then [0, 1, 2, 3].foldl Dev.stepMult d else d)

/-- DIE_POWER_MEASURE (R464), which runs in Retain too (R466): `below` says that the power has stayed below 95 % of the cap for 1 ms. -/
def execDiePowerMeasure (die : Fin 4) (watts : BitVec 16) (below : Bool) (s : State) : Host.Outcome State Fault Refusal :=
  s.act (fun d =>
    if d.awake = false then d
    else
      let d := d.wr (F.DIE_POWER_W die) watts.toNat
      let cap := d.rd (F.DIE_PWR_CAP die)
      if cap = 0 then d
      else
        let l := min (Tab.get d.sys.pcap die 36) (d.wantMult die)
        let l := if cap < watts.toNat then max 4 (l - 1) else if below then min (l + 1) (d.wantMult die) else l
        { d with sys := { d.sys with pcap := Tab.set d.sys.pcap die l 36 } })

/-- THERMAL_STEP (R465): an interval of a die's throttle has passed at a junction temperature. -/
def execThermalStep (die : Fin 4) (celsius : BitVec 8) (s : State) : Host.Outcome State Fault Refusal :=
  s.act (fun d =>
    if d.awake = false then d
    else
      let t := celsius.toNat
      let d := d.wr (F.DIE_TEMP_C die) t
      let l := d.thermLimit die
      let put (n : Nat) (e : Dev) : Dev := { e with sys := { e.sys with therm := Tab.set e.sys.therm die n 36 } }
      if 100 ≤ t ∧ 4 < l then
        let d := put (l - 1) d
        if d.rd F.THERM_THROTTLED = 1 then d
        else (d.wr F.THERM_THROTTLED 1).log 2 0x350 0x113 (leBytes 1 die ++ leBytes 1 t)
      else if t ≤ 97 ∧ l < 36 then put (l + 1) d
      else d)

/-- CORE_CLOCK_GATED (R467). -/
def execCoreClockGated (core : Fin 96) (s : State) : Host.Outcome State Fault Refusal :=
  s.act (fun d =>
    let c := d.core core
    if d.present core ∧ d.sys.phase = .run ∧ c.status ≠ .running ∧ c.queue.isEmpty ∧ c.xfers.isEmpty then d.setCore core { c with gated := true }
    else d)

/-! ### Power states (R466 to R471) -/

/-- A write of PWR_REQ: 1 acts as 0, which wakes the device (R468, R483); 3 stops the start of descriptors (R469). -/
def Dev.pwrReqWrite (d : Dev) (v : Nat) : Dev :=
  let d := d.wr F.PWR_REQ v
  match v % 4 with
  | 2 => d
  | 3 => { d with sys := { d.sys with sleepReq := true } }
  | _ => d.wakeUp

/-- PWR_REQ_RETAIN (R468). -/
def execPwrReqRetain (port : PciePort) (s : State) : Host.Outcome State Fault Refusal :=
  s.act (fun d => d.onReg port (fun d => d.pwrReqWrite 2))

/-- PWR_REQ_SLEEP (R469). -/
def execPwrReqSleep (port : PciePort) (s : State) : Host.Outcome State Fault Refusal :=
  s.act (fun d => d.onReg port (fun d => d.pwrReqWrite 3))

/-- PWR_REQ_RUN (R468). -/
def execPwrReqRun (port : PciePort) (s : State) : Host.Outcome State Fault Refusal :=
  s.act (fun d => d.onReg port (fun d => d.pwrReqWrite 0))

/-- Whether every ring has posted all it has started and no core runs (R468). -/
def Dev.quiet (d : Dev) : Bool :=
  (List.range 64).all (fun r => d.cntP r == d.cntS r) && d.presentCores.all (fun n => (d.core n).status != .running)

/-- RETAIN_ENTRY (R468). -/
def execRetainEntry (s : State) : Host.Outcome State Fault Refusal :=
  s.act (fun d =>
    if d.sys.phase = .run ∧ d.rd F.PWR_REQ = 2 ∧ d.quiet then { d.wr F.PWR_STATE 2 with sys := { d.sys with phase := .retain } } else d)

/-- The descriptors that still run (R469). -/
def Dev.unfinished (d : Dev) : Nat :=
  (List.range 64).foldl (fun n r => n + ((d.ring r).all.filter (fun y => !y.finished)).length) 0

/-- SLEEP_DRAIN_END (R469, R471, R529): descriptors that still run are abandoned, cores stopped, the recorder and the repair records
committed, and the rails removed; a Retain that a Sleep request came in has no descriptor to drain. -/
def execSleepDrainEnd (s : State) : Host.Outcome State Fault Refusal :=
  s.act (fun d =>
    if d.sys.sleepReq ∧ (d.sys.phase = .run ∨ d.sys.phase = .retain) then
      let d := d.presentCores.foldl Dev.stopNow d
      let d := (d.log 1 0x350 0x114 (leBytes 4 d.unfinished)).commitRepairs.flushLog
      ({ d with recd := { d.recd with clean := d.uncommitted.isEmpty } } : Dev).unpowered .sleep
    else d)

/-! ### Supply sag (R472, R473, R475) -/

/-- A CAL_HOT whose load runs is abandoned (R475). -/
def Dev.dropHot (d : Dev) : Dev :=
  match d.svc.job with
  | some ⟨r, k, .calHot⟩ => d.endWork r k stNvInhibited noResult
  | _ => d

/-- PWR_WARN_N_ASSERT (R468, R472): the clamp follows from PWR_WARN at the next update of the multiples. -/
def execPwrWarnNAssert (inputCv : BitVec 16) (s : State) : Host.Outcome State Fault Refusal :=
  s.act (fun d =>
    if d.awake = false ∨ d.rd F.PWR_WARN = 1 then d
    else
      let d := ((d.wakeUp.wr F.PWR_WARN 1).wr F.INPUT_CV inputCv.toNat).dropHot
      let d := ((d.wr F.SAG_SEEN 1).log 2 0x350 0x115 (leBytes 2 inputCv.toNat)).flushLog
      d.deviceEvent F.EVT_SAG_ON)

/-- PWR_WARN_N_RELEASE (R472); the next measurement shows the input's voltage (log 62). -/
def execPwrWarnNRelease (s : State) : Host.Outcome State Fault Refusal :=
  s.act (fun d => if d.awake ∧ d.rd F.PWR_WARN = 1 then (d.wr F.PWR_WARN 0).deviceEvent F.EVT_SAG_OFF else d)

/-- Commits the first `k` uncommitted records. -/
def Dev.commitSome (d : Dev) (k : Nat) : Dev := (d.uncommitted.take k).foldl Dev.commitRec d

/-- A FW_UPDATE that is writing is aborted (R473, R489). -/
def Dev.dropUpdate (d : Dev) : Dev :=
  match d.svc.job with
  | some ⟨r, k, .update img _⟩ => d.nvRefuse.endWork r k stNvInhibited (updateResult 0 img)
  | _ => d

/-- NV_INHIBIT_SET (R473): what is being written is aborted; records that a commit has not reached stay in the buffer. -/
def execNvInhibitSet (writing : NvWrite) (s : State) : Host.Outcome State Fault Refusal :=
  s.act (fun d =>
    if d.awake = false ∨ d.nvInhibit then d
    else
      let d := d.dropUpdate.wr F.NV_INHIBIT 1
      match writing with
      | .idle => d
      | .records k => (d.commitSome k).nvRefuse
      | .repair => if d.tier.pending = [] then d else d.nvRefuse)

/-- NV_INHIBIT_CLEAR (R296, R473, R488): what waited is committed. -/
def execNvInhibitClear (s : State) : Host.Outcome State Fault Refusal :=
  s.act (fun d =>
    if d.awake ∧ d.nvInhibit then
      let d := (d.wr F.NV_INHIBIT 0).commitRepairs.flushLog
      { d with svc := { d.svc with recStored := d.rd F.RECOVER_NEXT } }
    else d)

/-! ### Calibration (R476 to R482) -/

/-- The load index at a module input power (R477). -/
def loadIndex (watts : Nat) : Nat := min 255 ((2 * 255 * watts + 3700) / (2 * 3700))

/-- GUARDBAND_UPDATE (R477, R483): one millisecond's mean power and input voltage; the droop guardbands follow the power (log 62). -/
def execGuardbandUpdate (input : InputMean) (s : State) : Host.Outcome State Fault Refusal :=
  s.act (fun d =>
    if d.awake = false then d
    else
      let l := loadIndex input.watts.toNat
      let d := ((d.wr F.MOD_POWER_W input.watts.toNat).wr F.INPUT_CV input.inputCv.toNat).wr F.LOAD_NOW l
      let d : Dev := { d with svc := { d.svc with loads := (l :: d.svc.loads).take 100 } }
      [0, 1, 2, 3].foldl (fun e i => e.setCal i ((e.calItem i).apply l e.svc.hotLoad)) d)

/-- RETRIM_DUE_CHECK (R481): `periods` counts whole periods since the item's last measurement, `moved` says that its temperature has moved
10 °C since then. -/
def execRetrimDueCheck (item : Fin 26) (periods : Nat) (moved : Bool) (s : State) : Host.Outcome State Fault Refusal :=
  s.act (fun d =>
    if d.awake = false then d
    else
      let c := d.calItem item
      let timed := decide (d.rd F.RETRIM_PERIOD_S ≠ 0)
      let due := c.due || (timed && decide (1 ≤ periods)) || moved
      let past := due && timed && decide (4 ≤ periods)
      let d := d.setCal item { c with due := due, overdue := c.overdue || past }
      if past ∧ c.overdue = false then (d.wr F.RETRIM_OVERDUE 1).log 2 0x350 0x116 (leBytes 1 item) else d)

/-- The time of an item's re-trim in µs (R482). -/
def trimTime (i : Nat) : Nat := if i < 4 then 20 else if i < 8 then 60 else 80

/-- The items that a window treats as due, in order: link ports only while they are up (R482). -/
def Dev.windowItems (d : Dev) (force : Bool) : List Nat :=
  (List.range 26).filter (fun i => (force || (d.calItem i).due) && (decide (i < 8) || d.linkUp (i - 8)))

/-- A measured value: the operand's, or a free value where it names none (log 47). -/
def Dev.measured (d : Dev) (meas : List CalMeas) (i : Nat) : Dev × Int :=
  match meas.find? (fun m => m.item.val == i) with
  | some m => (d, m.value)
  | none => let x := d.draw; (x.2, signed 32 x.1)

/-- What a re-trim does to traffic: an island runs at multiple 4, from which it steps up again; a link port that has not stopped its
neighbour does, and withdraws the stop at the end (R353, R463, R482). -/
def Dev.trimEffect (d : Dev) (i : Nat) : Dev :=
  if i < 4 then d.setMult i 4
  else if i < 8 ∨ (d.link (i - 8)).stopOut then d
  else d.wr (F.STOPS_SENT (i - 8)) (satAdd 32 (d.rd (F.STOPS_SENT (i - 8))) 1)

/-- Re-trims items until one would not fit: the block, items done, time used (R482). -/
def Dev.trimGo (d : Dev) (meas : List CalMeas) (window : Nat) (abortAt : Option Nat) (is : List Nat) (n used : Nat) : Dev × Nat × Nat :=
  match is with
  | [] => (d, n, used)
  | i :: rest =>
    if window < used + trimTime i ∨ d.rd F.PWR_WARN = 1 ∨ abortAt = some n then (d, n, used)
    else
      let x := (d.trimEffect i).measured meas i
      (x.1.measureCold i x.2).trimGo meas window abortAt rest (n + 1) (used + trimTime i)

/-- CAL_WINDOW (R475, R482): a sag abandons the item in progress, and no further one starts. -/
def Dev.calWindow (d : Dev) (y : Desc) (meas : List CalMeas) (abortAt : Option Nat) : Dev × Option (St × List Byte) :=
  let window := y.at 0x18 4
  if window = 0 then (d, some (stOk, noResult))
  else
    let d := d.wr F.RUN_LOAD d.runLoad
    let is := d.windowItems (bit (y.at 0x1C 1) 0)
    let x := d.trimGo meas window abortAt is 0 0
    (x.1, some (stOk, leBytes 2 x.2.1 ++ leBytes 2 (is.length - x.2.1) ++ leBytes 4 x.2.2))

/-- CAL_WINDOW (R482): `abortAt` is the place in the window's order of the item during which PWR_WARN_N is asserted. -/
def execCalWindow (ring : Fin 64) (count : Word) (meas : List CalMeas) (abortAt : Option Nat) (s : State) : Host.Outcome State Fault Refusal :=
  s.act (fun d => d.runDesc ring count 0x78 (fun d y => d.calWindow y meas abortAt))

/-- The tag of a set whose contents are undefined. -/
def anyTag (k : Nat) : AccTag :=
  match k % 6 with
  | 0 => ⟨.lp, 0, false⟩
  | 1 => ⟨.lp, 1, false⟩
  | 2 => ⟨.lp, 2, false⟩
  | 3 => ⟨.lp, 0, true⟩
  | 4 => ⟨.f32x, 0, false⟩
  | _ => ⟨.f64x, 0, false⟩

/-- What CAL_HOT's load leaves of a core: free values in its local store, registers, masks and accumulator sets (R196, R480, log 52). -/
def Dev.undefineCore (d : Dev) (n : Nat) : Dev :=
  let v := d.draw
  let m := v.2.draw
  let x := m.2.draw
  let t := x.2.draw
  let l := t.2.draw
  let c := l.2.core n
  let word (b i : Nat) : Word := BitVec.ofNat 32 (b >>> (32 * i))
  let c : Core := { c with
    v := tabOf ((List.range 32768).map (word v.1)) 0
    m := tabOf ((List.range 16).map (fun i => BitVec.ofNat 1024 (m.1 >>> (1024 * i)))) 0
    s := tabOf ((List.range 32).map (word x.1)) 0
    a := tabOf ((List.range 16).map (fun i => word x.1 (32 + i))) 0
    acc := tabOf ((List.range 4).map (fun i =>
      let g := anyTag (t.1 >>> (1000000 * i))
      AccSet.ofRaw g (leBytes g.rawBytes (t.1 >>> (1000000 * i + 8))))) AccSet.reset }
  let d := l.2.setCore n c
  let d := d.poke (lsAddr n) (leBytes 0x800000 l.1)
  { d with mem := { d.mem with finite := d.mem.finite.filter (fun u => !decide (lsAddr n ≤ u ∧ u < lsAddr n + 0x800000)) } }

/-- The link ports that are down. -/
def Dev.downLinks (d : Dev) : List Nat := (List.range 18).filter (fun p => !d.linkUp p)

/-- The items that CAL_HOT measures. -/
def Dev.hotItems (d : Dev) : List Nat := (List.range 26).filter (fun i => decide (i < 8) || d.linkUp (i - 8))

/-- Stores a hot set: cold values, and offsets of the hot values from them; a port that is down has offset 0 (R480). -/
def Dev.storeHot (d : Dev) (meas hot : List CalMeas) (load : Nat) : Dev :=
  let d : Dev := { d with svc := { d.svc with hotLoad := load } }
  let d := d.downLinks.foldl (fun e p => e.setCal (8 + p) { e.calItem (8 + p) with offset := 0 }) d
  d.hotItems.foldl (fun e i =>
    let x := e.measured meas i
    let y := x.1.measured hot i
    (y.1.setCal i { y.1.calItem i with offset := y.2 - x.2 }).measureCold i x.2) d

/-- The islands run at what CAL_HOT's load asks for, as far as the limits allow (R462, R480). -/
def Dev.hotIslands (d : Dev) : Dev := [0, 1, 2, 3].foldl (fun e k => e.setMult k (e.multTarget k)) d

/-- Steps 2 to 5 of R480 once the load has run: `load` is the load index reached, `aborted` says that PWR_WARN_N is asserted meanwhile. -/
def Dev.hotEnds (d : Dev) (meas hot : List CalMeas) (load : Nat) (aborted : Bool) : Dev × St × List Byte :=
  let ports := d.downLinks.foldl (fun m p => m + 2 ^ p) 0
  if aborted then (d, stNvInhibited, noResult)
  else if load < 230 then (d, stOk, leBytes 1 1 ++ leBytes 1 load ++ leBytes 3 ports)
  else if d.nvInhibit then (d.nvRefuse, stNvInhibited, noResult)
  else (((d.storeHot meas hot load).wr F.HOT_LOAD load).wr F.CAL_STALE 0, stOk, leBytes 1 0 ++ leBytes 1 load ++ leBytes 3 ports)

/-- CAL_HOT (R475, R480): a sag ends it even while it waits; it waits until no core runs. -/
def Dev.calHot (d : Dev) (r : Nat) (y : Desc) (meas hot : List CalMeas) (load : Nat) (step : HotStep) :
    Dev × Option (St × List Byte) :=
  if d.rd F.PWR_WARN = 1 then (d, some (stNvInhibited, noResult))
  else if d.presentCores.any (fun n => (d.core n).status == .running) then (d, some (stWait, []))
  else
    let d := (d.presentCores.foldl Dev.undefineCore d).setWork r y.count .calHot
    if step = .begins then (d, none)
    else
      let x := d.hotIslands.hotEnds meas hot load (step == .sag)
      ({ x.1 with svc := { x.1.svc with job := none } }, some x.2)

/-- CAL_HOT (R480): one step, or two where the first leaves the load running; the second ends it. -/
def execCalHot (ring : Fin 64) (count : Word) (meas hot : List CalMeas) (load : BitVec 8) (step : HotStep) (s : State) :
    Host.Outcome State Fault Refusal :=
  s.act (fun d => match d.workOf ring count with
    | some .calHot =>
      let x := d.hotEnds meas hot load.toNat (step == .sag)
      x.1.endWork ring count x.2.1 x.2.2
    | _ => d.runDesc ring count 0x79 (fun d y => d.calHot ring y meas hot load.toNat step))

/-! ### PERST, D3hot, PCIe links (R383 to R385, R420, R470) -/

/-- A ring of a port in reset: DISABLED, its ENABLE 0; what it has started runs on and posts nothing (R384). -/
def Dev.resetRing (d : Dev) (r : Nat) : Dev :=
  let x := d.ring r
  let d := ((d.wr (F.RING_STATE r) rsDisabled).wr (F.ENABLE r) 0)
  d.setRing r { Ring.reset with orphans := x.orphans ++ x.started.filter (fun y => !y.finished) }

/-- PERST_ASSERTION (R384, R385). -/
def execPerstAssertion (port : PciePort) (s : State) : Host.Outcome State Fault Refusal :=
  s.act (fun d =>
    let p := pnum port
    let q := d.port port
    let d := (d.dropWaiting port).setPort port { Port.reset with out := q.out }
    if d.powered = false then d
    else
      let d := (((d.wr (F.HWIN_BASE p) 0).wr (F.BAR4_BASE p) 0).wr (F.EVT_VEC p) 0).wr (F.EVT_EN p) 0
      let d := ((d.wr (F.BAR4_MISS p) 0).wr (F.LINK_SPEED p) 0).wr (F.LINK_WIDTH p) 0
      (List.range 64).foldl (fun e r => if e.ringPort r = port then e.resetRing r else e) d)

/-- PERST_DEASSERTION (R378, R470): the port trains at the speed and width given, once the module and its reference allow; widths and
speeds that R378 does not list do not train. -/
def execPerstDeassertion (port : PciePort) (speed : BitVec 3) (width : BitVec 4) (s : State) : Host.Outcome State Fault Refusal :=
  s.act (fun d =>
    let d := d.setPort port { d.port port with perst := false }
    if speed.toNat ≤ 3 ∧ (width = 4 ∨ width = 8) then d.pcieTrain port speed.toNat width.toNat else d)

/-- PCIE_LINK_DOWN (R383). -/
def execPcieLinkDown (port : PciePort) (s : State) : Host.Outcome State Fault Refusal := s.act (fun d => d.pcieDown port)

/-- D3HOT_ENTRY (R385). -/
def execD3hotEntry (port : PciePort) (s : State) : Host.Outcome State Fault Refusal :=
  s.act (fun d => if d.pcieUp port then d.setPort port { d.port port with d3hot := true } else d)

/-- Whether an output is a write of a queue, which goes before records and messages (R385). -/
def PortOut.isWrite (o : PortOut) : Bool := match o with | .write _ _ _ => true | _ => false

/-- D0_RETURN (R385): held writes are issued first, then records and messages in the order they came. -/
def execD0Return (port : PciePort) (s : State) : Host.Outcome State Fault Refusal :=
  s.act (fun d =>
    let q := d.port port
    if q.d3hot then
      let w := q.waiting
      let d := (d.setPort port { q with d3hot := false, waiting := [] }).unhold port false
      (w.filter PortOut.isWrite ++ w.filter (fun o => !o.isWrite)).foldl (fun e o => e.issue port o) d
    else d)

/-- MSIX_UNMASK (R404): a vector is unmasked, or MSI-X enabled, and pending messages go out; `vector` none enables MSI-X for the
function. -/
def Dev.msixSend (d : Dev) (p : PciePort) (v : Nat) : Dev :=
  let q := d.port p
  let e := Tab.get q.msix v MsixEntry.reset
  if q.pba.getLsbD v ∧ q.msixOn ∧ q.funcMask = false ∧ e.masked = false then
    (d.setPort p { q with pba := q.pba &&& ~~~(BitVec.ofNat 64 (2 ^ v)) }).emit p (.msix v e.addr.toNat e.data.toNat)
  else d

/-- Clears a vector's mask bit. -/
def Dev.unmask (d : Dev) (p : PciePort) (v : Nat) : Dev :=
  let q := d.port p
  d.setPort p { q with msix := Tab.set q.msix v { Tab.get q.msix v MsixEntry.reset with masked := false } MsixEntry.reset }

/-- MSIX_UNMASK (R381, R404, R416): a vector's mask is a BAR0 write, which recovery ignores (R531). -/
def execMsixUnmask (port : PciePort) (vector : Option (Fin 64)) (s : State) : Host.Outcome State Fault Refusal :=
  s.act (fun d =>
    if (d.port port).perst then d
    else match vector with
      | some v => d.onReg port (fun d => (d.unmask port v).msixSend port v)
      | none =>
        let q := d.port port
        (List.range 64).foldl (fun e v => e.msixSend port v) (d.setPort port { q with msixOn := true, funcMask := false }))

end Sys2Proof.Machine
end

