-- ==== Sys2Proof/Machine/View.lean ====
section
/-! DEFINITION. BAR0 as it reads (R530 to R539): fields whose values follow from elsewhere in the state, the windows of the event recorder
(R508, R509), and whole words as a port or the sideband sees them. -/
namespace Sys2Proof.Machine
open Sys2Proof

/-! ### The recorder's windows (R502, R508, R509) -/

/-- A record's 64 B (R502). -/
def Rec.bytes (r : Rec) : List Byte :=
  leBytes 4 r.seq.toNat ++ leBytes 4 r.cycles.toNat ++ leBytes 8 r.opTime.toNat ++ leBytes 1 r.sev ++ leBytes 1 0 ++ leBytes 2 r.source.toNat ++
    leBytes 2 r.code.toNat ++ leBytes 2 0 ++ (r.payload ++ List.replicate 40 0).take 40

/-- The record that is held under a number: from the buffer where it holds it, else from the log (R508). -/
def Recorder.find (x : Recorder) (s : Word) : Option Rec :=
  match x.buf.find? (fun e => e.1.seq == s) with
  | some e => some e.1
  | none => Tab.get x.log s.toNat none

/-- The oldest number held, 0 where none is (R515). -/
def Recorder.oldest (x : Recorder) : Word :=
  let ss := x.buf.map (fun e => e.1.seq) ++ x.logged.map (fun e => BitVec.ofNat 32 e.1)
  ss.foldl (fun o s => if o = 0 ∨ seqAge x.newest o < seqAge x.newest s then s else o) 0

/-- The `i`-th number from a cursor on, passing over 0 (R503, R508). -/
def seqPlus (c : Word) (i : Nat) : Word := BitVec.ofNat 32 ((c.toNat - 1 + i) % (2 ^ 32 - 1) + 1)

/-- The bytes of slot `i` of a window at a cursor (R508). -/
def Dev.windowSlot (d : Dev) (cursor : Word) (i : Nat) : List Byte :=
  let c := if cursor = 0 then d.recd.oldest else cursor
  if c = 0 then List.replicate 64 0
  else match d.recd.find (seqPlus c i) with
    | some r => r.bytes
    | none => List.replicate 64 0

/-- A 4 B word of the host's or the sideband's window; a window that is not ready reads 0 (R509, R528). -/
def Dev.windowWord (d : Dev) (sideband : Bool) (off : Nat) : Nat :=
  let ready := d.rd (if sideband then F.SB_WIN_READY else F.WIN_READY)
  let cursor := BitVec.ofNat 32 (d.rd (if sideband then F.SB_CURSOR else F.HOST_CURSOR))
  if ready = 0 then 0 else field (d.windowSlot cursor (off / 64)) (off % 64) 4

/-! ### Fields that follow from elsewhere in the state -/

/-- Whether any of some fields is not 0. -/
def Dev.anySet (d : Dev) (fs : List Field) : Bool := fs.any (fun f => d.rd f != 0)

/-- STICKY_SUM (R513, R515). -/
def Dev.stickySum (d : Dev) : Nat :=
  let b (i : Nat) (x : Bool) : Nat := b2n x * 2 ^ i
  b 0 (d.cflagsAny != 0) +
  b 1 (d.anySet [F.SKID_SHORT, F.SKID_OVR, F.LS_WRITE_LOST, F.INGOT_TEST_FAIL, F.LS_TEST_FAIL]) +
  b 2 (d.anySet [F.CAP_REDUCED, F.PC_FAILED, F.FAR_FAIL, F.NEAR_POISON, F.REBUILD_SRC_LOST, F.KEEP_LOW]) +
  b 3 (d.anySet [F.LINK_DOWN, F.ROUTE_DROP]) +
  b 4 (d.anySet ([F.BAR4_MISS 0, F.BAR4_MISS 1] ++ (List.range 64).map F.DB_OVERRUN)) +
  b 5 (d.anySet [F.PARTNER_LOST, F.FEED_SHARED, F.TWIN_OLD_LINE, F.COMMIT_FAIL]) +
  b 6 (d.anySet [F.CLK_COAST, F.SAG_SEEN, F.NV_ABORTED, F.THERM_THROTTLED, F.RETRIM_OVERDUE]) +
  b 7 (d.anySet [F.SEC_FAIL, F.IMG_WOULD_FAIL, F.CORE_SPARED]) +
  b 8 (d.anySet [F.LOG_DROPPED, F.EVT_SEV, F.EVT_PARTNER, F.EVT_COAST, F.EVT_SAG_ON, F.EVT_SAG_OFF])

/-- CORE_STATE's code of a core's state (R537). -/
def CoreStatus.code (s : CoreStatus) : Nat := match s with | .idle => 0 | .running => 1 | .stopped => 2

/-- A field of the per-core group, at its offset within the core's 32 B (R537). -/
def Dev.coreField (d : Dev) (n within lo : Nat) : Nat :=
  let c := d.core n
  if d.present n = false then (if within = 0 ∧ lo = 0 then 3 else 0)
  else match within with
    | 0x00 => if lo = 0 then c.status.code else d.physCore n
    | 0x04 => c.cflags.toNat
    | 0x08 => c.codeBase
    | 0x10 => c.codeLen
    | 0x14 => c.lastPc
    | 0x18 => c.lastWhy
    | _ => 0

/-- STEP of a snapshot slot (R454). -/
def Dev.snapStep (d : Dev) (j : Nat) : Nat := match d.snapHdr j with | some h => hdrStep h | none => 0

/-- The sweep at the head of the queue (R298). -/
def Dev.headSweep (d : Dev) : Option Sweep := d.tier.sweeps.head?

/-- The value of a field as it reads (R10), SIZE_EXP 17 to 31 as 16 (R388); every other field reads as stored. -/
def Dev.viewField (d : Dev) (f : Field) : Nat :=
  if 0x1100 ≤ f.off ∧ f.off < 0x1D00 then d.coreField ((f.off - 0x1100) / 32) ((f.off - 0x1100) % 32) f.lo
  else match f.acc with
    | .wo => 0
    | .rw => if f = F.SIZE_EXP ((f.off - 0x10110) / 64) then min 16 (d.rd f) else d.rd f
    | .w1c => d.rd f
    | .ro =>
      if f = F.CORES then d.coreCount
      else if f = F.CORES_PER_DIE then d.perDie
      else if f = F.SLOT_ID then d.sys.strapSlot.toNat
      else if f = F.CORE_PRESENT_0 then 2 ^ 32 - 1
      else if f = F.CORE_PRESENT_1 then 2 ^ 32 - 1
      else if f = F.CORE_PRESENT_2 then 2 ^ (d.coreCount - 64) - 1
      else if f = F.CFLAGS_ANY then d.cflagsAny.toNat
      else if f = F.SWEEPS_QUEUED then min 15 (d.tier.sweeps.length - 1)
      else if f = F.SWEEP_ACTIVE then b2n d.headSweep.isSome
      else if f = F.SWEEP_PC then (match d.headSweep with | some s => if s.spare = 640 then 0x3FF else s.spare | none => 0x3FF)
      else if f = F.SWEEP_LINES then (match d.headSweep with | some s => s.next | none => 0)
      else if f = F.RECOVERY then b2n (d.sys.phase == .recovery)
      else if f = F.SVN_COUNTER then d.fuses.svnCounter
      else if f = F.OWNER_STATE then d.fuses.ownerBits
      else if f = F.VENDOR_REVOKED then d.fuses.revokedBits
      else if f = F.CORE_SPARES_LEFT then [0, 1, 2, 3].foldl (fun m k => m + (sparesPerDie - d.sparesUsed k) * 4 ^ k) 0
      else if f = F.DEVICE_UID then d.fuses.uid.toNat
      else if 0x3100 ≤ f.off ∧ f.off < 0x31C0 then (Tab.get d.fuses.ownerKey ((f.off - 0x3100) / 64) 0).toNat
      else if 0x3200 ≤ f.off ∧ f.off < 0x3300 then (Tab.get d.fuses.vendorKey ((f.off - 0x3200) / 64) 0).toNat
      else if f = F.NEWEST_SEQ then d.recd.newest.toNat
      else if f = F.OLDEST_SEQ then d.recd.oldest.toNat
      else if f = F.BUF_PENDING then d.uncommitted.length
      else if f = F.STICKY_SUM then d.stickySum
      else if f = F.FEED_ID then d.sys.strapFeed.toNat
      else if f = F.RETRIM_DUE then ((List.range 26).filter (fun i => (d.calItem i).due)).length
      else if f = F.HOSTED_GEN0 then d.hostedGen 0
      else if f = F.HOSTED_GEN1 then d.hostedGen 1
      else if f = F.SNAP_STEP0 then d.snapStep 0
      else if f = F.SNAP_STEP1 then d.snapStep 1
      else if f = F.SNAP_VALID then b2n (d.snapHdr 0).isSome + 2 * b2n (d.snapHdr 1).isSome
      else d.rd f

/-! ### Words (R530 to R534) -/

/-- A byte of the route table as it reads (R360). -/
def Dev.routeByte (d : Dev) (id : Nat) : Nat := let v := d.rd (F.ROUTE id); if 18 ≤ v ∧ v ≤ 0x1E then 0x1F else v

/-- A word of a port's MSI-X structures (R381, log 23). -/
def Port.msixWord (q : Port) (off : Nat) : Nat :=
  if off < 0x3F00400 then
    let e := Tab.get q.msix ((off - 0x3F00000) / 16) MsixEntry.reset
    match (off - 0x3F00000) % 16 with
    | 0 => e.addr.toNat % 2 ^ 32
    | 4 => e.addr.toNat / 2 ^ 32
    | 8 => e.data.toNat
    | _ => b2n e.masked
  else q.pba.toNat / 2 ^ (8 * (off - 0x3F08000)) % 2 ^ 32

/-- Whether an offset lies in the MSI-X structures (R530). -/
def isMsix (off : Nat) : Bool := decide (0x3F00000 ≤ off ∧ off < 0x3F00400) || decide (0x3F08000 ≤ off ∧ off < 0x3F08008)

/-- Whether recovery serves an offset (R531). -/
def servedInRecovery (off : Nat) : Bool := decide (off < 0x1000) || decide (0x3000 ≤ off ∧ off < 0x4000)

/-- The 4 B word of BAR0 at an offset, as port `who` reads it; none stands for the sideband (R528, R530, R531). -/
def Dev.word (d : Dev) (who : Option PciePort) (off : Nat) : Nat :=
  if d.sys.phase = .recovery ∧ servedInRecovery off = false then 2 ^ 32 - 1
  else if isMsix off then (match who with | some p => (d.port p).msixWord off | none => 0)
  else if 0x5000 ≤ off ∧ off < 0x6000 then d.windowWord who.isNone (off - 0x5000)
  else if 0x30000 ≤ off ∧ off < 0x40000 then
    let b (i : Nat) : Nat := d.routeByte (off - 0x30000 + i)
    b 0 + 256 * (b 1 + 256 * (b 2 + 256 * b 3))
  else (fieldsAt off).foldl (fun w f => w ||| ((d.viewField f <<< f.lo) >>> (8 * (off - f.off)) % 2 ^ 32)) 0

/-- The bytes of BAR0 from a 4 B-aligned offset on. -/
def Dev.words (d : Dev) (who : Option PciePort) (off n : Nat) : List Byte :=
  (List.range n).flatMap (fun i => leBytes 4 (d.word who (off + 4 * i)))

/-- Whether the word at an offset is the low word of a 64-bit RO field (R534). -/
def isLowRo (off : Nat) : Bool := (fieldsAt off).any (fun f => f.off == off && f.acc == .ro && f.w == 64)

end Sys2Proof.Machine
end

