-- ==== Sys2Proof/Machine/Sideband.lean ====
section
/-! DEFINITION. The event recorder's own steps (R504, R506, R509, R514) and the SMBus sideband (R527 to R529). -/
namespace Sys2Proof.Machine
open Sys2Proof

/-- Changes the recorder's state. -/
def Dev.mapRecd (d : Dev) (f : Recorder → Recorder) : Dev := { d with recd := f d.recd }

/-- RECORD_COMMIT (R506): the uncommitted record of the lowest number goes to the log. -/
def execRecordCommit (s : State) : Host.Outcome State Fault Refusal :=
  s.act (fun d => if d.awake ∧ d.nvInhibit = false ∧ d.restarting = false then d.commitSome 1 else d)

/-- EVT_HOLDOFF_END (R514). -/
def execEvtHoldoffEnd (s : State) : Host.Outcome State Fault Refusal :=
  s.act (fun d =>
    if d.recd.holdoff then
      let e := d.mapRecd (fun r => { r with holdoff := false, merged := false })
      if d.recd.merged then e.sendEvent else e
    else d)

/-- OP_TIME_SAVE (R473, R504). -/
def execOpTimeSave (s : State) : Host.Outcome State Fault Refusal :=
  s.act (fun d => if d.awake = false then d else if d.nvInhibit then d.nvRefuse else d.saveTimes)

/-- A write of HOST_CURSOR (R509). -/
def Dev.hostCursorWrite (d : Dev) (v : Nat) : Dev :=
  ((d.wr F.HOST_CURSOR v).wr F.WIN_READY 0).mapRecd (fun r => { r with loading := true })

/-- HOST_CURSOR (R509). -/
def execHostCursor (port : PciePort) (value : Word) (s : State) : Host.Outcome State Fault Refusal :=
  s.act (fun d => d.onReg port (fun d => d.hostCursorWrite value.toNat))

/-- WIN_READY (R509): a window that is loading is ready. -/
def execWinReady (sideband : Bool) (s : State) : Host.Outcome State Fault Refusal :=
  s.act (fun d =>
    if sideband then
      if d.recd.sbLoading then (d.wr F.SB_WIN_READY 1).mapRecd (fun r => { r with sbLoading := false }) else d
    else if d.recd.loading then (d.wr F.WIN_READY 1).mapRecd (fun r => { r with loading := false })
    else d)

/-- Whether the sideband acknowledges its address: not while the Bronze core restarts (R492, R527). -/
def Dev.sbOn (d : Dev) : Bool := d.sys.auxOk && (d.sys.phase == .run || d.sys.phase == .retain) && !d.restarting

/-- OFFSET (R527, R528): `pec` is false where the write carries a wrong PEC. -/
def execSbOffset (value : Word) (pec : Bool) (s : State) : Host.Outcome State Fault Refusal :=
  s.act (fun d => if d.sbOn && pec then d.mapRecd (fun r => { r with sbOffset := value.toNat / 4 * 4 }) else d)

/-- READ (R528). -/
def execSbRead (s : State) : Host.Outcome State Fault Refusal :=
  s.act (fun d =>
    if d.sbOn then
      d.mapRecd (fun r => { r with sbOut := r.sbOut ++ [d.words none r.sbOffset 8], sbOffset := (r.sbOffset + 32) % 2 ^ 32 })
    else d)

/-- Whether a cursor stands past the newest record (R529). -/
def Dev.pastNewest (d : Dev) (cursor : Word) : Bool :=
  decide (cursor ≠ 0 ∧ cursor ≠ d.recd.newest ∧ (cursor - d.recd.newest).toNat < 2 ^ 31)

/-- CURSOR (R508, R509, R528, R529). -/
def execSbCursor (value : Word) (pec : Bool) (s : State) : Host.Outcome State Fault Refusal :=
  s.act (fun d =>
    if d.sbOn && pec then
      let e := ((d.wr F.SB_CURSOR value.toNat).wr F.SB_WIN_READY 0).mapRecd (fun r => { r with sbLoading := true })
      if d.pastNewest value then { e with sys := { e.sys with alertN := true } } else e
    else d)

/-- ALERT_RESPONSE_ADDRESS (R527, R529): an asserted SMB_ALERT_N is answered with the 7-bit address, and released. -/
def execAlertResponseAddress (s : State) : Host.Outcome State Fault Refusal :=
  s.act (fun d =>
    if d.sbOn && !d.sys.alertN then
      { d.mapRecd (fun r => { r with sbOut := r.sbOut ++ [leBytes 1 (0x10 + d.sys.strapSlot.toNat)] }) with sys := { d.sys with alertN := true } }
    else d)

end Sys2Proof.Machine
end

