-- ==== Sys2Proof/WellFormed.lean ====
section
/-! DEFINITION. Which commands are well formed: the lengths, sizes and alignments that the spec gives the operands of a command.
A command outside these bounds spells nothing the hardware can be given; the machine is total on it all the same. -/
namespace Sys2Proof

/-- Collisions are listed in the order of the accesses, each once, none without a drop (R254). -/
def Drops.wf (d : Drops) : Bool := Tab.wf d 0

/-- A BAR0 access is 4 B or 8 B, naturally aligned, inside the 64 MiB window (R11, R530). -/
def bar0Ok (off size : Nat) : Bool := (size == 4 || size == 8) && off % size == 0 && decide (off + size ≤ 0x4000000)

/-- A BAR2 access is 4 B or 8 B, naturally aligned, inside the 256 KiB of doorbell pages (R381). -/
def bar2Ok (off size : Nat) : Bool := (size == 4 || size == 8) && off % size == 0 && decide (off + size ≤ 0x40000)

/-- The 32 lines of a region under test, in ascending order, each once (R263). -/
def linesOk (ls : List Nat) : Bool := ls.all (fun l => decide (l < 32)) && (ls.zip (ls.drop 1)).all (fun x => decide (x.1 < x.2))

/-- What the partner answered: two slot headers of 4 KiB each (R432), data in whole packets (R445), and codes of R14. -/
def PartnerAns.wf (a : PartnerAns) : Bool :=
  a.hdr0.length == 4096 && a.hdr1.length == 4096 && a.data.length % 8192 == 0 && decide (a.status.toNat < 16) && decide (a.failure.toNat < 16)

/-- Whether a command is well formed. -/
def Instr.wf (i : Instr) : Bool :=
  match i with
  | .icacheFill _ off => off % 64 == 0
  | .transferComplete _ _ drops => Drops.wf drops
  | .descriptorFetch _ bytes => bytes.length == 64
  | .copy _ _ drops => Drops.wf drops
  | .apoTranslate _ _ drops => Drops.wf drops
  | .stepReport _ _ drops => Drops.wf drops
  | .layoutCopy _ _ drops => Drops.wf drops
  | .dispatch _ _ drops => Drops.wf drops
  | .combine _ _ rows drops => Drops.wf drops && rows.all (fun r => decide (r.status.toNat < 16))
  | .keepRead _ _ drops => Drops.wf drops
  | .linkWrite _ _ drops => Drops.wf drops
  | .linkRead _ _ drops => Drops.wf drops
  | .collective _ _ drops => Drops.wf drops
  | .attest _ _ drops => Drops.wf drops
  | .twinCommit _ _ ans => ans.wf
  | .twinFill _ _ ans => ans.wf
  | .twinVerify _ _ ans => ans.wf
  | .heartbeat ans => ans.wf
  | .pairingTimeout ans => ans.wf
  | .bar4Read _ off len => decide (off + len ≤ 2 ^ 36)
  | .bar4Write _ off bytes => decide (off + bytes.length ≤ 2 ^ 36) && decide (bytes.length ≤ 512)
  | .registerWrite _ off size value => bar0Ok off size && decide (value < 2 ^ (8 * size))
  | .lowWordRead _ place size => if place.bar2 then bar2Ok place.off size else bar0Ok place.off size
  | .bgtLsRegion _ region fails => decide (region < 2048) && linesOk fails
  | .bgtIngotRegion _ fails => linesOk fails
  | .scrubRead line => match line with | .spare pc i => decide (pc < 640) && decide (i < 2 ^ 23) | .flat _ => true
  | .rebuildSweep twin => decide (twin.status.toNat < 16)
  | .pcFailed pc cause => decide (pc < 640) && decide (cause.toNat < 3)
  | .linkTraining _ res => decide (res.lanes ≤ 4)
  | .flitReceive _ flit => flit.bytes.length == 256
  | .pktWrite drops => Drops.wf drops
  | .pktReadResp drops => Drops.wf drops
  | .pktColl drops => Drops.wf drops
  | _ => true

end Sys2Proof
end

