-- ==== Sys2Proof/Machine/HostPorts.lean ====
section
/-! DEFINITION. BAR4 and hold-back (R244, R245, R254, R255, R382), reads of BAR0 (R532, R534), and the register write with no row of its
own (R10 to R12, R530 to R535). -/
namespace Sys2Proof.Machine
open Sys2Proof

/-! ### BAR4 (R382, R493) -/

/-- The device address behind a BAR4 offset: in recovery only the first 64 MiB of Ingot slice I0, at offset 0 (R382, R493); none where
recovery serves nothing. -/
def Dev.bar4Addr (d : Dev) (p : PciePort) (off n : Nat) : Option Nat :=
  if d.sys.phase = .recovery then (if off + n ≤ imageMax then some (ingotBase + off) else none)
  else some ((d.rd (F.BAR4_BASE (pnum p)) / 2 ^ 20 * 2 ^ 20 + off) % 2 ^ 64)

/-- Whether all of a range lies in the device's own stores (R382). -/
def Dev.ownRange (d : Dev) (a n : Nat) : Bool :=
  match d.region a with
  | some (r, _, _) => r.own && d.inMap a n
  | none => false

/-- Answers a host's read in the way `f` has it: nothing while the link is down, an Unsupported Request in D3hot (R385). -/
def Dev.hostRead (d : Dev) (p : PciePort) (len : Nat) (f : Dev → Dev) : Dev :=
  if !d.pcieUp p then d else if (d.port p).d3hot then d.issue p (.unsupported len) else f d

/-- BAR4_READ (R382, R383, R415): it comes after the port's earlier writes; it wakes a device in Retain (R468). -/
def execBar4Read (port : PciePort) (off len : Nat) (s : State) : Host.Outcome State Fault Refusal :=
  s.act (fun d => d.hostRead port len (fun d =>
      let d := (d.landPort port).wakeUp
      let miss := (d.bar4Miss port).emit port (.readData (List.replicate len 0xFF))
      match d.bar4Addr port off len with
      | none => miss
      | some a =>
        if d.ownRange a len = false then miss
        else
          let x := d.load a len
          if x.2.1 = stOk then x.1.emit port (.readData x.2.2) else x.1.emit port (.readPoisoned len)))

/-- The accesses of a write as held writes of a queue, each at its address. -/
def heldAccesses (src : HeldSrc) (a : Nat) (pieces : List (List Byte)) : List Held :=
  match pieces with
  | [] => []
  | bs :: rest => ⟨src, .memory, .bytes a bs⟩ :: heldAccesses src (a + bs.length) rest

/-- BAR4_WRITE (R245, R252, R382): the write goes into hold-back, cut into its accesses where it uses a shared port; without room the port
waits. -/
def execBar4Write (port : PciePort) (off : Nat) (bytes : List Byte) (s : State) : Host.Outcome State Fault Refusal :=
  s.act (fun d =>
    let src : HeldSrc := .own (portSq port)
    let used := d.heldBytes src
    if !d.hostReach port || decide (65536 < used + bytes.length) then d
    else
      let d := d.wakeUp
      match d.bar4Addr port off bytes.length with
      | none => d.bar4Miss port
      | some a =>
        if d.ownRange a bytes.length = false then d.bar4Miss port
        else
          { d with hold := d.hold ++ heldAccesses src a (if d.isShared a none then accessCut a bytes else [bytes]) })

/-! ### Hold-back and collisions (R244, R254, R255) -/

/-- The source queue of a held write, as the number of a device queue; peers' packets name their own. -/
def heldNum (h : HeldSrc) : BitVec 16 := match h with | .own q => q | .peer _ q => q

/-- What a release does with the write taken from hold-back: a dropped shared-port access waits for its reissue, in its queue's place
(R254, R255); a packet goes to what serves it. -/
def Dev.releaseHeld (d : Dev) (h : Held) (dropped : Bool) : Dev :=
  match h.body with
  | .packet p k => (List.range 18).foldl Dev.drainLink (d.releasePkt p k)
  | .bytes a bs =>
    if dropped && d.isShared a none then { d.collide 1 with hit := d.hit ++ [⟨h, 1⟩] }
    else d.landHost (heldNum h.src) a bs

/-- Whether held writes to a destination wait: all of them in Retain (R261), those to a host whose port is in D3hot (R385). -/
def Dev.holdWaits (d : Dev) (dest : Dest) : Bool :=
  d.sys.phase == .retain || (match dest with | .host p => (d.port p).d3hot | _ => false)

/-- HOLDBACK_RELEASE (R244, R255, R261, R385): the oldest held write of a queue to a destination; writes of the queue to memory wait for a
reissue. -/
def execHoldbackRelease (src : HeldSrc) (dest : Dest) (dropped : Bool) (s : State) : Host.Outcome State Fault Refusal :=
  s.act (fun d =>
    if d.holdWaits dest || (dest == .memory && d.hit.any (fun h => h.held.src == src)) then d
    else match d.hold.findIdx? (fun h => h.src == src && h.dest == dest) with
      | none => d
      | some i => match d.hold[i]? with
        | none => d
        | some h => ({ d with hold := d.hold.eraseIdx i } : Dev).releaseHeld h dropped)

/-- The ninth drop of a host write: it is discarded (R254). -/
def Dev.lsWriteLost (d : Dev) (h : Held) : Dev :=
  match h.body with
  | .bytes a _ => (d.wr F.LS_WRITE_LOST 1).log 3 (0x330 + ((heldNum h.src).toNat - 0x300)) 0x104 (leBytes 8 a)
  | .packet _ _ => d

/-- COLLISION_REISSUE (R254, R255): the oldest dropped write is tried again, but not in Retain (R261). -/
def execCollisionReissue (dropped : Bool) (s : State) : Host.Outcome State Fault Refusal :=
  s.act (fun d =>
    match d.hit with
    | [] => d
    | c :: rest =>
      if d.sys.phase = .retain then d
      else if dropped then
        if 8 ≤ c.tries then ({ d.collide 1 with hit := rest } : Dev).lsWriteLost c.held
        else { d.collide 1 with hit := { c with tries := c.tries + 1 } :: rest }
      else match c.held.body with
        | .bytes a bs => ({ d with hit := rest } : Dev).landHost (heldNum c.held.src) a bs
        | .packet _ _ => { d with hit := rest })

/-! ### Reads of BAR0 (R532, R534) -/

/-- A read of the low word of a 64-bit RO field latches its high word. -/
def Dev.latchLow (d : Dev) (p : PciePort) (off : Nat) : Dev :=
  if isLowRo off then d.setPort p { d.port p with latch := some (off + 4, BitVec.ofNat 32 (d.word (some p) (off + 4))) } else d

/-- A 4 B read, with the latch of R534. -/
def Dev.readLatched (d : Dev) (p : PciePort) (off : Nat) : Dev × Nat :=
  match (d.port p).latch with
  | some (o, v) => if o = off then (d.dropLatch p, v.toNat) else ((d.dropLatch p).latchLow p off, d.word (some p) off)
  | none => (d.latchLow p off, d.word (some p) off)

/-- A 4 B word of the doorbell pages as it reads (R389). -/
def Dev.doorWord (d : Dev) (off : Nat) : Nat :=
  match off % 4096 with | 0 => d.cntT (off / 4096) | 8 => d.cntH (off / 4096) | _ => 0

/-- What a read of BAR2 returns (R381, R389). -/
def Dev.doorBytes (d : Dev) (off size : Nat) : List Byte :=
  if bar2Ok off size then (List.range (size / 4)).flatMap (fun i => leBytes 4 (d.doorWord (off + 4 * i))) else List.replicate size 0xFF

/-- LOW_WORD_READ (R381, R389, R532, R534): a read of BAR0, or of the doorbell pages in BAR2; one that is not 4 B or 8 B and naturally
aligned returns all bits 1. -/
def execLowWordRead (port : PciePort) (place : BarPlace) (size : Nat) (s : State) : Host.Outcome State Fault Refusal :=
  s.act (fun d => d.hostRead port size (fun d =>
    let off := place.off
    if place.bar2 then d.emit port (.readData (d.doorBytes off size))
    else if bar0Ok off size = false then (d.dropLatch port).emit port (.readData (List.replicate size 0xFF))
    else if size = 8 then (d.dropLatch port).emit port (.readData (d.words (some port) off 2))
    else
      let x := d.readLatched port off
      x.1.emit port (.readData (leBytes 4 x.2))))

/-! ### REGISTER_WRITE (R10 to R12, R530 to R535) -/

/-- The bits of a 4 B word at `off` that belong to field `f`, at their places in the field (R533). -/
def Field.partAt (f : Field) (off v : Nat) : Nat := (v &&& f.maskAt off) <<< (8 * (off - f.off)) >>> f.lo

/-- What a 4 B word written at `off` puts into field `f` of the value `old` (R10, R533). -/
def Field.merge (f : Field) (off old v : Nat) : Nat :=
  let part := f.partAt off v
  let mask := f.partAt off (2 ^ 32 - 1)
  match f.acc with
  | .rw => old - (old &&& mask) + part
  | .w1c => old - (old &&& part)
  | _ => old

/-- LS_RET_k is written: bits of absent cores stay 0, and a store whose bit is cleared leaves retention (R262, R266). -/
def Dev.lsRetWrite (d : Dev) (f : Field) (k v : Nat) : Dev :=
  let present := (List.range 32).foldl (fun m i => if d.present (32 * k + i) then m + 2 ^ i else m) 0
  let d := d.wr f (v &&& present)
  (List.range 32).foldl (fun e i =>
    if bit v i = false ∧ (e.core (32 * k + i)).retained then e.setCore (32 * k + i) { e.core (32 * k + i) with retained := false } else e) d

/-- The index of a repeated field whose first stands at `base`, `stride` apart. -/
def fieldNth (f : Field) (base stride : Nat) : Nat := (f.off - base) / stride

/-- What a written field does beside or in place of being stored, where it has a behaviour of its own; `w` is the word written. -/
def Dev.fieldAct (d : Dev) (f : Field) (off w : Nat) : Dev :=
  let v := f.partAt off w
  let r := fieldNth f 0x10114 0x40
  let p := fieldNth f 0x20100 0x40
  if f = F.PWR_REQ then d.pwrReqWrite v
  else if f = F.REF_SEL then d.refSelWrite (portOfNat v)
  else if f = F.HOST_CURSOR then d.hostCursorWrite v
  else if f = F.RECOVER_NEXT then d.recoverWrite (v == 1)
  else if f = F.REC_GO then (if v = 1 then d.recGoWrite ⟨none, none, false⟩ else d)
  else if f = F.LS_RET_0 then d.lsRetWrite f 0 v
  else if f = F.LS_RET_1 then d.lsRetWrite f 1 v
  else if f = F.LS_RET_2 then d.lsRetWrite f 2 v
  else if f = F.ENABLE r then (if v = 1 then d.enableOn r else d.enableOff r)
  else if f = F.RESUME r then (if v = 1 then d.resume r else d)
  else if f = F.PORT_EN p then d.portEnWrite p (v == 1)
  else if f = F.RETRAIN p then (if v = 1 then d.retrainWrite p else d)
  else if 0x1100 ≤ f.off ∧ f.off < 0x1D00 then
    let n := fieldNth f 0x1100 32
    if f = F.CFLAGS n ∧ d.present n then d.setCore n (let c := d.core n; { c with cflags := c.cflags &&& ~~~(BitVec.ofNat 32 v) }) else d
  else match f.acc with
    | .ro => d
    | .wo => d
    | .rw => d.wr f (f.merge off (d.rd f) w)
    | .w1c => d.wr f (f.merge off (d.rd f) w)

/-- A word written into a port's MSI-X table; an entry that is unmasked sends what it has pending (R404, log 23). -/
def Dev.msixWrite (d : Dev) (p : PciePort) (off v : Nat) : Dev :=
  if 0x3F00400 ≤ off then d
  else
    let q := d.port p
    let i := (off - 0x3F00000) / 16
    let e := Tab.get q.msix i MsixEntry.reset
    let put (x : MsixEntry) : Dev := d.setPort p { q with msix := Tab.set q.msix i x MsixEntry.reset }
    match (off - 0x3F00000) % 16 with
    | 0 => put { e with addr := BitVec.ofNat 64 (e.addr.toNat / 2 ^ 32 * 2 ^ 32 + v) }
    | 4 => put { e with addr := BitVec.ofNat 64 (e.addr.toNat % 2 ^ 32 + v * 2 ^ 32) }
    | 8 => put { e with data := BitVec.ofNat 32 v }
    | _ => (put { e with masked := bit v 0 }).msixSend p i

/-- Four entries of the route table at once (R535). -/
def Dev.routeWrite (d : Dev) (off v : Nat) : Dev :=
  [0, 1, 2, 3].foldl (fun e i => e.wr (F.ROUTE (off - 0x30000 + i)) (v / 256 ^ i % 256)) d

/-- Whether a 4 B write touches a reserved bit of a register with a nonzero value, to which the response is undefined (R12). -/
def Dev.touchesReserved (d : Dev) (off v : Nat) : Bool :=
  !(d.sys.phase == .recovery && !servedInRecovery off) && !isMsix off && !decide (0x30000 ≤ off ∧ off < 0x40000) &&
    !decide (0x5000 ≤ off ∧ off < 0x6000) && decide (v &&& reservedBits off ≠ 0)

/-- A 4 B write of BAR0 by a port's host (R10, R530, R531). -/
def Dev.writeWord (d : Dev) (p : PciePort) (off v : Nat) : Dev :=
  if d.sys.phase = .recovery ∧ servedInRecovery off = false then d
  else if isMsix off then d.msixWrite p off v
  else if 0x30000 ≤ off ∧ off < 0x40000 then d.routeWrite off v
  else if 0x5000 ≤ off ∧ off < 0x6000 then d
  else (fieldsAt off).foldl (fun e f => e.fieldAct f off v) d

/-- The 4 B words of a write, the lower first (R532). -/
def wordsOf (off size v : Nat) : List (Nat × Nat) :=
  if size = 8 then [(off, v % 2 ^ 32), (off + 4, v / 2 ^ 32 % 2 ^ 32)] else [(off, v % 2 ^ 32)]

/-- REGISTER_WRITE (R10 to R12, R381, R532): the words of the write, unless one has a nonzero reserved bit. -/
def execRegisterWrite (port : PciePort) (off size value : Nat) (s : State) : Host.Outcome State Fault Refusal :=
  let d := s.dev.landPort port
  if !d.updReach port || !bar0Ok off size then s.act (fun d => d.landPort port)
  else
    let ws := wordsOf off size value
    if ws.any (fun w => d.touchesReserved w.1 w.2) then .fault .reservedBitWrite
    else s.act (fun d => ws.foldl (fun e w => e.writeWord port w.1 w.2) ((d.landPort port).dropLatch port))

end Sys2Proof.Machine
end

