-- ==== Sys2Proof/Machine/LayoutCopy.lean ====
section
/-! DEFINITION. Layout copies (R219, R220, R224, R226 to R235). -/
namespace Sys2Proof.Machine
open Sys2Proof

/-- The index whose number, with dimension 0 fastest, is `j`. -/
def unlinear (sizes : List Nat) (j : Nat) : List Nat :=
  match sizes with
  | [] => []
  | n :: r => j % n :: unlinear r (j / n)

/-- The product of sizes. -/
def prodOf (xs : List Nat) : Nat := xs.foldl (fun a b => a * b) 1

/-- A piece of a copy: its blocks, each a list of storage positions of the destination; without scales, one block (R231). -/
abbrev Piece := List (List (List Nat))

/-- The pieces of a destination with scaling `mode`, in order (R231). -/
def TDesc.lcPieces (t : TDesc) (mode : Nat) : List Piece :=
  let n0 := t.size 0
  let pos (s0 : Nat) (rest : List Nat) : List Nat := (s0 :: rest).take t.rank
  if mode = 2 then
    let n1 := t.size 1
    let hi := t.sizes.drop 2
    (List.range (prodOf hi)).flatMap (fun j => (List.range (ceilDiv n1 32)).flatMap (fun b1 => (List.range (ceilDiv n0 32)).map (fun b0 =>
      [(List.range (min 32 (n1 - 32 * b1))).flatMap (fun i1 => (List.range (min 32 (n0 - 32 * b0))).map (fun i0 =>
        pos (32 * b0 + i0) ((32 * b1 + i1) :: unlinear hi j)))])))
  else
    let hi := t.sizes.drop 1
    (List.range (prodOf hi)).flatMap (fun j => (rowPieces n0 4096).map (fun p =>
      let run := (List.range p.2).map (fun i => pos (p.1 + i) (unlinear hi j))
      if mode = 1 then pieces 32 run (p.2 + 1) else [run]))

/-- The source's logical index for a destination's logical index; none where the element is skipped (R228). -/
def srcIndex (src dst : TDesc) (x : List Nat) : Option (List Nat) :=
  if dst.sharded then
    match dst.globalIndex x with
    | none => none
    | some g =>
      if src.sharded then allSome ((List.range src.rank).map (fun i => (src.shard i).ofGlobal (g.getD i 0)))
      else some ((List.range src.rank).map (fun i => x.getD i 0))
  else some ((List.range src.rank).map (fun i => x.getD i 0))

/-- The logical sizes of a descriptor (R211). -/
def TDesc.logicalSizes (t : TDesc) : List Nat := t.storage t.tr t.sizes

/-- The linear index that a destination element takes for R60 (R230). -/
def stochIndex (dst : TDesc) (x : List Nat) : Nat :=
  if dst.sharded then match dst.globalIndex x with
    | some g => dst.globalLinear g
    | none => 0
  else linearFrom dst.logicalSizes x

/-- A layout copy: its descriptors, rounding, seed and index base, its ring and descriptor, the core whose DMV runs it. -/
structure LCopy where
  src   : TDesc
  dst   : TDesc
  rm    : Nat
  sat   : Bool
  seed  : Nat
  ibase : Nat
  ring  : Nat
  desc  : Desc
  owner : Option Nat

/-- The scaling of the destination. -/
def LCopy.mode (l : LCopy) : Nat := l.dst.scaling l.dst.fmt

/-- Reads one source element from device space: pad is +0 (R213, R214, R219). -/
def Dev.readElem (d : Dev) (y : Desc) (q : Option EReq) : Dev × St × FVal :=
  match q with
  | none => (d, stOk, FVal.zero)
  | some q =>
    let x := d.descLoad y q.loc.addr q.loc.n
    if x.2.1 ≠ stOk then (x.1, x.2.1, FVal.zero)
    else match q.scale with
      | none => (x.1, stOk, scaledValue q.fmt (q.loc.extract x.2.2) none)
      | some a =>
        let z := x.1.descLoad y a 1
        if z.2.1 ≠ stOk then (z.1, z.2.1, FVal.zero) else (z.1, stOk, scaledValue q.fmt (q.loc.extract x.2.2) (some (leNat z.2.2)))

/-- One destination element: its position, and its value with its random value, or none where it is skipped. -/
abbrev LElem := List Nat × BlockElem

/-- Reads the source of one destination position (R228). -/
def LCopy.readPos (l : LCopy) (d : Dev) (s : List Nat) : Dev × St × BlockElem :=
  let x := l.dst.storage l.dst.tr s
  match srcIndex l.src l.dst x with
  | none => (d, stOk, none)
  | some sx =>
    let r := d.readElem l.desc (l.src.req l.src.fmt (l.src.scaling l.src.fmt) l.src.tr sx)
    (r.1, r.2.1, some (r.2.2, rndFor l.rm l.seed (l.ibase + stochIndex l.dst x)))

/-- Reads a piece's source elements, in order, up to the first that fails. -/
def LCopy.readBlock (l : LCopy) (d : Dev) (ps : List (List Nat)) : Dev × St × List LElem :=
  let r := ps.foldl (fun (x : Dev × St × List LElem) s =>
    if x.2.1 ≠ stOk then x
    else
      let y := l.readPos x.1 s
      (y.1, y.2.1, (s, y.2.2) :: x.2.2)) (d, stOk, [])
  (r.1, r.2.1, r.2.2.reverse)

/-- Reads all the blocks of a piece. -/
def LCopy.readPiece (l : LCopy) (d : Dev) (bs : Piece) : Dev × St × List (List LElem) :=
  let r := bs.foldl (fun (x : Dev × St × List (List LElem)) b =>
    if x.2.1 ≠ stOk then x
    else
      let y := l.readBlock x.1 b
      (y.1, y.2.1, y.2.2 :: x.2.2)) (d, stOk, [])
  (r.1, r.2.1, r.2.2.reverse)

/-- An element to write: what is written, and whether it counts in WRITTEN. -/
abbrev LPut := EPut × Bool

/-- The elements and scale bytes that a block writes (R56 to R58, R228, R229). -/
def LCopy.convert (l : LCopy) (b : List LElem) : List LPut × List EPut :=
  let f := l.dst.fmt
  if l.mode = 0 then
    (b.filterMap (fun e => e.2.map (fun v =>
      let raw := ((elemOf f).encode ⟨l.rm, l.sat, v.2⟩ v.1).1
      ((⟨l.dst.locS f e.1, raw, rawFinite f raw 0⟩ : EPut), true))), [])
  else
    let c := mxConvert (elemOf f) l.rm l.sat (b.map (·.2))
    ((b.zip c.2.1).map (fun p => ((⟨l.dst.locS f p.1.1, p.2, rawFinite f p.2 c.1⟩ : EPut), p.1.2.isSome)),
      match b.head? with
      | some e => [scalePut (l.dst.scaleAddr l.mode e.1) c.1]
      | none => [])

/-- The places of elements within their byte or 3-byte group, by the group's address (R44). -/
def groupParts (ps : List LPut) : Tab (List Nat) :=
  ps.foldl (fun t p =>
    let old := Tab.get t p.1.loc.addr []
    if old.contains p.1.loc.lo then t else Tab.put t p.1.loc.addr (p.1.loc.lo :: old)) []

/-- Reads, for merging, the bytes and groups of elements narrower than a byte that hold bits outside the piece (R231). -/
def LCopy.readGroups (l : LCopy) (d : Dev) (ps : List LPut) : Dev × St × Tab (Option Byte) :=
  if elemBits l.dst.fmt ≥ 8 then (d, stOk, [])
  else
    let size := if elemBits l.dst.fmt = 6 then 3 else 1
    let full := if elemBits l.dst.fmt = 6 then 4 else 2
    (groupParts ps).foldl (fun (x : Dev × St × Tab (Option Byte)) g =>
      if x.2.1 ≠ stOk ∨ g.2.length = full then x
      else
        let y := x.1.descLoad l.desc g.1 size
        (y.1, y.2.1, y.2.2.zipIdx.foldl (fun t b => Tab.put t (g.1 + b.2) (some b.1)) x.2.2)) (d, stOk, [])

/-- An element's bytes put over what the table holds at its place. -/
def overPut (o : Tab (Option Byte)) (p : EPut) : Tab (Option Byte) :=
  let old := (List.range p.loc.n).map (fun i => (Tab.get o (p.loc.addr + i) none).getD 0)
  (p.loc.insert old p.raw).zipIdx.foldl (fun t x => Tab.put t (p.loc.addr + x.2) (some x.1)) o

/-- The bytes of elements of one storage row, as runs of neighbours, with the table after them. -/
def rowRuns (o : Tab (Option Byte)) (ps : List LPut) : Tab (Option Byte) × List (Nat × List Byte) :=
  let o := ps.foldl (fun t p => overPut t p.1) o
  let addrs := ps.foldl (fun (t : NatSet) p => (List.range p.1.loc.n).foldl (fun t i => NatSet.ins t (p.1.loc.addr + i)) t) []
  (o, runsOf (addrs.map (fun a => (a, (Tab.get o a none).getD 0))))

/-- Progress of a piece's writes: the block, the status, elements written, the next shared-port access. -/
structure LRun where
  dev : Dev
  st  : St
  cnt : Nat
  acc : Nat

/-- The bytes up to the last that holds a bit of the element. -/
def Loc.last (l : Loc) : Nat := l.addr + (l.lo + l.w + 7) / 8

/-- A write of a layout copy, which ends at its first refusal; the elements whose bytes all landed count (R233, R253, log 36). -/
def LCopy.store (l : LCopy) (t : LRun) (a : Nat) (bs : List Byte) (fin : Nat → Bool) (drops : Drops) (ps : List LPut) : LRun :=
  if t.st ≠ stOk then t
  else
    let w := t.dev.storeC a bs l.ring fin l.owner drops t.acc true
    let d := w.1.dev.noteOther l.ring l.desc.count a w.1.done
    let n := (ps.filter (fun p => p.2 && decide (a ≤ p.1.loc.addr + p.1.loc.lo / 8 ∧ p.1.loc.last ≤ a + w.1.done))).length
    ⟨d, d.capStatus l.desc.nearTop w.1.st (d.badAddr a bs.length), t.cnt + n, w.2⟩

/-- Writes the elements of a piece row by row, then its scale bytes (R231, R233, log 36). -/
def LCopy.writePiece (l : LCopy) (t : LRun) (o : Tab (Option Byte)) (rows : List (List LPut)) (scales : List EPut) (drops : Drops) : LRun :=
  let bad (ps : List LPut) : NatSet := ps.foldl (fun t p => if p.1.fin then t else (unitsOf p.1.loc.addr p.1.loc.n 16).foldl NatSet.ins t) []
  let r := rows.foldl (fun (x : LRun × Tab (Option Byte)) ps =>
    let y := rowRuns x.2 ps
    (y.2.foldl (fun t run => l.store t run.1 run.2 (fun g => !(bad ps).contains g) drops ps) x.1, y.1)) (t, o)
  (runsOf (scales.map (fun p => (p.loc.addr, BitVec.ofNat 8 p.raw)))).foldl (fun t run =>
    l.store t run.1 run.2 (fun g => run.2.zipIdx.all (fun b => b.1 != 0xFF || (run.1 + b.2) / 16 * 16 != g)) drops []) r.1

/-- One piece: read in full, then written (R231, R233). Answers the progress, and the piece's first element where it failed. -/
def LCopy.piece (l : LCopy) (t : LRun) (bs : Piece) (drops : Drops) : LRun :=
  let x := l.readPiece t.dev bs
  if x.2.1 ≠ stOk then { t with dev := x.1, st := x.2.1 }
  else
    let cs := x.2.2.map l.convert
    let puts := cs.flatMap (·.1)
    let g := l.readGroups x.1 puts
    if g.2.1 ≠ stOk then { t with dev := g.1, st := g.2.1 }
    else
      let rows := if l.mode = 2 then pieces (min 32 (bs.flatten.filter (fun s => s.drop 1 == (bs.flatten.headD []).drop 1)).length) puts (puts.length + 1)
        else [puts]
      l.writePiece { t with dev := g.1 } g.2.2 rows (cs.flatMap (·.2)) drops

/-- Runs the pieces in order up to the first that fails; answers the failing piece's first element (R233). -/
def LCopy.run (l : LCopy) (t : LRun) (ps : List Piece) (drops : Drops) : LRun × Option Nat :=
  match ps with
  | [] => (t, none)
  | p :: rest =>
    let u := l.piece t p drops
    if u.st ≠ stOk then (u, some (linearFrom l.dst.sizes ((p.headD []).headD []))) else l.run u rest drops

/-- The result of a layout copy (R233). -/
def lcResult (written : Nat) (fault : Option Nat) : List Byte :=
  leBytes 6 (min written (2 ^ 48 - 1)) ++ leBytes 2 0 ++ leBytes 8 (fault.getD (2 ^ 64 - 1))

/-- Reads a tensor descriptor of device space: its first 128 B, and the rest where it is sharded (R208, R219). -/
def Dev.loadTDesc (d : Dev) (y : Desc) (a : Nat) : Dev × St × TDesc :=
  let a := a / 8 * 8
  let x := d.descLoad y a 128
  if x.2.1 ≠ stOk then (x.1, x.2.1, TDesc.parse [])
  else if TDesc.isSharded x.2.2 then
    let z := x.1.descLoad y (a + 128) 128
    (z.1, z.2.1, TDesc.parse (x.2.2 ++ z.2.2))
  else (x.1, stOk, TDesc.parse x.2.2)

/-- Whether a copy would read an ordinary MX source with effective transposition: some element that it converts is read
(R93, R220, R232). -/
def LCopy.scaleAxis (l : LCopy) : Bool :=
  decide (l.src.scaling l.src.fmt = 1) && l.src.tr && decide (l.src.rank ≥ 2) && !l.dst.empty &&
    (l.dst.lcPieces l.mode).any (fun p => p.any (fun b => b.any (fun s =>
      match srcIndex l.src l.dst (l.dst.storage l.dst.tr s) with
      | some x => (l.src.req l.src.fmt 1 true x).isSome
      | none => false)))

/-- LAYOUT_COPY (R227 to R233). -/
def Dev.layoutCopy (d : Dev) (r : Nat) (y : Desc) (drops : Drops) : Dev × Option (St × List Byte) :=
  let a := d.loadTDesc y y.addr
  if a.2.1 ≠ stOk then (a.1, some (a.2.1, lcResult 0 none))
  else
    let b := a.1.loadTDesc y (y.at 0x18 8)
    if b.2.1 ≠ stOk then (b.1, some (b.2.1, lcResult 0 none))
    else
      let f := y.at 0x20 1
      let l : LCopy := ⟨a.2.2, b.2.2, f % 8, bit f 3, y.at 0x28 8, y.at 0x30 8, r, y, if y.target = 0xFF00 then none else some y.target⟩
      if l.dst.empty then (b.1, some (stOk, lcResult 0 none))
      else if l.scaleAxis then (b.1, some (stScaleAxis, lcResult 0 none))
      else
        let u := l.run ⟨b.1, stOk, 0, 0⟩ (l.dst.lcPieces l.mode) drops
        (u.1.dev, some (u.1.st, lcResult u.1.cnt u.2))

/-- LAYOUT_COPY (R228). -/
def execLayoutCopy (ring : Fin 64) (count : Word) (drops : Drops) (s : State) : Host.Outcome State Fault Refusal :=
  s.act (fun d => d.runDesc ring count 0x40 (fun d y => d.layoutCopy ring y drops))

end Sys2Proof.Machine
end

