-- ==== Sys2Proof/Machine/Dispatch.lean ====
section
/-! DEFINITION. The one match over the commands: each arm calls the meaning of its row of the opcode table. -/
namespace Sys2Proof.Machine

/-- The effect of a command on everything but the queue of commands. -/
def exec (i : Instr) (s : State) : Host.Outcome State Fault Refusal :=
  match i with
  | .instructionIssue core => Sys2Proof.Machine.execInstructionIssue core s
  | .instructionFinish core eng => Sys2Proof.Machine.execInstructionFinish core eng s
  | .icacheFill core off => Sys2Proof.Machine.execIcacheFill core off s
  | .coreFaultStop core => Sys2Proof.Machine.execCoreFaultStop core s
  | .coreStopCancel core => Sys2Proof.Machine.execCoreStopCancel core s
  | .sli core d imm => Sys2Proof.Machine.execSli core d imm s
  | .smov core d a => Sys2Proof.Machine.execSmov core d a s
  | .sadd core d a src => Sys2Proof.Machine.execSadd core d a src s
  | .ssub core d a src => Sys2Proof.Machine.execSsub core d a src s
  | .smul core d a src => Sys2Proof.Machine.execSmul core d a src s
  | .sand core d a src => Sys2Proof.Machine.execSand core d a src s
  | .sor core d a src => Sys2Proof.Machine.execSor core d a src s
  | .sxor core d a src => Sys2Proof.Machine.execSxor core d a src s
  | .sshl core d a src => Sys2Proof.Machine.execSshl core d a src s
  | .sshr core d a src => Sys2Proof.Machine.execSshr core d a src s
  | .ssra core d a src => Sys2Proof.Machine.execSsra core d a src s
  | .smin core d a src => Sys2Proof.Machine.execSmin core d a src s
  | .smax core d a src => Sys2Proof.Machine.execSmax core d a src s
  | .b core dist => Sys2Proof.Machine.execB core dist s
  | .beq core a b dist => Sys2Proof.Machine.execBeq core a b dist s
  | .bne core a b dist => Sys2Proof.Machine.execBne core a b dist s
  | .blt core a b dist => Sys2Proof.Machine.execBlt core a b dist s
  | .bge core a b dist => Sys2Proof.Machine.execBge core a b dist s
  | .bltu core a b dist => Sys2Proof.Machine.execBltu core a b dist s
  | .bgeu core a b dist => Sys2Proof.Machine.execBgeu core a b dist s
  | .loop core a bi imm => Sys2Proof.Machine.execLoop core a bi imm s
  | .pblk core a imm => Sys2Proof.Machine.execPblk core a imm s
  | .ptag core imm => Sys2Proof.Machine.execPtag core imm s
  | .cid core d => Sys2Proof.Machine.execCid core d s
  | .yield core => Sys2Proof.Machine.execYield core s
  | .endProg core => Sys2Proof.Machine.execEndProg core s
  | .drain core emask => Sys2Proof.Machine.execDrain core emask s
  | .waitw core sr a cmp imm => Sys2Proof.Machine.execWaitw core sr a cmp imm s
  | .flagr core sr => Sys2Proof.Machine.execFlagr core sr s
  | .flagc core sr => Sys2Proof.Machine.execFlagc core sr s
  | .engineDrainDone core => Sys2Proof.Machine.execEngineDrainDone core s
  | .waitwRelease core => Sys2Proof.Machine.execWaitwRelease core s
  | .mma core => Sys2Proof.Machine.execMma core s
  | .mxr core => Sys2Proof.Machine.execMxr core s
  | .mxs core => Sys2Proof.Machine.execMxs core s
  | .mxd core => Sys2Proof.Machine.execMxd core s
  | .mxset core => Sys2Proof.Machine.execMxset core s
  | .vAdd core => Sys2Proof.Machine.execVAdd core s
  | .vSub core => Sys2Proof.Machine.execVSub core s
  | .vMul core => Sys2Proof.Machine.execVMul core s
  | .vFma core => Sys2Proof.Machine.execVFma core s
  | .vMin core => Sys2Proof.Machine.execVMin core s
  | .vMax core => Sys2Proof.Machine.execVMax core s
  | .vAbs core => Sys2Proof.Machine.execVAbs core s
  | .vNeg core => Sys2Proof.Machine.execVNeg core s
  | .saturatingAdd core => Sys2Proof.Machine.execSaturatingAdd core s
  | .saturatingSub core => Sys2Proof.Machine.execSaturatingSub core s
  | .vAnd core => Sys2Proof.Machine.execVAnd core s
  | .vOr core => Sys2Proof.Machine.execVOr core s
  | .vXor core => Sys2Proof.Machine.execVXor core s
  | .shifts core => Sys2Proof.Machine.execShifts core s
  | .vCmp core => Sys2Proof.Machine.execVCmp core s
  | .vSel core => Sys2Proof.Machine.execVSel core s
  | .bcast core => Sys2Proof.Machine.execBcast core s
  | .mand core => Sys2Proof.Machine.execMand core s
  | .mor core => Sys2Proof.Machine.execMor core s
  | .mxor core => Sys2Proof.Machine.execMxor core s
  | .mnot core => Sys2Proof.Machine.execMnot core s
  | .mpop core => Sys2Proof.Machine.execMpop core s
  | .cvt core => Sys2Proof.Machine.execCvt core s
  | .rotb core => Sys2Proof.Machine.execRotb core s
  | .perm core => Sys2Proof.Machine.execPerm core s
  | .red core => Sys2Proof.Machine.execRed core s
  | .scan core => Sys2Proof.Machine.execScan core s
  | .scanLr core => Sys2Proof.Machine.execScanLr core s
  | .topk core => Sys2Proof.Machine.execTopk core s
  | .ld core => Sys2Proof.Machine.execLd core s
  | .st core => Sys2Proof.Machine.execSt core s
  | .ldq core => Sys2Proof.Machine.execLdq core s
  | .stq core => Sys2Proof.Machine.execStq core s
  | .stqs core => Sys2Proof.Machine.execStqs core s
  | .gath core => Sys2Proof.Machine.execGath core s
  | .scat core => Sys2Proof.Machine.execScat core s
  | .scadd core => Sys2Proof.Machine.execScadd core s
  | .xacc core => Sys2Proof.Machine.execXacc core s
  | .sfn core => Sys2Proof.Machine.execSfn core s
  | .gact core => Sys2Proof.Machine.execGact core s
  | .sfmp core => Sys2Proof.Machine.execSfmp core s
  | .sftl core => Sys2Proof.Machine.execSftl core s
  | .sfml core => Sys2Proof.Machine.execSfml core s
  | .sftb core => Sys2Proof.Machine.execSftb core s
  | .sfts core => Sys2Proof.Machine.execSfts core s
  | .sfmode core => Sys2Proof.Machine.execSfmode core s
  | .stagedBankWritten core => Sys2Proof.Machine.execStagedBankWritten core s
  | .sfuSwap core => Sys2Proof.Machine.execSfuSwap core s
  | .pewterChange core => Sys2Proof.Machine.execPewterChange core s
  | .rsq core => Sys2Proof.Machine.execRsq core s
  | .rsf core => Sys2Proof.Machine.execRsf core s
  | .rsx core => Sys2Proof.Machine.execRsx core s
  | .rsm core => Sys2Proof.Machine.execRsm core s
  | .rsmMerge core => Sys2Proof.Machine.execRsmMerge core s
  | .dmv core => Sys2Proof.Machine.execDmv core s
  | .transferComplete core q drops => Sys2Proof.Machine.execTransferComplete core q drops s
  | .collisionReissue dropped => Sys2Proof.Machine.execCollisionReissue dropped s
  | .sqTail port ring value => Sys2Proof.Machine.execSqTail port ring value s
  | .cqHead port ring value => Sys2Proof.Machine.execCqHead port ring value s
  | .descriptorFetch ring bytes => Sys2Proof.Machine.execDescriptorFetch ring bytes s
  | .descReadFail ring resp => Sys2Proof.Machine.execDescReadFail ring resp s
  | .descriptorFinish ring count => Sys2Proof.Machine.execDescriptorFinish ring count s
  | .completionPost ring => Sys2Proof.Machine.execCompletionPost ring s
  | .irqHoldoffEnd ring => Sys2Proof.Machine.execIrqHoldoffEnd ring s
  | .enable port ring => Sys2Proof.Machine.execEnable port ring s
  | .enableClear port ring => Sys2Proof.Machine.execEnableClear port ring s
  | .ringDrained ring => Sys2Proof.Machine.execRingDrained ring s
  | .heldEnableApplied ring => Sys2Proof.Machine.execHeldEnableApplied ring s
  | .resume port ring => Sys2Proof.Machine.execResume port ring s
  | .resumeApplied ring => Sys2Proof.Machine.execResumeApplied ring s
  | .nop ring count => Sys2Proof.Machine.execNop ring count s
  | .fence ring count => Sys2Proof.Machine.execFence ring count s
  | .fenceRelease ring count => Sys2Proof.Machine.execFenceRelease ring count s
  | .crossPortFlush ring count port resp => Sys2Proof.Machine.execCrossPortFlush ring count port resp s
  | .copy ring count drops => Sys2Proof.Machine.execCopy ring count drops s
  | .apoTranslate ring count drops => Sys2Proof.Machine.execApoTranslate ring count drops s
  | .codeLoad ring count => Sys2Proof.Machine.execCodeLoad ring count s
  | .coreRun ring count => Sys2Proof.Machine.execCoreRun ring count s
  | .coreStop ring count => Sys2Proof.Machine.execCoreStop ring count s
  | .stepReport ring count drops => Sys2Proof.Machine.execStepReport ring count drops s
  | .layoutCopy ring count drops => Sys2Proof.Machine.execLayoutCopy ring count drops s
  | .dispatch ring count drops => Sys2Proof.Machine.execDispatch ring count drops s
  | .combine ring count rows drops => Sys2Proof.Machine.execCombine ring count rows drops s
  | .phaseMap ring count => Sys2Proof.Machine.execPhaseMap ring count s
  | .keepRead ring count drops => Sys2Proof.Machine.execKeepRead ring count drops s
  | .keepWrite ring count abortAt => Sys2Proof.Machine.execKeepWrite ring count abortAt s
  | .pcRetire ring count => Sys2Proof.Machine.execPcRetire ring count s
  | .linkWrite ring count drops => Sys2Proof.Machine.execLinkWrite ring count drops s
  | .linkRead ring count drops => Sys2Proof.Machine.execLinkRead ring count drops s
  | .collective ring count drops => Sys2Proof.Machine.execCollective ring count drops s
  | .twinPair ring count => Sys2Proof.Machine.execTwinPair ring count s
  | .twinUnpair ring count => Sys2Proof.Machine.execTwinUnpair ring count s
  | .twinReg ring count => Sys2Proof.Machine.execTwinReg ring count s
  | .twinCommit ring count ans => Sys2Proof.Machine.execTwinCommit ring count ans s
  | .twinFill ring count ans => Sys2Proof.Machine.execTwinFill ring count ans s
  | .twinVerify ring count ans => Sys2Proof.Machine.execTwinVerify ring count ans s
  | .snapWrite ring count abortAt => Sys2Proof.Machine.execSnapWrite ring count abortAt s
  | .snapRead ring count => Sys2Proof.Machine.execSnapRead ring count s
  | .calWindow ring count meas abortAt => Sys2Proof.Machine.execCalWindow ring count meas abortAt s
  | .calHot ring count meas hot load step => Sys2Proof.Machine.execCalHot ring count meas hot load step s
  | .fwUpdate ring count fl upto => Sys2Proof.Machine.execFwUpdate ring count fl upto s
  | .fwActivate ring part => Sys2Proof.Machine.execFwActivate ring part s
  | .coreSpare ring count => Sys2Proof.Machine.execCoreSpare ring count s
  | .svnCommit ring count => Sys2Proof.Machine.execSvnCommit ring count s
  | .keyAdmin ring count => Sys2Proof.Machine.execKeyAdmin ring count s
  | .attest ring count drops => Sys2Proof.Machine.execAttest ring count drops s
  | .unknownOpcode ring count => Sys2Proof.Machine.execUnknownOpcode ring count s
  | .bar4Read port off len => Sys2Proof.Machine.execBar4Read port off len s
  | .bar4Write port off bytes => Sys2Proof.Machine.execBar4Write port off bytes s
  | .registerWrite port off size value => Sys2Proof.Machine.execRegisterWrite port off size value s
  | .perstAssertion port => Sys2Proof.Machine.execPerstAssertion port s
  | .perstDeassertion port speed width => Sys2Proof.Machine.execPerstDeassertion port speed width s
  | .d3hotEntry port => Sys2Proof.Machine.execD3hotEntry port s
  | .d0Return port => Sys2Proof.Machine.execD0Return port s
  | .pwrReqRetain port => Sys2Proof.Machine.execPwrReqRetain port s
  | .pwrReqSleep port => Sys2Proof.Machine.execPwrReqSleep port s
  | .pwrReqRun port => Sys2Proof.Machine.execPwrReqRun port s
  | .retainEntry => Sys2Proof.Machine.execRetainEntry s
  | .sleepDrainEnd => Sys2Proof.Machine.execSleepDrainEnd s
  | .kzWakeN => Sys2Proof.Machine.execKzWakeN s
  | .powerUp => Sys2Proof.Machine.execPowerUp s
  | .p3v3AuxLoss => Sys2Proof.Machine.execP3v3AuxLoss s
  | .overvoltage => Sys2Proof.Machine.execOvervoltage s
  | .refSelWrite port sel => Sys2Proof.Machine.execRefSelWrite port sel s
  | .referenceLoss => Sys2Proof.Machine.execReferenceLoss s
  | .referenceRelock => Sys2Proof.Machine.execReferenceRelock s
  | .multipleUpdate => Sys2Proof.Machine.execMultipleUpdate s
  | .diePowerMeasure die watts below => Sys2Proof.Machine.execDiePowerMeasure die watts below s
  | .thermalStep die celsius => Sys2Proof.Machine.execThermalStep die celsius s
  | .pwrWarnNAssert inputCv => Sys2Proof.Machine.execPwrWarnNAssert inputCv s
  | .pwrWarnNRelease => Sys2Proof.Machine.execPwrWarnNRelease s
  | .nvInhibitSet writing => Sys2Proof.Machine.execNvInhibitSet writing s
  | .nvInhibitClear => Sys2Proof.Machine.execNvInhibitClear s
  | .railRemoval => Sys2Proof.Machine.execRailRemoval s
  | .thermalTrip sensor celsius => Sys2Proof.Machine.execThermalTrip sensor celsius s
  | .guardbandUpdate input => Sys2Proof.Machine.execGuardbandUpdate input s
  | .retrimDueCheck item periods moved => Sys2Proof.Machine.execRetrimDueCheck item periods moved s
  | .holdbackRelease src dest dropped => Sys2Proof.Machine.execHoldbackRelease src dest dropped s
  | .bgtIngotRegion slice fails => Sys2Proof.Machine.execBgtIngotRegion slice fails s
  | .bgtLsRegion core region fails => Sys2Proof.Machine.execBgtLsRegion core region fails s
  | .lsRetentionEntry core => Sys2Proof.Machine.execLsRetentionEntry core s
  | .scrubRead line => Sys2Proof.Machine.execScrubRead line s
  | .pcFailed pc cause => Sys2Proof.Machine.execPcFailed pc cause s
  | .rebuildSweep twin => Sys2Proof.Machine.execRebuildSweep twin s
  | .farFail pkg => Sys2Proof.Machine.execFarFail pkg s
  | .repairRecordCommit => Sys2Proof.Machine.execRepairRecordCommit s
  | .linkTraining link res => Sys2Proof.Machine.execLinkTraining link res s
  | .trainingRetry link => Sys2Proof.Machine.execTrainingRetry link s
  | .autoRetrain link => Sys2Proof.Machine.execAutoRetrain link s
  | .flitReceive link flit => Sys2Proof.Machine.execFlitReceive link flit s
  | .flitSend link => Sys2Proof.Machine.execFlitSend link s
  | .replayTimer link => Sys2Proof.Machine.execReplayTimer link s
  | .linkLoss link cause => Sys2Proof.Machine.execLinkLoss link cause s
  | .retrain port link => Sys2Proof.Machine.execRetrain port link s
  | .portEn port link on => Sys2Proof.Machine.execPortEn port link on s
  | .pktWrite drops => Sys2Proof.Machine.execPktWrite drops s
  | .pktWriteAck => Sys2Proof.Machine.execPktWriteAck s
  | .pktReadReq => Sys2Proof.Machine.execPktReadReq s
  | .pktReadResp drops => Sys2Proof.Machine.execPktReadResp drops s
  | .pktColl drops => Sys2Proof.Machine.execPktColl drops s
  | .pktReady => Sys2Proof.Machine.execPktReady s
  | .packetForward => Sys2Proof.Machine.execPacketForward s
  | .ackTimeout tag => Sys2Proof.Machine.execAckTimeout tag s
  | .readyResend collId => Sys2Proof.Machine.execReadyResend collId s
  | .collTimeout collId => Sys2Proof.Machine.execCollTimeout collId s
  | .heartbeat ans => Sys2Proof.Machine.execHeartbeat ans s
  | .pairingTimeout ans => Sys2Proof.Machine.execPairingTimeout ans s
  | .recordCommit => Sys2Proof.Machine.execRecordCommit s
  | .evtHoldoffEnd => Sys2Proof.Machine.execEvtHoldoffEnd s
  | .opTimeSave => Sys2Proof.Machine.execOpTimeSave s
  | .hostCursor port value => Sys2Proof.Machine.execHostCursor port value s
  | .winReady sideband => Sys2Proof.Machine.execWinReady sideband s
  | .sbOffset value pec => Sys2Proof.Machine.execSbOffset value pec s
  | .sbRead => Sys2Proof.Machine.execSbRead s
  | .sbCursor value pec => Sys2Proof.Machine.execSbCursor value pec s
  | .alertResponseAddress => Sys2Proof.Machine.execAlertResponseAddress s
  | .recGo run => Sys2Proof.Machine.execRecGo run s
  | .recoverNext port on => Sys2Proof.Machine.execRecoverNext port on s
  | .referenceArrival ref => Sys2Proof.Machine.execReferenceArrival ref s
  | .otherReferenceLoss => Sys2Proof.Machine.execOtherReferenceLoss s
  | .pcieLinkDown port => Sys2Proof.Machine.execPcieLinkDown port s
  | .coreClockGated core => Sys2Proof.Machine.execCoreClockGated core s
  | .fillServe genSel => Sys2Proof.Machine.execFillServe genSel s
  | .lowWordRead port place size => Sys2Proof.Machine.execLowWordRead port place size s
  | .p3v3AuxRestore => Sys2Proof.Machine.execP3v3AuxRestore s
  | .msixUnmask port vector => Sys2Proof.Machine.execMsixUnmask port vector s

end Sys2Proof.Machine
end

