-- ==== Sys2Proof/Safety.lean ====
section
/-! DEFINITION. What counts as a safe state and a safe step, and the values that the spec's rules give, in the terms the statements
use. -/
namespace Sys2Proof.Machine
open Sys2Proof

/-- A step that goes on: the outcome is a next state. -/
def Completes (o : Host.Outcome State Fault Refusal) : Prop := ∃ t, o = .next t

/-- The canonical form of the memories: addresses strictly rising, no byte equal to what an unlisted one reads as. -/
def Mem.wf (m : Mem) : Bool := Tab.wf m.bytes 0 && Tab.wf m.keep 0

/-- The canonical form of the hosts' memories. -/
def Env.wf (e : Env) : Bool := Tab.wf e.memA 0 && Tab.wf e.memB 0

/-- Fuses that only ever go from `f` to `g`: the version counter does not fall, no revoked vendor slot comes back (R497, R499). -/
def Fuses.grewTo (f g : Fuses) : Prop := f.svnCounter ≤ g.svnCounter ∧ (∀ v, v ∈ f.vendorRevoked → v ∈ g.vendorRevoked)

/-- The state with core `n` put in place of what stood there, and everything else as it was. -/
def State.withCore (s : State) (n : Nat) (c : Core) : State := { s with dev := s.dev.setCore n c }

/-! ### Control instructions (R186 to R188) -/

/-- The front end of core `n` can issue: RUNNING, no sync instruction waited for, issue not stopped, fewer than 48 claiming
instructions in its scoreboard (R181, R189, R196, R199, R200). -/
def CanIssue (s : State) (n : Nat) : Prop :=
  (s.dev.core n).status = .running ∧ (s.dev.core n).wait = none ∧ (s.dev.core n).halt = none ∧
    ((s.dev.core n).queue.filter (fun y => y.instr.touchesLs)).length < 48

/-- A control instruction as R186's fields: its core, operation, D, A, B, BI and IMM32. -/
structure CtrlForm where
  core : Fin 96
  op   : CtrlOp
  d    : BitVec 6
  a    : BitVec 6
  b    : BitVec 6
  bi   : Bool
  imm  : Word

/-- The control instruction of a command whose second operand is a register or IMM32. -/
def aluForm (n : Fin 96) (op : CtrlOp) (d a : BitVec 6) (x : Src) : CtrlForm :=
  match x with
  | .reg k => ⟨n, op, d, a, k, false, 0⟩
  | .imm v => ⟨n, op, d, a, 0, true, v⟩

/-- The scalar instructions that write D, and the value D takes from A's and the second operand's values (R186). -/
def scalarForm (i : Instr) : Option (CtrlForm × (Word → Word → Word)) :=
  match i with
  | .sli n d imm => some (⟨n, .sli, d, 0, 0, false, imm⟩, fun _ _ => imm)
  | .smov n d a => some (⟨n, .smov, d, a, 0, false, 0⟩, fun x _ => x)
  | .sadd n d a x => some (aluForm n .sadd d a x, fun x y => BitVec.ofNat 32 (x.toNat + y.toNat))
  | .ssub n d a x => some (aluForm n .ssub d a x, fun x y => BitVec.ofInt 32 (x.toInt - y.toInt))
  | .smul n d a x => some (aluForm n .smul d a x, fun x y => BitVec.ofNat 32 (x.toNat * y.toNat % 2 ^ 32))
  | .sand n d a x => some (aluForm n .sand d a x, fun x y => BitVec.ofNat 32 (x.toNat &&& y.toNat))
  | .sor n d a x => some (aluForm n .sor d a x, fun x y => BitVec.ofNat 32 (x.toNat ||| y.toNat))
  | .sxor n d a x => some (aluForm n .sxor d a x, fun x y => BitVec.ofNat 32 (x.toNat ^^^ y.toNat))
  | .sshl n d a x => some (aluForm n .sshl d a x, fun x y => BitVec.ofNat 32 (x.toNat * 2 ^ (y.toNat % 32)))
  | .sshr n d a x => some (aluForm n .sshr d a x, fun x y => BitVec.ofNat 32 (x.toNat / 2 ^ (y.toNat % 32)))
  | .ssra n d a x => some (aluForm n .ssra d a x, fun x y => BitVec.ofInt 32 (x.toInt / 2 ^ (y.toNat % 32)))
  | .smin n d a x => some (aluForm n .smin d a x, fun x y => BitVec.ofInt 32 (min x.toInt y.toInt))
  | .smax n d a x => some (aluForm n .smax d a x, fun x y => BitVec.ofInt 32 (max x.toInt y.toInt))
  | .cid n d => some (⟨n, .cid, d, 0, 0, false, 0⟩, fun _ _ => BitVec.ofNat 32 n.val)
  | _ => none

/-- The branches, and whether each is taken, from A's and the second operand's values (R186): BI is 1 where B is not named. -/
def branchForm (i : Instr) : Option (CtrlForm × (Word → Word → Bool)) :=
  match i with
  | .b n dist => some (⟨n, .b, 0, 0, 0, false, dist⟩, fun _ _ => true)
  | .beq n a b dist => some (⟨n, .beq, 0, a, b.getD 0, b.isNone, dist⟩, fun x y => decide (x = y))
  | .bne n a b dist => some (⟨n, .bne, 0, a, b.getD 0, b.isNone, dist⟩, fun x y => decide (x ≠ y))
  | .blt n a b dist => some (⟨n, .blt, 0, a, b.getD 0, b.isNone, dist⟩, fun x y => decide (x.toInt < y.toInt))
  | .bge n a b dist => some (⟨n, .bge, 0, a, b.getD 0, b.isNone, dist⟩, fun x y => decide (y.toInt ≤ x.toInt))
  | .bltu n a b dist => some (⟨n, .bltu, 0, a, b.getD 0, b.isNone, dist⟩, fun x y => decide (x.toNat < y.toNat))
  | .bgeu n a b dist => some (⟨n, .bgeu, 0, a, b.getD 0, b.isNone, dist⟩, fun x y => decide (y.toNat ≤ x.toNat))
  | _ => none

/-- LOOP, PBLK and PTAG as R186's fields. -/
def blockForm (i : Instr) : Option CtrlForm :=
  match i with
  | .loop n a bi imm => some ⟨n, .loop, 0, a, 0, bi, imm⟩
  | .pblk n a imm => some ⟨n, .pblk, 0, a, 0, false, imm⟩
  | .ptag n imm => some ⟨n, .ptag, 0, 0, 0, false, imm⟩
  | _ => none

/-- The second operand: IMM32 where BI is 1, else B (R186). -/
def CtrlForm.second (f : CtrlForm) (c : Core) : Word := if f.bi then f.imm else c.rdCode f.b

/-- The instruction's registers are ready (R179), and every register code that it reads or writes names a register (R184, R186). -/
def CtrlForm.ok (f : CtrlForm) (c : Core) : Prop :=
  ctrlLegal f.op f.d f.a f.b f.bi = true ∧ c.ready (.ctrl f.op f.d f.a f.b f.bi f.imm) = true

/-- The state that a BAD_OPCODE or another fault of the front end leaves: issue stopped at the present instruction, nothing else
changed (R199). -/
def State.frontStop (s : State) (n : Nat) (st : St) : State :=
  s.withCore n { s.dev.core n with halt := some ⟨1, st, (s.dev.core n).pc⟩ }

/-! ### Sync instructions, issue, ends (R176 to R202) -/

/-- Whether a word compares to a value as CMP names (R189). -/
def CmpSays (cmp : BitVec 3) (w v : Word) : Prop :=
  (cmp = 0 ∧ w = v) ∨ (cmp = 1 ∧ w ≠ v) ∨ (cmp = 2 ∧ v.toNat ≤ w.toNat) ∨ (cmp = 3 ∧ v.toInt ≤ w.toInt)

/-- A granule of a local store that reads without an error (R256). -/
def Dev.cleanAt (d : Dev) (u : Nat) : Prop := u ∉ d.mem.poison ∧ u ∉ d.mem.latentU ∧ u ∉ d.mem.latentC

/-- The core after an instruction that goes on in order (R187). -/
def Core.onward (c : Core) : Core := { c with pc := (loopBack (c.pc + 8) c.loops).1, loops := (loopBack (c.pc + 8) c.loops).2 }

/-- Nothing but core `n` differs. -/
def OnlyCore (s t : State) (n : Nat) : Prop :=
  t = { s with dev := { s.dev with cores := t.dev.cores } } ∧ ∀ m, m ≠ n → t.dev.core m = s.dev.core m

/-- Every engine that EMASK names has finished (R189): bits 0 to 5 are MXA, VXA, VXM, SFU, RSU, DMV. -/
def Core.Quiet (c : Core) (emask : BitVec 6) : Prop :=
  ∀ e ∈ c.queue, ∀ k, [Eng.mxa, .vxa, .vxm, .sfu, .rsu, .dmv][k]? = some e.eng → emask.getLsbD k = false

/-- A sync instruction that waits for engines, as the front end holds it: what it waits for, the engines, and the
registers it uses (R189). -/
def drainForm (i : Instr) (c : Core) : Option (Fin 96 × FrontWait × BitVec 6 × CoreInstr) :=
  match i with
  | .drain n m => some (n, .drain m, m, .sync .drain 0 0 0 0 0)
  | .flagr n s => some (n, .flagr s, 0x3F, .sync .flagr s 0 0 0 0)
  | .flagc n s => some (n, .flagc (c.sreg s.toNat), 0x3F, .sync .flagc s 0 0 0 0)
  | _ => none

/-- The core after DRAIN, FLAGR or FLAGC has found its engines quiet (R189). -/
def afterDrain (w : FrontWait) (c : Core) : Core :=
  match w with
  | .flagr s => { (c.setS s.toNat c.cflags).onward with wait := none }
  | .flagc v => { c.onward with wait := none, cflags := c.cflags &&& ~~~v }
  | _ => { c.onward with wait := none }

/-- How a run that ends at core `n` is told to its CORE_RUN, where one started it (R198). -/
def Core.runEnd (c : Core) (n reason : Nat) (st : St) (pc : Nat) : List RunRes :=
  match c.run with
  | some (r, k) => [⟨r, k, n, reason, st, pc, none⟩]
  | none => []

/-! ### Engine instructions (R178, R179, R195) -/

/-- `e` is the next instruction that engine `eng` of the RUNNING core `n` starts, and the scoreboard releases it (R178, R179). -/
def AtHead (s : State) (n : Nat) (eng : Eng) (e : QEntry) : Prop :=
  (s.dev.core n).status = .running ∧ (s.dev.core n).head eng = some e ∧ s.dev.released n e = true

/-- The queue once entry `e` has had its effect, with the flags it will set when it finishes. -/
def queueAfter (c : Core) (e : QEntry) (fl : Nat) : List QEntry :=
  c.queue.map (fun y => if y.seq = e.seq then { e with started := true, ran := true, flags := BitVec.ofNat 32 fl } else y)

/-- What the sixteen elementwise rows compute for element `j` from their core, by operation (R120 to R125): the value and the flags;
none for a type that the operation is not given for. -/
def elemForm (i : Instr) (o : VxaOp) (f : VecF) : Option (Fin 96 × (Core → Nat → Option (Nat × Nat))) :=
  let ty := f.ty.toNat
  let a (c : Core) (j : Nat) := c.elem f.va.toNat ty j
  let b (c : Core) (j : Nat) := c.src2 f ty j
  let two (n : Fin 96) : Option (Fin 96 × (Core → Nat → Option (Nat × Nat))) := some (n, fun c j => elemOp2 o ty (a c j) (b c j))
  match i, o with
  | .vAdd n, .add => two n
  | .vSub n, .sub => two n
  | .vMul n, .mul => two n
  | .vMin n, .min => two n
  | .vMax n, .max => two n
  | .saturatingAdd n, .satAdd => two n
  | .saturatingSub n, .satSub => two n
  | .vAnd n, .and => two n
  | .vOr n, .or => two n
  | .vXor n, .xor => two n
  | .shifts n, .shl => two n
  | .shifts n, .shrL => two n
  | .shifts n, .shrA => two n
  | .vFma n, .fma => some (n, fun c j => elemFma ty (a c j) (b c j) (c.elem f.vc.toNat ty j))
  | .vAbs n, .abs => some (n, fun c j => elemOp1 .abs ty (a c j))
  | .vNeg n, .neg => some (n, fun c j => elemOp1 .neg ty (a c j))
  | .vSel n, .sel => some (n, fun c j => some (if (c.mreg f.vc.toNat).getLsbD j then a c j else b c j, 0))
  | .bcast n, .bcast => some (n, fun c _ => some (c.scalarElem f.vb.toNat ty, 0))
  | _, _ => none

/-- The mask rows, and the bit for position `j` (R120, R123): the bit and the flags. -/
def maskForm (i : Instr) (o : VxaOp) (f : VecF) : Option (Fin 96 × (Core → Nat → Bool × Nat)) :=
  let ma (c : Core) (j : Nat) := (c.mreg f.va.toNat).getLsbD j
  let mb (c : Core) (j : Nat) := (c.mreg f.vb.toNat).getLsbD j
  match i, o with
  | .vCmp n, .cmp => some (n, fun c j =>
      elemCmp f.ty.toNat (f.sub.toNat % 8) (c.elem f.va.toNat f.ty.toNat j) (c.src2 f f.ty.toNat j))
  | .mand n, .mand => some (n, fun c j => (ma c j && mb c j, 0))
  | .mor n, .mor => some (n, fun c j => (ma c j || mb c j, 0))
  | .mxor n, .mxor => some (n, fun c j => (ma c j ^^ mb c j, 0))
  | .mnot n, .mnot => some (n, fun c j => (!ma c j, 0))
  | _, _ => none

/-- The value that element `j` of the destination holds afterwards: the new one where it is active, 0 where it is not and the
instruction zeroes, else what it held (R117, R118). -/
def written {α : Type} (c : Core) (f : VecF) (vl j : Nat) (new zero old : α) : α :=
  if j < vl then (if c.on f j then new else if f.mz then zero else old) else old

/-- The node at level `l`, position `k` of R135's tree: position 2k of the level below combines with position 2k + 1. -/
def redNode (op : Nat → Nat → Nat × Nat) (x : Nat → Nat × Nat) (l k : Nat) : Nat × Nat :=
  match l with
  | 0 => x k
  | m + 1 =>
    let a := redNode op x m (2 * k)
    let b := redNode op x m (2 * k + 1)
    ((op a.1 b.1).1, a.2 ||| b.2 ||| (op a.1 b.1).2)

/-- Element `i` of a scan after `k` levels of R137's code, with its flag g: at level k the distance is 2^k. -/
def scanNode {α : Type} (op : α → α → α) (x : Nat → α) (f : Nat → Bool) (k i : Nat) : α × Bool :=
  match k with
  | 0 => (x i, f i)
  | m + 1 =>
    let y := scanNode op x f m i
    if i < 2 ^ m then y
    else
      let z := scanNode op x f m (i - 2 ^ m)
      (if y.2 then y.1 else op z.1 y.1, y.2 || z.2)

/-- The inclusive result at element `i`: the carry enters where no segment has started (R137). -/
def scanResult {α : Type} (op : α → α → α) (carryOp : α → α) (x : Nat → α) (f : Nat → Bool) (i : Nat) : α :=
  let y := scanNode op x f 10 i
  if y.2 then y.1 else carryOp y.1

/-- Candidate `a` of a TOPK segment ranks before `b` (R300): the larger value, +0 above −0, then the lower offset. -/
def topBefore (a b : Nat × FVal) : Bool :=
  a.2.cmp b.2 == some 1 || (a.2.cmp b.2 == some 0 && ((b.2.isNeg && !a.2.isNeg) || (a.2.isNeg == b.2.isNeg && decide (a.1 < b.1))))

/-! ### Accesses of a core to its local store (R126 to R149) -/

/-- Core `n`'s local store is present, is not retained and reads without an error anywhere (R256, R262). -/
def CleanLs (s : State) (n : Nat) : Prop :=
  s.dev.present n = true ∧ (s.dev.core n).retained = false ∧
    (∀ u, lsAddr n ≤ u → u < lsAddr n + 0x800000 → s.dev.cleanAt u)

/-- The number at byte offset `off` of core `n`'s local store, `len` bytes, little-endian. -/
def lsNum (d : Dev) (n off len : Nat) : Nat := leNat (d.peek (lsAddr n + off) len)

/-- The pieces of the local store, as offset and length, that a VXE memory instruction touches (R126 to R133, R140, R148). -/
def vxmReach (o : VxmOp) (f : MemF) (c : Core) : List (Nat × Nat) :=
  let ty := f.ty.toNat
  let w := tyBits ty / 8
  let vl := c.vlMem f (tyCount ty)
  let line := c.memAddr f 64 / 64 * 64
  let rows := min 32 (c.sreg (f.sq + 5)).toNat
  let k := (c.sreg f.vr.toNat).toNat
  match o with
  | .ld => (c.actives f vl).map (fun j => (line + w * j, w))
  | .st => (c.actives f vl).map (fun j => (line + w * j, w))
  | .gath => (hitsOf (c.targets f vl)).map (fun h => (h.2, f.size))
  | .scat => (hitsOf (c.targets f vl)).map (fun h => (h.2, f.size))
  | .scadd => (hitsOf (c.targets f vl)).map (fun h => (h.2, f.size))
  | .ldq => (c.actives f vl).flatMap (fun j =>
      let l := rowLoc f.fmt (c.areg f.a.toNat).toNat j
      (l.addr, l.n) :: (if !f.sub.getLsbD 0 && isScaled f.fmt then
        [((c.areg f.scaleA).toNat + j / 32, 1)] else []))
  | .stq => if vl = 0 then [] else (c.stqPuts f vl).1.map (fun p => (p.loc.addr, p.loc.n))
  | .stqs => if vl = 0 ∨ rows = 0 then [] else (c.stqsPuts f vl rows).1.map (fun p => (p.loc.addr, p.loc.n))
  | .xacc => if k = 0 then [] else
      [((c.sreg (f.vr.toNat + 1)).toNat, 80 * k), ((c.sreg (f.vr.toNat + 2)).toNat, 80 * k), (c.memAddr f 64, 80 * k)]
  | _ => []

/-- The command of a VXE memory operation that addresses data. -/
def vxmRow (o : VxmOp) (n : Fin 96) : Option Instr :=
  match o with
  | .ld => some (.ld n)
  | .st => some (.st n)
  | .ldq => some (.ldq n)
  | .stq => some (.stq n)
  | .stqs => some (.stqs n)
  | .gath => some (.gath n)
  | .scat => some (.scat n)
  | .scadd => some (.scadd n)
  | .xacc => some (.xacc n)
  | _ => none

/-- The core that an engine's fault leaves: issue stopped with the status at the instruction, it and the later instructions of its
queue discarded, no register changed (R199). -/
def faultCore (c : Core) (e : QEntry) (st : St) : Core :=
  { c with
    halt := some ⟨1, st, e.pc⟩
    wait := none
    queue := c.queue.filter (fun y => !(y.eng == e.eng && decide (e.seq ≤ y.seq))) }

/-- The elements that ST, STQ and STQS write, and their flags (R127, R129, R132, R133). -/
def storePuts (o : VxmOp) (f : MemF) (c : Core) : List EPut × Nat :=
  let ty := f.ty.toNat
  let w := tyBits ty / 8
  let vl := c.vlMem f (tyCount ty)
  let a := c.memAddr f 64
  let rows := min 32 (c.sreg (f.sq + 5)).toNat
  match o with
  | .st => ((c.actives f vl).map (fun j => ⟨⟨a / 64 * 64 + w * j, w, 0, 8 * w⟩, c.elem f.vr.toNat ty j, elemFinite ty (c.elem f.vr.toNat ty j)⟩),
      if vl = 0 ∨ a % 64 = 0 then 0 else flagAlign)
  | .stq => if vl = 0 then ([], 0) else c.stqPuts f vl
  | .stqs => if vl = 0 ∨ rows = 0 then ([], 0) else c.stqsPuts f vl rows
  | _ => ([], 0)

/-- Two elements share no bit. -/
def EPut.apart (p q : EPut) : Prop :=
  8 * p.loc.addr + p.loc.lo + p.loc.w ≤ 8 * q.loc.addr + q.loc.lo ∨ 8 * q.loc.addr + q.loc.lo + q.loc.w ≤ 8 * p.loc.addr + p.loc.lo

/-- Address `a` lies in an element's bytes, in core `n`'s local store. -/
def EPut.covers (p : EPut) (n a : Nat) : Prop := lsAddr n + p.loc.addr ≤ a ∧ a < lsAddr n + p.loc.addr + p.loc.n

/-- The state after an instruction that only writes the local store: its bytes and finiteness bits, and the queue. -/
def State.stored (s : State) (n : Nat) (e : QEntry) (fl : Nat) (bytes : List Host.Cell) (fin : NatSet) : State :=
  { s with dev := { s.dev.setCore n { s.dev.core n with queue := queueAfter (s.dev.core n) e fl } with
    mem := { s.dev.mem with bytes := bytes, finite := fin } } }

/-! ### The matrix array (R76 to R110) -/

/-- The 16 bits of EW, and the set that an MMA accumulates onto: a cleared one under its own tag where it clears or retags, else the set
as it stands (R79, R82, R85). -/
def mmaBase (c : Core) (f : MmaF) : AccSet :=
  let t := c.accSet f.acc.toNat
  if f.clear = true ∨ t.tag ≠ f.tag then AccSet.cleared f.tag c.ew else t

/-- What an MXR writes and the flags it sets, given its epilogue's operands: each row's outputs after the epilogue's arithmetic, as
ordinary MX blocks where a float set meets a scaled destination, else element by element (R107 to R109). -/
def mxrWrites (c : Core) (f : MxrF) (x : Epi) : List EPut × Nat :=
  let t := c.accSet f.acc.toNat
  let dd := c.slotDesc f.dd.toNat
  let outs (i : Nat) := (List.range t.tag.cols).map (fun j => x.apply (t.value ((c.mxrRows f).1 + i) j) i j)
  let row (i : Nat) : List EPut × Nat :=
    if t.tag.cls = .lp ∧ t.tag.int = false ∧ dd.scaling dd.fmt ≠ 0 ∧ dd.fmt < 5 then
      mxRow dd f.rm.toNat (c.spair f.sseed.toNat) f.sat ((c.mxrRows f).1 + i) ((outs i).map (·.1))
    else plainRow dd t.tag.cls f.rm.toNat (c.spair f.sseed.toNat) f.sat ((c.mxrRows f).1 + i) ((outs i).map (·.1))
  ((List.range (c.mxrRows f).2).flatMap (fun i => (row i).1),
    (List.range (c.mxrRows f).2).foldl (fun a i => a ||| (outs i).foldl (fun b v => b ||| v.2) (row i).2) 0)

/-! ### The special-function unit and the row statistics (R150 to R175) -/

/-- The canonical NaN of a TYPE, with flags. -/
def nanWith (ty flags : Nat) : Nat × Nat := ((tyFmt ty).nanBits, flags)

/-- What R153, R154, R157 and R164 fix of the result `r`, an encoding with its flags, of function code `fn` applied to `x`: a NaN for a NaN;
the codes without a table; the reserved codes; an empty slot; RCP and SQRT of a built-in image correctly rounded; the results at
infinities and zeros; elsewhere one of the results that the accuracy leaves possible; and a user image as R157 to R159 compute it. -/
def fnSays (c : Core) (fn ty x : Nat) (r : Nat × Nat) : Prop :=
  let v := fVal ty x
  let fixed := c.pewter = true ∧ fn < 0x10
  let slot := (fnSlot fn).getD 16
  let here (o : Origin) : Prop := slot < 16 ∧ ¬ fixed ∧ (c.live slot).origin = o
  (v = .nan → r.1 = (tyFmt ty).nanBits ∧ r.2.testBit 0 = true) ∧
  (v ≠ .nan → fn = 0x20 → r = fOp ty (if v.isNeg then .zero else v)) ∧
  (v ≠ .nan → fn = 0x21 → r = fOp ty v) ∧
  (v ≠ .nan → fn = 0x22 → r = fOp ty (if v.isNeg then FVal.zero.mul .zero else v.mul v)) ∧
  (0x23 ≤ fn → r = nanWith ty 1) ∧
  (v ≠ .nan → here .empty → r = nanWith ty 128) ∧
  (v ≠ .nan → here .user → ∃ ver, r = (tableApply (c.live slot).image ty x).finish ver fn ty x) ∧
  (v ≠ .nan → here .builtin →
    (fn < 0x10 → ∀ w, builtinOut fn v = .near w → r.1 ∈ candsOf ty (sharpFn fn w) w) ∧
    (fn = 4 → r = fOp ty ((fOne false).div v)) ∧
    (fn = 6 → r = fOp ty v.sqrt) ∧
    (fn ∈ [0, 1, 10] → v = .inf true → r = fOp ty .zero) ∧
    (fn ∈ [0, 1, 2, 3, 11, 12, 13, 15] → v = .inf false → r = fOp ty (.inf false)) ∧
    (fn ∈ [2, 3, 5] → (∃ m e, v = .fin true m e ∧ m ≠ 0) ∨ v = .inf true → r = nanWith ty 1) ∧
    (fn ∈ [2, 3] → (∃ n e, v = .fin n 0 e) → r = fOp ty (.inf true)) ∧
    (fn = 5 → ∀ n e, v = .fin n 0 e → r = fOp ty (.inf n)) ∧
    (fn ∈ [7, 8] → (∃ n, v = .inf n) → r = nanWith ty 1) ∧
    (fn ∈ [7, 9, 14] → ∀ n e, v = .fin n 0 e → r = fOp ty (.fin n 0 0)) ∧
    (fn ∈ [9, 14] → ∀ n, v = .inf n → r = fOp ty (fOne n)) ∧
    (fn ∈ [11, 12, 13] → v = .inf true → r = fOp ty (.fin true 0 0)) ∧
    (fn = 8 → (∃ n e, v = .fin n 0 e) → r = fOp ty (fOne false)) ∧
    (fn = 10 → v = .inf false → r = fOp ty (fOne false)) ∧
    (fn = 15 → v = .inf true → r = fOp ty .zero))

/-- What R165 fixes of the result of GACT on `g` and `u`. -/
def gactSays (fn ty g u : Nat) (r : Nat × Nat) : Prop :=
  let a := fVal ty g
  let b := fVal ty u
  (a = .nan ∨ b = .nan → r.1 = (tyFmt ty).nanBits ∧ r.2.testBit 0 = true) ∧
  (a ≠ .nan → fn = 0x20 → r = fOp ty ((if a.isNeg then FVal.zero else a).mul b)) ∧
  (a ≠ .nan → fn = 0x21 → r = fOp ty (a.mul b))

/-- The queue with entry `e` started and its effect not yet whole. -/
def queueStarted (c : Core) (e : QEntry) (fl : Nat) : List QEntry :=
  c.queue.map (fun y => if y.seq = e.seq then { e with started := true, ran := false, flags := BitVec.ofNat 32 fl } else y)

/-- A staging may land: no earlier staging of its slot is still to land, begun or not, and of its own instruction no lower slot (R162). -/
def CanLand (c : Core) (g : Staging) : Prop :=
  (∀ h ∈ c.staging, ¬ (h.seq < g.seq ∧ h.slot = g.slot) ∧ ¬ (h.seq = g.seq ∧ h.slot < g.slot)) ∧
    (∀ y ∈ c.queue, y.seq < g.seq → y.started = false → c.stagesTo y [g.slot] = false)

/-- Bit `t` of the mask of an SFTB or SFTS. -/
def Core.names (c : Core) (f : VecF) (t : Nat) : Bool := (c.sreg f.va.toNat).getLsbD t

/-- Chain `i` of SUMSQ. -/
def RowAcc.sq (a : RowAcc) (i : Nat) : BitVec 64 := match i with | 0 => a.q0 | 1 => a.q1 | 2 => a.q2 | _ => a.q3
/-- Chain `i` of SUM. -/
def RowAcc.sm (a : RowAcc) (i : Nat) : BitVec 64 := match i with | 0 => a.s0 | 1 => a.s1 | 2 => a.s2 | _ => a.s3

/-- The FP64 sum of two encodings, rounded to nearest even. -/
def plus64 (a b : Nat) : Nat := (fOp 3 ((fVal 3 a).add (fVal 3 b))).1

/-- (c0 + c1) + (c2 + c3) of four chains (R172). -/
def folded (ch : Nat → BitVec 64) : Nat := plus64 (plus64 (ch 0).toNat (ch 1).toNat) (plus64 (ch 2).toNat (ch 3).toNat)

/-- A folded sum over COUNT; +0 where COUNT is 0 (R172, R173). -/
def overCount (s : Nat) (count : Word) : Nat := if count = 0 then 0 else (fOp 3 ((fVal 3 s).div (FVal.ofInt count.toNat))).1

/-- The statistic OP of a row, before its rounding to the output type: RRMS, RMS, MEANSQ, MEAN (R172). -/
def rowStat (a : RowAcc) (op : Nat) (eps : Word) : FVal :=
  let meansq := overCount (folded a.sq) a.count
  let v := fVal 3 (fOp 3 ((fVal 3 meansq).add (f32 eps))).1
  if op = 3 then fVal 3 (overCount (folded a.sm) a.count)
  else if op = 2 then fVal 3 meansq
  else if v.cmp .zero = some (-1) then .nan
  else if op = 1 then v.sqrt
  else ((fOne false).div v).sqrt

/-- How many rows r0 to min(r1, r0 + 31) are (R172). -/
def rowsRead (r0 r1 : Word) : Nat := min r1.toNat (r0.toNat + 31) + 1 - r0.toNat

/-- Row `r`'s partial record as RSX writes it (R174). -/
def recordOf (a : RowAcc) (r : Nat) : List Byte :=
  leBytes 8 (folded a.sq) ++ leBytes 8 (folded a.sm) ++ leBytes 4 a.count.toNat ++ leBytes 1 (r % 32) ++ leBytes 10 0 ++ leBytes 1 1

/-- A row with one partial record merged in (R175). -/
def mergedRow (a : RowAcc) (rec_ : List Byte) : RowAcc :=
  ⟨BitVec.ofNat 64 (plus64 (folded a.sq) (field rec_ 0 8)), 0, 0, 0, BitVec.ofNat 64 (plus64 (folded a.sm) (field rec_ 8 8)), 0, 0, 0,
    BitVec.ofNat 32 (min (a.count.toNat + field rec_ 0x10 4) (2 ^ 32 - 1)), 1⟩

/-! ### Transfers, background tests, repair (R252 to R298) -/

/-- The core after transfer `x`, the oldest of its queue, has finished or stopped: the others stay, and its instruction has had its
effect when no other of its transfers is left (R259). -/
def afterXfer (c : Core) (x : Xfer) (rest : List Xfer) : Core :=
  { c with
    xfers := rest
    queue := if rest.any (fun z => z.seq == x.seq) then c.queue
      else c.queue.map (fun y => if y.seq = x.seq then { y with ran := true } else y) }

/-- The first byte of row `r` of one side of a transfer (R257). -/
def XferD.rowAt (t : XferD) (base stride r : Nat) : Int := (base : Int) + (if t.kind = 2 then signed 64 stride * r else 0)

/-- `len` bytes from a flat address on lie in core `n`'s local store. -/
def InLs (n : Nat) (a : Int) (len : Nat) : Prop := (lsAddr n : Int) ≤ a ∧ a + len ≤ (lsAddr n : Int) + 0x800000

/-- Two byte ranges of `len` bytes share no byte. -/
def Apart (a b : Int) (len : Nat) : Prop := a + len ≤ b ∨ b + len ≤ a

/-- The line of 256 B at address `a` reads as `bs`. -/
def lineIs (d : Dev) (a : Nat) (bs : List Byte) : Prop := d.peek a 256 = bs

/-- Spare `q` is the one that takes over from `p`: the lowest unused one of its base die, or of all dies where its die has none
(R287). -/
def SpareFor (d : Dev) (p q : Nat) : Prop :=
  let free (k : Nat) : Prop := k < 640 ∧ d.rd (F.PC_STATE k) = 1
  free q ∧ ((q / 160 = p / 160 ∧ ∀ k, k < q → k / 160 = p / 160 → ¬ free k) ∨
    ((∀ k, k / 160 = p / 160 → ¬ free k) ∧ ∀ k, k < q → ¬ free k))

/-- The limit that a cause of PC_FAILED names has been reached for a logical pseudo-channel within the last second (R285). -/
def LimitReached (d : Dev) (l : Nat) (cause : BitVec 8) : Prop :=
  let recent (t : Nat) : Bool := decide (d.rd F.OP_TIME_MS < t + 1000)
  (cause = 0 → max 1 (d.rd F.UE_LIMIT) ≤ d.tier.ueWords.countP (fun w => decide (w.1 < farBase) && logicalPc w.1 == l && recent w.2)) ∧
  (cause = 1 → d.rd F.CE_LIMIT < ((Tab.get d.tier.ceTimes l []).filter (fun x => recent x.1)).foldl (fun n x => n + x.2) 0)

/-- Near line `i` of a sweep's pseudo-channel has no mirror entry (R289). -/
def NoMirror (d : Dev) : Prop := ∀ k, k < 16 → d.rd (F.MIR_LEN k) = 0

/-- A read of the `n` granules of 16 B from `a` on has poisoned those it could not correct, and corrected the others (R256, R263). -/
def SavedFrom (d e : Dev) (a n : Nat) : Prop :=
  ∀ g, g < n → let w := a + 16 * g
    (w ∈ d.mem.poison ∨ w ∈ d.mem.latentU → w ∈ e.mem.poison ∧ w ∉ e.mem.latentU) ∧
    (w ∉ d.mem.poison → w ∉ d.mem.latentU → w ∉ e.mem.latentC ∧ w ∉ e.mem.poison)

/-- Device `id` lies behind port `p` by the route table, and the port is up (R359, R360). -/
def Behind (d : Dev) (id : BitVec 16) (p : Nat) : Prop :=
  d.myId ≠ 0xFFFF ∧ id ≠ d.myId ∧ d.rd (F.ROUTE id.toNat) = p ∧ p < 18 ∧ d.linkUp p = true

/-! ### Rings and descriptors (R386 to R430) -/

/-- (a - b) modulo 2^32, as counts of a ring are compared (R388). -/
def ahead (a b : Nat) : Nat := (((a : Int) - (b : Int)) % 2 ^ 32).toNat

/-- Every register field but the named ones reads as before. -/
def KeepsRegs (s u : State) (fs : List Field) : Prop := ∀ g : Field, (∀ f ∈ fs, g.key ≠ f.key) → u.dev.rd g = s.dev.rd g

/-- Nothing but registers, rings and the ports differs. -/
def OnlyRings (s u : State) : Prop :=
  u = { s with dev := { s.dev with regs := u.dev.regs, rings := u.dev.rings, portA := u.dev.portA, portB := u.dev.portB } }

/-- Ring `r` may start descriptor S (R385, R391, R393, R418, R469). -/
def Eligible (s : State) (r : Nat) : Prop :=
  s.dev.sys.phase = .run ∧ s.dev.sys.sleepReq = false ∧ s.dev.rd (F.RING_STATE r) = 1 ∧
    (s.dev.port (s.dev.ringPort r)).d3hot = false ∧ (∀ y ∈ (s.dev.ring r).started, y.op = 1 → y.finished = true) ∧
    1 ≤ ahead (s.dev.cntT r) (s.dev.cntS r) ∧ ahead (s.dev.cntT r) (s.dev.cntS r) ≤ s.dev.ringSize r ∧
    ahead (s.dev.cntS r) (s.dev.cntH r) < s.dev.ringSize r

/-- Ring `r` comes next after the ring of its priority that started a descriptor last, among those that may start one (R392). -/
def NextInTurn (s : State) (r : Nat) : Prop :=
  ∀ q, q < 64 → s.dev.rd (F.PRIO q) = s.dev.rd (F.PRIO r) → Eligible s q → s.dev.turnOf r ≤ s.dev.turnOf q

/-- Descriptor `y`, of ring `r` and count `k`, has opcode `op`, is the next one its engine takes up, and passes the checks of R398. -/
def AtEngine (s : State) (r : Nat) (k : Word) (op : Nat) (y : Desc) : Prop :=
  s.dev.engineOn op = true ∧ s.dev.desc r k = some y ∧ y.op = op ∧ y.taken = false ∧ y.outcome = none ∧ s.dev.firstForEngine y = true ∧
    s.dev.precheck r y = none

/-- The status and the result that a descriptor has come to. -/
def Ends (u : State) (r : Nat) (k : Word) (st : St) (res : List Byte) : Prop :=
  ∃ y, u.dev.desc r k = some y ∧ y.taken = true ∧ y.outcome = some (st, (res ++ List.replicate 16 0).take 16)

/-- Nothing but rings differs, and no ring but `r`. -/
def OnlyRing (s u : State) (r : Nat) : Prop :=
  u = { s with dev := { s.dev with rings := u.dev.rings } } ∧ ∀ q, q ≠ r → u.dev.ring q = s.dev.ring q

/-- Ring `r`'s only started descriptor with the count of `y` is `y`, and it has none of before a PERST. -/
def Lone (s : State) (r : Nat) (y : Desc) : Prop :=
  (s.dev.ring r).orphans = [] ∧ ((s.dev.ring r).started.map Desc.count).Nodup ∧ y ∈ (s.dev.ring r).started

/-- The command of a started descriptor, by its opcode in the table of R397, for the descriptor of count `k` of ring `r`. -/
def TakesUp (i : Instr) (r : Fin 64) (k : Word) (op : Nat) : Prop :=
  match op with
  | 0x20 => ∃ w, i = .copy r k w
  | 0x30 => ∃ w, i = .apoTranslate r k w
  | 0x31 => i = .codeLoad r k
  | 0x32 => i = .coreRun r k
  | 0x33 => i = .coreStop r k
  | 0x34 => ∃ w, i = .stepReport r k w
  | 0x40 => ∃ w, i = .layoutCopy r k w
  | 0x41 => ∃ w, i = .dispatch r k w
  | 0x42 => ∃ rows w, i = .combine r k rows w
  | 0x48 => i = .phaseMap r k
  | 0x50 => ∃ w, i = .keepRead r k w
  | 0x51 => ∃ a, i = .keepWrite r k a
  | 0x53 => i = .pcRetire r k
  | 0x60 => ∃ w, i = .linkWrite r k w
  | 0x61 => ∃ w, i = .linkRead r k w
  | 0x62 => ∃ w, i = .collective r k w
  | 0x70 => i = .twinPair r k
  | 0x71 => i = .twinUnpair r k
  | 0x72 => i = .twinReg r k
  | 0x73 => ∃ a, i = .twinCommit r k a
  | 0x74 => ∃ a, i = .twinFill r k a
  | 0x75 => ∃ a, i = .twinVerify r k a
  | 0x76 => ∃ a, i = .snapWrite r k a
  | 0x77 => i = .snapRead r k
  | 0x78 => ∃ m a, i = .calWindow r k m a
  | 0x79 => ∃ m h l how, i = .calHot r k m h l how
  | 0x7A => ∃ fl u, i = .fwUpdate r k fl u
  | 0x7B => ∃ b, i = .fwActivate r ⟨k, b⟩
  | 0x7C => i = .coreSpare r k
  | 0x7D => i = .svnCommit r k
  | 0x7E => i = .keyAdmin r k
  | 0x7F => ∃ w, i = .attest r k w
  | _ => False

/-! ### Descriptors of programs and COPY (R197 to R207, R335 to R338, R400) -/

/-- `n` bytes of the near tier at `a` are backed, read without an error, and no rebuild concerns the tier. -/
def NearClean (s : State) (a n : Nat) : Prop :=
  a + n ≤ s.dev.nearTop ∧ s.dev.tier.sweeps = [] ∧ s.dev.tier.awaiting = [] ∧ ∀ u, a / 64 * 64 ≤ u → u < a + n → s.dev.cleanAt u

/-- The bytes outside `n` bytes at `a` read as before. -/
def SameOutside (s u : State) (a n : Nat) : Prop := ∀ x, x < a ∨ a + n ≤ x → u.dev.peek x 1 = s.dev.peek x 1

/-- A core that a CODE_LOAD has reached (R203). -/
def loadedCore (c : Core) (base len : Nat) : Core :=
  { c with codeBase := base, codeLen := len, cache := [], retained := false, gated := false }

/-- A core that a CORE_RUN has started (R196, R198, R332): its registers and the rest of its state are kept. -/
def startedCore (c : Core) (r : Nat) (k : Word) (entry : Nat) (clrf : Bool) : Core :=
  { c with
    status := .running, pc := entry / 8 * 8, loops := [], wait := none, halt := none, run := some (r, k),
    cflags := if clrf then 0 else c.cflags, curTag := 0, retained := false, gated := false }

/-- A number of at most 64 bits: the sum of a list, saturating. -/
def sum64 (xs : List Nat) : Nat := min (xs.foldl (fun a b => a + b) 0) (2 ^ 64 - 1)

/-! ### Layout copies, phase mappings, dispatch and combine (R219 to R233, R301 to R322) -/

/-- The tensor descriptor that the bytes at an address spell: 256 B, of which the second half is the sharded extension (R208, R223). -/
def tdescAt (s : State) (a : Nat) : TDesc := TDesc.parse (s.dev.peek (a / 8 * 8) 256)

/-- The 16 B result of a layout copy (R233): WRITTEN, and no FAULT_INDEX. -/
def layoutResult (n : Nat) : List Byte := leBytes 6 n ++ leBytes 2 0 ++ leBytes 8 (2 ^ 64 - 1)

/-- The product of numbers. -/
def times (xs : List Nat) : Nat := xs.foldl (fun a b => a * b) 1

/-- The `n` bytes at `a` and the `m` bytes at `b` share none. -/
def Disjoint_ (a n b m : Nat) : Prop := a + n ≤ b ∨ b + m ≤ a

/-- The choices of T tokens in the order in which a dispatch visits them (R304). -/
def visits (tokenMajor : Bool) (tokens k : Nat) : List (Nat × Nat) :=
  if tokenMajor then (List.range tokens).flatMap (fun t => (List.range k).map (fun j => (t, j)))
  else (List.range k).flatMap (fun j => (List.range tokens).map (fun t => (t, j)))

/-- The slot of the choice visited at place `p`, as POS holds it: -2 where no expert has the index, else the number of rows that the
expert already holds from this source, or -1 where that is the capacity (R304). -/
def slotAt (expert : Nat × Nat → Nat) (experts cap : Nat) (vs : List (Nat × Nat)) (p : Nat) (v : Nat × Nat) : Int :=
  if experts ≤ expert v then -2
  else
    let i := (vs.take p).countP (fun w => decide (expert w = expert v))
    if i < cap then i else -1

/-- One element of a combined row in FP32: the kept weights times the experts' values, one fused operation at a time (R314). -/
def combined (start : Word) (ws : List Word) (ys : List FVal) : Word :=
  (ws.zip ys).foldl (fun acc p => (toF32 (((f32 p.1).mul p.2).add (f32 acc))).1) start

/-- The sum of the kept weights of a token in FP32, in ascending choice (R314). -/
def keptSum (ws : List Word) : Word := ws.foldl (fun a w => (toF32 ((f32 a).add (f32 w))).1) 0

/-- A number that RENORM divides by: finite and not zero (R314). -/
def Divides (w : Word) : Prop := ∃ n m e, f32 w = .fin n m e ∧ m ≠ 0

/-! ### The keep tier and twins (R278 to R283, R431 to R450) -/

/-- `n` bytes of the keep tier from block `b` on. -/
def keepAt (s : State) (b n : Nat) : List Byte := getBytes s.dev.mem.keep (b * 4096) n

/-- The bytes of the keep tier outside `n` bytes from block `b` on read as before. -/
def KeepOutside (s u : State) (b n : Nat) : Prop :=
  ∀ a, a < b * 4096 ∨ b * 4096 + n ≤ a → getBytes u.dev.mem.keep a 1 = getBytes s.dev.mem.keep a 1

/-- The data of the registered ranges, in list order (R439). -/
def rangesData (s : State) (rs : List (Nat × Nat)) : List Byte := rs.flatMap (fun g => s.dev.peek g.1 g.2)

/-- The registered ranges `rs` are whole 8 KiB pieces of clean near tier. -/
def CleanRanges (s : State) (rs : List (Nat × Nat)) : Prop := ∀ g ∈ rs, g.2 % 8192 = 0 ∧ NearClean s g.1 g.2

/-- No two of the ranges share a byte. -/
def ApartRanges (rs : List (Nat × Nat)) : Prop := rs.Pairwise (fun g h => Disjoint_ g.1 g.2 h.1 h.2)

/-- A header that holds a generation (R439). -/
def Valid (h : List Byte) : Prop := field h 0 4 = 0x4E495754 ∧ bit (field h 4 1) 0 = true

/-- `j` is the slot of the newest valid generation of two headers (R441). -/
def Newest (h0 h1 : List Byte) (j : Nat) : Prop :=
  (j = 0 ∧ Valid h0 ∧ (Valid h1 → field h1 8 8 ≤ field h0 8 8)) ∨ (j = 1 ∧ Valid h1 ∧ (Valid h0 → field h0 8 8 < field h1 8 8))

/-- The header `h` says what R439 has it say of the given generation. -/
def HeaderOf (s : State) (h : List Byte) (gen step loss : Nat) (hash : List Byte) : Prop :=
  Valid h ∧ h.length = 4096 ∧ field h 8 8 = gen % 2 ^ 64 ∧ field h 0x10 4 = step ∧ field h 0x14 1 = s.dev.twin.ranges.length % 256 ∧
    field h 0x15 1 = s.dev.sys.strapFeed.toNat ∧ field h 0x16 2 = s.dev.rd F.MY_ID % 2 ^ 16 ∧ field h 0x18 8 = loss ∧ (h.drop 0x20).take 32 = hash

/-- The port by which packets for the partner leave (R360): the device has an ID, the partner's is another, and the port is up. -/
def PartnerPort (s : State) (p : Nat) : Prop :=
  s.dev.rd F.MY_ID < 0xFFFF ∧ s.dev.rd F.PARTNER_ID < 2 ^ 16 ∧ s.dev.rd F.PARTNER_ID ≠ s.dev.rd F.MY_ID ∧ s.dev.rd (F.ROUTE (s.dev.rd F.PARTNER_ID)) = p ∧ p < 18 ∧
    s.dev.linkUp p = true

/-- The twin engine has no pairing and no fill under way (R453). -/
def Free (s : State) : Prop := s.dev.twin.pairing = none ∧ s.dev.twin.fill = none

/-- The two READ_REQ packets for the headers of the partner's slots (R407, R441): 4 KiB each, of ring `r`. -/
def AskHeaders (s : State) (r : Nat) (ks : List Pkt) : Prop :=
  ks.map (fun q => q.addr) = [s.dev.twin.peerBase % 2 ^ 64, (s.dev.twin.peerBase + s.dev.twin.peerSize / 2 / 65536 * 65536) % 2 ^ 64] ∧
    ∀ q ∈ ks, q.pop = 3 ∧ q.vc = 2 ∧ q.len = 4096 ∧ q.data = [] ∧ q.sq.toNat = r ∧ q.dst.toNat = s.dev.rd F.PARTNER_ID

/-- Port `p` has the flits of the packets `ks` to send, behind what it had. -/
def Queued (s u : State) (p : Nat) (ks : List Pkt) : Prop := (u.dev.link p).txq = (s.dev.link p).txq ++ ks.flatMap Pkt.flits

/-- `n` bytes of the far tier at `a` are backed and read without an error. -/
def FarClean (s : State) (a n : Nat) : Prop :=
  farBase ≤ a ∧ a + n ≤ 0x068000000000 ∧ s.dev.tier.farFailed = [] ∧ ∀ u, a / 64 * 64 ≤ u → u < a + n → s.dev.cleanAt u

/-! ### Links and packets (R246 to R249, R339 to R377) -/

/-- The bytes of a port's skid reserve by its LINK_CLASS (R246). -/
def reserveOf (s : State) (p : Nat) : Nat :=
  let c := if p < 16 then bits (s.dev.rd F.LINK_CLASS_LO) (2 * p) 2 else bits (s.dev.rd F.LINK_CLASS_HI) (2 * (p - 16)) 2
  if c = 0 then 65536 else if c = 1 then 262144 else 1572864

/-- Port `p` trains (R341, R376, R459). -/
def MayTrain (s : State) (p : Nat) : Prop :=
  s.dev.sys.phase = .run ∧ s.dev.rd F.COASTING = 0 ∧ s.dev.rd (F.PORT_EN p) = 1 ∧ (s.dev.rd (F.LINK_STATE p) = 1 ∨
    (s.dev.rd (F.LINK_STATE p) = 0 ∧ (s.dev.link p).lost = false ∧ (s.dev.link p).failed = false))

/-- The SPEED with which a training ends (R341). -/
def TrainsTo (s : State) (p : Nat) (t : TrainRes) (speed : Nat) : Prop :=
  t.lanes = 4 ∧ ((speed = 0 ∧ s.dev.rd (F.MAX_SPEED p) = 0 ∧ t.fast = true ∧ t.lock224 = true) ∨
    (speed = 1 ∧ ¬ (s.dev.rd (F.MAX_SPEED p) = 0 ∧ t.fast = true ∧ t.lock224 = true) ∧ t.lock112 = true))

/-- Port `p` has been declared lost with a cause (R374, R375): its bits and buffers, of which the whole packets received are kept, and,
where no fill from the partner was under way (R446), no byte of memory. -/
def DeclaredLost (s u : State) (p cause : Nat) : Prop :=
  u.dev.rd (F.LINK_STATE p) = 0 ∧ (u.dev.rd F.LINK_DOWN).testBit p = true ∧ (u.dev.rd F.LINK_UP).testBit p = false ∧
    u.dev.rd (F.LOSS_CAUSE p) = cause ∧ (u.dev.link p).lost = true ∧ (u.dev.link p).replay = [] ∧ (u.dev.link p).rxArea = [] ∧
    (u.dev.link p).skid = [] ∧ (u.dev.link p).txq = [] ∧
    (u.dev.link p).kept = (s.dev.link p).kept ++ wholeFlits ((s.dev.link p).rxArea ++ (s.dev.link p).skid) ∧
    (s.dev.twin.fill = none → u.dev.mem = s.dev.mem)

/-- A DATA flit with this SEQ that carries `f`, and tells what the port tells its neighbour (R343, R344). -/
def IsData (l : Link) (w : List Byte) (seq : Nat) (f : Flit) : Prop :=
  w.length = 256 ∧ flitCrcOk w = true ∧ field w 0 1 % 16 = 1 ∧ field w 4 2 = seq % 65536 ∧ field w 6 2 = l.rxLast % 65536 ∧
    bit (field w 0 1) 7 = l.stopOut ∧ bit (field w 1 1) 4 = l.nacking ∧ parseFlit w = f

/-- An IDLE flit (R343). -/
def IsIdle (l : Link) (w : List Byte) : Prop :=
  w.length = 256 ∧ flitCrcOk w = true ∧ field w 0 1 % 16 = 0 ∧ field w 6 2 = l.rxLast % 65536 ∧ bit (field w 0 1) 7 = l.stopOut

/-- `k` is the first packet released to this device's packet layer of which `f` holds, and `rest` the others (R348). -/
def FirstPkt (s : State) (f : Pkt → Prop) (k : Pkt) (rest : List (Nat × Pkt)) : Prop :=
  ∃ pre n post, s.dev.cxe.inbox = pre ++ (n, k) :: post ∧ (∀ x ∈ pre, ¬ f x.2) ∧ f k ∧ rest = pre ++ post

/-- A packet for this device with a packet operation. -/
def Mine (s : State) (pop : Nat) (k : Pkt) : Prop := s.dev.myId ≠ 0xFFFF ∧ k.dst = s.dev.myId ∧ k.pop = pop

/-- The Ingot serves packets: not in Retain (R261, R466). -/
def Serves (s : State) : Prop := s.dev.sys.phase ≠ .retain

/-- The port by which table-routed packets for `dst` leave (R359, R360). -/
def TablePort (s : State) (dst : BitVec 16) (p : Nat) : Prop :=
  s.dev.myId ≠ 0xFFFF ∧ dst ≠ s.dev.myId ∧ s.dev.rd (F.ROUTE dst.toNat) = p ∧ p < 18 ∧ s.dev.linkUp p = true

/-- The answer to a request `k` (R345, R356): on VC 0 or 1, to its sender, with its TAG and a status. -/
def AnswerTo (s : State) (k q : Pkt) (st : St) (data : List Byte) : Prop :=
  q.pop = k.pop + 1 ∧ q.vc = k.pop / 2 ∧ q.dst = k.src ∧ q.src = s.dev.myId ∧ q.tag = k.tag ∧ q.sq = k.sq ∧ q.addr = st.toNat ∧
    q.data = data ∧ q.len = data.length

/-- The packets of descriptor (r, k), in order, of which all but `o` are answered; a job waits for them; no other has `o`'s TAG,
and no collective holds a message back. -/
def LastOpen (s : State) (r : Nat) (k : Word) (pre post : List Outst) (o : Outst) : Prop :=
  s.dev.cxe.outst.filter (fun x => x.ring == r && x.count == k) = pre ++ o :: post ∧ o.answer = none ∧ o.ring = r ∧ o.count = k ∧
    (∀ x ∈ pre ++ post, x.answer ≠ none) ∧ (∀ x ∈ s.dev.cxe.outst, x.tag = o.tag → x = o) ∧
    s.dev.cxe.jobs.find? (fun j => j.ring == r && j.count == k) = some ⟨r, k, none⟩ ∧ (∃ y, s.dev.desc r k = some y) ∧
    Serves s ∧ ∀ c ∈ s.dev.cxe.colls, c.queue = []

/-- The outcome of a link descriptor from its packets in ascending address: the status of the first that failed, and the bytes before
it (R366). -/
def linkOutcome (os : List (Nat × St)) (n : Nat) : St × List Byte :=
  match os with
  | [] => (stOk, leBytes 8 n)
  | (len, st) :: rest => if st = stOk then linkOutcome rest (n + len) else (st, leBytes 8 n)

/-- The answers of packets, with their lengths. -/
def answersOf (os : List Outst) : List (Nat × St) := os.map (fun x => (x.len, x.answer.getD stOk))

/-! ### The host's accesses (R244, R245, R252 to R255, R382, R530 to R535) -/

/-- `n` bytes at `a` lie in the Ingot, and their granules read without an error (R26, R256). -/
def IngotClean (s : State) (a n : Nat) : Prop :=
  ingotBase ≤ a ∧ a + n ≤ ingotBase + 0x80000000 ∧ ∀ u, a / 16 * 16 ≤ u → u < a + n → s.dev.cleanAt u

/-- `n` bytes at `a` lie in the local store of core `c`, which is present. -/
def InStore (s : State) (c a n : Nat) : Prop := s.dev.present c = true ∧ lsAddr c ≤ a ∧ a + n ≤ lsAddr c + 0x800000

/-- The flat address behind a BAR4 offset of a port (R382). -/
def bar4At (s : State) (p : PciePort) (off : Nat) : Nat := (s.dev.rd (F.BAR4_BASE (pnum p)) / 2 ^ 20 * 2 ^ 20 + off) % 2 ^ 64

/-- The block after a port has issued `o` as well, where `o` is no write. -/
def Dev.issued (d : Dev) (p : PciePort) (o : PortOut) : Dev := d.setPort p { d.port p with out := (d.port p).out ++ [o] }

/-- The queue of a port's BAR4 writes (R407). -/
def bar4Queue (p : PciePort) : HeldSrc := .own (BitVec.ofNat 16 (0x300 + pnum p))

/-! ### The service mailbox and recovery (R484 to R501) -/

/-- The VERSION of the component of type `t` in a header (R486). -/
def VersionOf (h : List Byte) (t v : Nat) : Prop :=
  ∃ c, c < 4 ∧ field h (0x40 + 64 * c) 1 = t ∧ field h (0x44 + 64 * c) 4 = v ∧ ∀ j, j < c → field h (0x40 + 64 * j) 1 ≠ t

/-- The bytes of the image area from its start (R278, R486). -/
def imageAt (s : State) (n : Nat) : List Byte := getBytes s.dev.mem.keep (0x4000 * 4096) n

/-- The near, far, Ingot and local-store bytes, and the keep tier below the image area, are those of before. -/
def ImageOnly (s u : State) : Prop :=
  u.dev.mem.bytes = s.dev.mem.bytes ∧ u.dev.cores = s.dev.cores ∧ ∀ a, a < 0x4000 * 4096 → getBytes u.dev.mem.keep a 1 = getBytes s.dev.mem.keep a 1

/-- What an image that R487 accepts has: its header's fixed fields, a vendor slot that is not revoked, an active owner slot where any
slot is active, and an SVN not below the counter. -/
def Acceptable (s : State) (img : List Byte) (n : Nat) : Prop :=
  field img 0 4 = 0x4D495746 ∧ field img 4 2 = 1 ∧ field img 6 1 = 4 ∧ field img 0x10 4 = n ∧ n ≤ 67108864 ∧ field img 0x14 2 = 0x5C60 ∧
    field img 0x16 1 % 4 ∉ s.dev.fuses.vendorRevoked ∧ s.dev.fuses.svnCounter ≤ field img 0xC 1 % 128 ∧
    ((∃ k, k < 3 ∧ Tab.get s.dev.fuses.ownerState k 0 = 1) →
      bit (field img 0x17 1) 7 = true ∧ Tab.get s.dev.fuses.ownerState (field img 0x17 1 % 4) 0 = 1) ∧
    ∀ c, c < 4 → sha256 ((img.drop (field img (0x48 + 64 * c) 4)).take (field img (0x4C + 64 * c) 4)) = (img.drop (0x50 + 64 * c)).take 32

/-! ### Ports in reset, D3hot and MSI-X (R384, R385, R404) -/

/-- Registers of a port that PERST resets (R384, R406). -/
def portFields (p : PciePort) : List Field :=
  [F.HWIN_BASE (pnum p), F.BAR4_BASE (pnum p), F.EVT_VEC (pnum p), F.EVT_EN (pnum p), F.BAR4_MISS (pnum p), F.LINK_SPEED (pnum p),
    F.LINK_WIDTH (pnum p)]

/-- Vectors with a message pending that goes out once MSI-X is on and unmasked, in ascending order (R404). -/
def readyVecs (q : Port) : List Nat :=
  (List.range 64).filter (fun v => q.pba.getLsbD v && !(Tab.get q.msix v MsixEntry.reset).masked)

/-- The message of a vector. -/
def msgOf (q : Port) (v : Nat) : PortOut :=
  .msix v (Tab.get q.msix v MsixEntry.reset).addr.toNat (Tab.get q.msix v MsixEntry.reset).data.toNat

/-- A descriptor once the writes that it waited for at port `p` are issued, or are discarded (R383, R385). -/
def noMoreHeld (p : PciePort) (discarded : Bool) (y : Desc) : Desc :=
  if p ∈ y.held then { y with held := y.held.erase p, lost := y.lost || discarded } else y

/-- A ring once what its descriptors waited for at port `p` is settled. -/
def settledRing (p : PciePort) (discarded : Bool) (x : Ring) : Ring :=
  { x with started := x.started.map (noMoreHeld p discarded), orphans := x.orphans.map (noMoreHeld p discarded) }

/-- Whether a write of source queue `sq` is among requests. -/
def writesOf (sq : Nat) (os : List PortOut) : Bool := os.any (fun o => match o with | .write _ _ q => q == sq | _ => false)

/-- A transfer of core `n` once the writes that waited at port `p` are discarded: ACCESS_OUT_OF_MAP where its data, come to OK so far, were
among them (R383, R385). -/
def discardedXfer (d : Dev) (p : PciePort) (n : Nat) (x : Xfer) : Xfer :=
  if x.moved = some stOk ∧ writesOf (0x100 + 4 * n + x.q) (d.port p).waiting = true then { x with moved := some stOutOfMap } else x

/-- Every core is as before, but for its transfers whose data waited at port `p`. -/
def TransfersDiscarded (s u : State) (p : PciePort) : Prop :=
  ∀ n, u.dev.core n = { s.dev.core n with xfers := (s.dev.core n).xfers.map (discardedXfer s.dev p n) }

/-! ### Clocks (R455 to R465) -/

/-- The requested multiple of die `k` within 4 to 36; 36 while CAL_HOT's load runs, as `hot` says (R462, R480). -/
def wantedMult (d : Dev) (hot : Bool) (k : Nat) : Nat := if hot then 36 else min 36 (max 4 (d.rd (F.CORE_MULT k)))

/-- The effective multiple of R462 for die `k`: the requested one and the least of what stands against it. -/
def allowedMult (d : Dev) (hot : Bool) (k : Nat) : Nat :=
  ([wantedMult d hot k, if d.rd F.CAL_STALE = 1 ∧ hot = false then 32 else 36, if d.rd F.PWR_WARN = 1 ∨ d.rd F.COASTING = 1 then 4 else 36,
    if d.rd (F.DIE_PWR_CAP k) = 0 then 36 else Tab.get d.sys.pcap k 36, Tab.get d.sys.therm k 36]).foldl min 36

/-- Every link port that was up has been lost with cause 1 (R458, R459, R374). -/
def LinksLost (s u : State) : Prop :=
  ∀ p, p < 18 → s.dev.linkUp p = true →
    u.dev.rd (F.LINK_STATE p) = 0 ∧ u.dev.rd (F.LOSS_CAUSE p) = 1 ∧ (u.dev.rd F.LINK_DOWN).testBit p = true

/-! ### Power states (R466 to R475, R521 to R524) -/

/-- The rails are up. -/
def RailsUp (s : State) : Prop :=
  s.dev.sys.phase = .waitRef ∨ s.dev.sys.phase = .recovery ∨ s.dev.sys.phase = .run ∨ s.dev.sys.phase = .retain

/-- The clocks run: Run, Retain or recovery. -/
def ClocksRun (s : State) : Prop := s.dev.sys.phase = .recovery ∨ s.dev.sys.phase = .run ∨ s.dev.sys.phase = .retain

/-- The registers that the firmware store or the manufacture keeps (R284, R471, R474, R501, R504, R536). -/
def keptFields : List Field :=
  [F.IMG_INCOMPLETE, F.FW_VER_STORED, F.SVN_STORED, F.KEEP_WEAR_PCT, F.KEEP_RESERVE_PCT, F.POWER_CYCLES, F.SILICON_STEP, F.PEWTER_VER]

/-- What removing the rails leaves (R471, R474): every volatile register, core, ring and store as after power-up, the keep tier, the fuses
and what the firmware store holds as they were. -/
def RailsRemoved (s u : State) (ph : Phase) : Prop :=
  u.dev.sys.phase = ph ∧ u.dev.fuses = s.dev.fuses ∧ u.dev.mem.keep = s.dev.mem.keep ∧ u.dev.mem.bytes = [] ∧ u.dev.cores = [] ∧
    u.dev.rings = [] ∧ u.dev.links = [] ∧ u.dev.hold = [] ∧ u.dev.hit = [] ∧ u.dev.recd.buf = [] ∧ u.dev.twin.ranges = [] ∧
    (∀ f : Field, f.key ≠ F.RECOVER_NEXT.key → (∀ g ∈ keptFields, f.key ≠ g.key) → u.dev.rd f = f.reset) ∧
    (∀ f ∈ keptFields, u.dev.rd f = s.dev.rd f % 2 ^ f.w)

/-! ### Calibration (R476 to R482) -/

/-- What R477 applies to an item at a load index, as `applied` over `den`. -/
def Follows (c : CalItem) (load hot : Nat) : Prop :=
  (hot ≤ c.lc → c.applied = c.cold ∧ c.den = 1) ∧
    (c.lc < hot → c.den = hot - c.lc ∧ c.applied = c.cold * (hot - c.lc : Nat) + c.offset * (min (load - c.lc) (hot - c.lc) : Nat))

/-- The time in µs of the items of a window (R482). -/
def windowTime (is : List Nat) : Nat := is.foldl (fun t i => t + if i < 4 then 20 else if i < 8 then 60 else 80) 0

/-! ### The event recorder and the sideband (R502 to R515, R527 to R529) -/

/-- `(k, w)` is the record that a full log gives up for one of severity `sev`: the oldest of the lowest severity, not above it (R507). -/
def GivenUp (x : Recorder) (sev k : Nat) (w : Rec) : Prop :=
  Tab.get x.log k none = some w ∧ w.sev ≤ sev ∧ ∀ j v, Tab.get x.log j none = some v → w.sev ≤ v.sev ∧
    (v.sev = w.sev → seqAge x.newest (BitVec.ofNat 32 j) ≤ seqAge x.newest (BitVec.ofNat 32 k))

/-- The record that a die throttled at `c` degrees makes (R465, R502, R511). -/
def throttleRec (d : Dev) (die c : Nat) : Rec :=
  ⟨nextSeq d.recd.newest, BitVec.ofNat 32 (d.rd F.POWER_CYCLES), BitVec.ofNat 64 (d.rd F.OP_TIME_MS), 2, 0x350, 0x113, leBytes 1 die ++ leBytes 1 c⟩

/-- A FW_ACTIVATE has the Bronze core's restart under way (R492). -/
def Restarting (s : State) : Prop := s.dev.svc.job.any (fun j => match j.work with | .restart _ => true | _ => false) = true

/-- The sideband answers: P3V3_AUX present, in Run or Retain, and no restart of the Bronze core under way (R492, R527). -/
def SidebandOn (s : State) : Prop :=
  s.dev.sys.auxOk = true ∧ (s.dev.sys.phase = .run ∨ s.dev.sys.phase = .retain) ∧ ¬ Restarting s

/-! ### The whole machine -/

/-- Fuses that may go from `f` to `g` (R3, R497 to R500): the grade, the identity and the vendor keys stand, the version counter does not
fall, a revoked vendor slot stays revoked, and an owner slot goes only from empty to active, with its key then written, and from active to
revoked. -/
def FusesGo (f g : Fuses) : Prop :=
  g.grade = f.grade ∧ g.uid = f.uid ∧ g.cert = f.cert ∧ g.vendorKey = f.vendorKey ∧ f.svnCounter ≤ g.svnCounter ∧
    (∀ v, v ∈ f.vendorRevoked → v ∈ g.vendorRevoked) ∧
    ∀ k, let x := Tab.get f.ownerState k 0
      let z := Tab.get g.ownerState k 0
      (z = x ∧ Tab.get g.ownerKey k 0 = Tab.get f.ownerKey k 0) ∨ (x = 0 ∧ z = 1) ∨
        (x = 1 ∧ z = 2 ∧ Tab.get g.ownerKey k 0 = Tab.get f.ownerKey k 0)

end Sys2Proof.Machine
end

