-- ==== Sys2Proof/Certificates/Slice0/Obligations.lean ====
section
/-! DEFINITION. The statements for the provers, one definition each. The spec-level values they speak of stand in
Sys2Proof/Safety.lean. -/
open Sys2Proof Sys2Proof.Machine

/-- For every command c, every rest of the queue and every state, a step with c at the front of the queue is the effect of c on
the state with the rest of the queue; on an empty queue the step is one millisecond of the clocks, which is the model's choice
(log 4). -/
def Obligations.StepRunsFront : Prop :=
  (∀ (c : Instr) (rest : List Instr) (s : State), step { s with pending := c :: rest } = exec c { s with pending := rest }) ∧
  (∀ s : State, step { s with pending := [] } = .next { s with pending := [], dev := s.dev.tick })

/-- Whatever the command and the state, where a command answers a next state the queue of waiting commands is the one it started
with; so a step that answers a next state takes exactly the front command off the queue. The queue is the model's own state.
No command is refused. The one fault is reservedBitWrite, and the one command that can raise it is REGISTER_WRITE with a value
that sets a reserved bit of the word or words it writes, which R12 leaves undefined. -/
def Obligations.CommandsKeepTheQueueAndGoOn : Prop :=
  ((∀ (c : Instr) (s t : State), exec c s = .next t → t.pending = s.pending) ∧
  (∀ s t : State, step s = .next t → t.pending = s.pending.tail)) ∧
  (∀ (c : Instr) (s : State),
    (∃ t, exec c s = .next t) ∨
    (exec c s = .fault .reservedBitWrite ∧ ∃ (p : PciePort) (off size value : Nat), c = .registerWrite p off size value ∧
      ∃ i, i < size ∧ i % 4 = 0 ∧ (value / 2 ^ (8 * i)) % 2 ^ 32 &&& reservedBits (off + i) ≠ 0))

/-- B, BEQ, BNE, BLT, BGE, BLTU and BGEU, on a core that can issue, with legal register codes and ready registers, complete: when
the comparison holds (signed for LT and GE, unsigned for LTU and GEU) the program counter becomes PC plus 8 times IMM32 signed
and exactly the loops whose body holds the target stay; otherwise the core goes on past the branch; no register, no memory and
nothing else changes. That the sum wraps at 32 bits is the model's reading (log 7). On a core that can issue, with legal and
ready registers: LOOP starts a loop of its count (the scalar named by A, or IMM32[31:16] when BI is 1) over the IMM32[15:0]
instructions that follow; a count or a body of 0 continues after the body; inside four loops it is a fifth nested LOOP and
stops the core with BAD_OPCODE. PBLK that reaches past the end of an active loop body stops the core with BAD_OPCODE;
otherwise it skips IMM32[15:0] instructions when A holds 0 and goes on when it does not. PTAG makes IMM32[5:0] the current tag
and goes on. No register, no memory and nothing else changes. -/
def Obligations.BranchesLoopsAndBlocks : Prop :=
  (∀ (i : Instr) (f : CtrlForm) (taken : Word → Word → Bool) (s : State), branchForm i = some (f, taken) →
    CanIssue s f.core → f.ok (s.dev.core f.core) →
    let c := s.dev.core f.core
    (taken (c.rdCode f.a) (f.second c) = true →
      exec i s = .next (s.withCore f.core { c with
        pc := (((c.pc : Int) + 8 * f.imm.toInt) % 2 ^ 32).toNat,
        loops := c.loops.filter (fun l => decide ((l.first : Int) ≤ ((c.pc : Int) + 8 * f.imm.toInt) % 2 ^ 32 ∧
          ((c.pc : Int) + 8 * f.imm.toInt) % 2 ^ 32 < l.stop)) })) ∧
    (taken (c.rdCode f.a) (f.second c) = false →
      exec i s = .next (s.withCore f.core { c with pc := (loopBack (c.pc + 8) c.loops).1, loops := (loopBack (c.pc + 8) c.loops).2 }))) ∧
  ((∀ (n : Fin 96) (a : BitVec 6) (bi : Bool) (imm : Word) (s : State), CanIssue s n →
    CtrlForm.ok ⟨n, .loop, 0, a, 0, bi, imm⟩ (s.dev.core n) →
    let c := s.dev.core n
    let count := if bi then imm.toNat / 2 ^ 16 else (c.rdCode a).toNat
    let body := imm.toNat % 2 ^ 16
    (4 ≤ c.loops.length → exec (.loop n a bi imm) s = .next (s.frontStop n stBadOpcode)) ∧
    (c.loops.length < 4 → count ≠ 0 → body ≠ 0 → exec (.loop n a bi imm) s = .next (s.withCore n { c with
      pc := c.pc + 8, loops := ⟨c.pc + 8, c.pc + 8 + 8 * body, count⟩ :: c.loops })) ∧
    (c.loops.length < 4 → (count = 0 ∨ body = 0) → exec (.loop n a bi imm) s = .next (s.withCore n { c with
      pc := (loopBack (c.pc + 8 + 8 * body) c.loops).1, loops := (loopBack (c.pc + 8 + 8 * body) c.loops).2 }))) ∧
  (∀ (n : Fin 96) (a : BitVec 6) (imm : Word) (s : State), CanIssue s n →
    CtrlForm.ok ⟨n, .pblk, 0, a, 0, false, imm⟩ (s.dev.core n) →
    let c := s.dev.core n
    let past := c.pc + 8 + 8 * (imm.toNat % 2 ^ 16)
    let to8 := if c.rdCode a = 0 then past else c.pc + 8
    ((∃ l ∈ c.loops, l.stop < past) → exec (.pblk n a imm) s = .next (s.frontStop n stBadOpcode)) ∧
    ((∀ l ∈ c.loops, past ≤ l.stop) → exec (.pblk n a imm) s = .next (s.withCore n { c with
      pc := (loopBack to8 c.loops).1, loops := (loopBack to8 c.loops).2 }))) ∧
  (∀ (n : Fin 96) (imm : Word) (s : State), CanIssue s n → CtrlForm.ok ⟨n, .ptag, 0, 0, 0, false, imm⟩ (s.dev.core n) →
    let c := s.dev.core n
    exec (.ptag n imm) s = .next (s.withCore n { c with
      curTag := imm.toNat % 64, pc := (loopBack (c.pc + 8) c.loops).1, loops := (loopBack (c.pc + 8) c.loops).2 })))

/-- A scalar instruction, a branch, LOOP or PBLK on a core that can issue, with a register code of 48 to 63 in a field that it
reads or writes, stops issue with status BAD_OPCODE at its own program counter and changes nothing else; a reserved code in a
field it does not use changes nothing of what it does (the other statements hold for it). SLI, SMOV, SADD, SSUB, SMUL, SAND,
SOR, SXOR, SSHL, SSHR, SSRA, SMIN, SMAX and CID, on a core that can issue, with legal register codes and ready registers,
complete: D holds the value R186 gives (32-bit arithmetic, signed minimum and maximum, shift counts modulo 32), every other
scalar and address register keeps its value, the program counter and the loops go on past the instruction, and nothing else in
the machine changes. -/
def Obligations.ScalarInstructions : Prop :=
  (∀ (i : Instr) (f : CtrlForm) (s : State),
    ((∃ val, scalarForm i = some (f, val)) ∨ (∃ taken, branchForm i = some (f, taken)) ∨ blockForm i = some f) →
    CanIssue s f.core → ctrlLegal f.op f.d f.a f.b f.bi = false →
    exec i s = .next (s.frontStop f.core stBadOpcode)) ∧
  (∀ (i : Instr) (f : CtrlForm) (val : Word → Word → Word) (s : State), scalarForm i = some (f, val) →
    CanIssue s f.core → f.ok (s.dev.core f.core) →
    ∃ c', exec i s = .next (s.withCore f.core c') ∧
      c'.rdCode f.d = val ((s.dev.core f.core).rdCode f.a) (f.second (s.dev.core f.core)) ∧
      (∀ k : BitVec 6, k.toNat < 48 → k ≠ f.d → c'.rdCode k = (s.dev.core f.core).rdCode k) ∧
      (c'.pc, c'.loops) = loopBack ((s.dev.core f.core).pc + 8) (s.dev.core f.core).loops ∧
      { c' with s := (s.dev.core f.core).s, a := (s.dev.core f.core).a, pc := (s.dev.core f.core).pc,
                loops := (s.dev.core f.core).loops } = s.dev.core f.core)

/-- DRAIN, FLAGR and FLAGC on a core that can issue, with ready registers: if the engines they wait for (those of EMASK; all six
for FLAGR and FLAGC) have finished every instruction, they act at once: DRAIN only goes on, FLAGR puts CFLAGS into S, FLAGC
clears the CFLAGS bits where S holds 1; if not, issue is held and nothing else changes, and ENGINE_DRAIN_DONE then does
nothing while an engine is busy and has exactly that effect once all are quiet. Nothing else in the machine changes. END on a
core that can issue, whose queues are empty and for which no action and no run waits, completes: the core is IDLE, the
CORE_RUN that started it learns STOP_REASON 0 at the offset of END, and registers, masks, accumulator sets, slots, CFLAGS and
everything else of the core keep their values. With an instruction still running the core only waits. -/
def Obligations.DrainsAndEnd : Prop :=
  (∀ (i : Instr) (n : Fin 96) (w : FrontWait) (m : BitVec 6) (ci : CoreInstr) (s : State),
    let c := s.dev.core n
    drainForm i c = some (n, w, m, ci) →
    (CanIssue s n → c.ready ci = true → c.Quiet m → exec i s = .next (s.withCore n (afterDrain w c))) ∧
    (CanIssue s n → c.ready ci = true → ¬ c.Quiet m →
      exec i s = .next (s.withCore n { c with wait := some w })) ∧
    (c.status = .running → c.halt = none → c.wait = some w → c.Quiet m →
      exec (.engineDrainDone n) s = .next (s.withCore n (afterDrain w c))) ∧
    (c.status = .running → c.halt = none → c.wait = some w → ¬ c.Quiet m → exec (.engineDrainDone n) s = .next s)) ∧
  (∀ (n : Fin 96) (s : State), CanIssue s n →
    let c := s.dev.core n
    (c.queue = [] → c.actions = [] → c.runQ = [] → ∃ t, exec (.endProg n) s = .next t ∧
      t.dev.core n = { c with status := .idle, run := none, lastPc := c.pc, lastWhy := 0, stopReq := false } ∧
      (∀ m, m ≠ n.val → t.dev.core m = s.dev.core m) ∧
      t = { s with dev := { s.dev with cores := t.dev.cores, runDone := s.dev.runDone ++ c.runEnd n 0 stOk c.pc } }) ∧
    (c.queue ≠ [] →
      exec (.endProg n) s = .next (s.withCore n { c with wait := some .endProg })))

/-- YIELD on a core that can issue goes on when no action is pending. When a CODE_LOAD is the one pending action and the queues
are empty, the core empties its cache, sets CODE_BASE and CODE_LEN, continues at ENTRY (bits 2:0 ignored) and the descriptor
learns it. When an at-yield stop is the one pending action, the core becomes STOPPED with STOP_REASON 3 at the YIELD. When an
instruction still runs, the core waits and nothing else changes. WAITW on a core that can issue, with ready registers: CMP 4
to 7 is illegal and stops the core with BAD_OPCODE; an offset A + 4 * IMM21 (bits 1:0 ignored) of 8 MiB or more stops it with
ACCESS_OUT_OF_MAP; otherwise, where the word reads without an error, the core goes on if the word compares to S as CMP names,
and is held if it does not, with nothing else changed. WAITW_RELEASE on a held core reads the word again and lets the core go
exactly when it compares. -/
def Obligations.YieldAndWaitw : Prop :=
  (∀ (n : Fin 96) (s : State), CanIssue s n →
    let c := s.dev.core n
    (c.actions = [] → exec (.yield n) s = .next (s.withCore n c.onward)) ∧
    (c.queue ≠ [] → c.actions ≠ [] → exec (.yield n) s = .next (s.withCore n { c with wait := some .yield })) ∧
    (∀ r k base len entry, c.queue = [] → c.actions = [.load r k base len entry] → ∃ t, exec (.yield n) s = .next t ∧
      t.dev.core n = { c with
        actions := [], codeBase := base, codeLen := len, cache := [], pc := entry / 8 * 8, loops := [], retained := false,
        gated := false } ∧
      t.dev.acks = s.dev.acks ++ [(r, k, n.val)] ∧ t.dev.mem = s.dev.mem ∧ t.dev.regs = s.dev.regs) ∧
    (∀ r k, c.queue = [] → c.actions = [.stop r k] → c.runQ = [] → ∃ t, exec (.yield n) s = .next t ∧
      t.dev.core n = { c with
        actions := [], status := .stopped, run := none, lastPc := c.pc, lastWhy := 3, stopReq := false, gated := false } ∧
      t.dev.acks = s.dev.acks ++ [(r, k, n.val)] ∧ t.dev.runDone = s.dev.runDone ++ c.runEnd n 3 stOk c.pc ∧
      t.dev.mem = s.dev.mem ∧ t.dev.regs = s.dev.regs)) ∧
  (∀ (n : Fin 96) (k : BitVec 5) (a : BitVec 4) (cmp : BitVec 3) (imm : BitVec 21) (s : State),
    let c := s.dev.core n
    let off := ((c.areg a.toNat).toNat + 4 * imm.toNat) / 4 * 4
    let word (o : Nat) : Word := BitVec.ofNat 32 (leNat (s.dev.peek (lsAddr n + o) 4))
    let clean (o : Nat) : Prop := s.dev.present n = true ∧ c.retained = false ∧ s.dev.cleanAt ((lsAddr n + o) / 16 * 16)
    (CanIssue s n → 4 ≤ cmp.toNat → exec (.waitw n k a cmp imm) s = .next (s.frontStop n stBadOpcode)) ∧
    (CanIssue s n → cmp.toNat < 4 → c.ready (.sync .waitw k a cmp 0 0) = true →
      (0x800000 ≤ off → exec (.waitw n k a cmp imm) s = .next (s.frontStop n stOutOfMap)) ∧
      (off < 0x800000 → clean off → CmpSays cmp (word off) (c.sreg k.toNat) → exec (.waitw n k a cmp imm) s = .next (s.withCore n c.onward)) ∧
      (off < 0x800000 → clean off → ¬ CmpSays cmp (word off) (c.sreg k.toNat) →
        exec (.waitw n k a cmp imm) s = .next (s.withCore n { c with wait := some (.waitw off cmp (c.sreg k.toNat)) }))) ∧
    (∀ o v, c.status = .running → c.halt = none → c.wait = some (.waitw o cmp v) → cmp.toNat < 4 → o % 4 = 0 → o < 0x800000 → clean o →
      (CmpSays cmp (word o) v → exec (.waitwRelease n) s = .next (s.withCore n { c.onward with wait := none })) ∧
      (¬ CmpSays cmp (word o) v → exec (.waitwRelease n) s = .next s)))

/-- INSTRUCTION_ISSUE at a core that can issue completes: the new entries follow the old ones in the core's queue, at most four,
all for different engines, none started; no queue goes over its depth (16, 32, 32, 16, 16, 32) and the claiming instructions
of the scoreboard not over 48 (R181); only the queue, the place in program order, the program counter, the loops and a stop of
issue change. If the word at the program counter is an engine instruction with room it is the first entry; if it is illegal or
beyond CODE_LEN, nothing is issued and issue stops with BAD_OPCODE or ACCESS_OUT_OF_MAP at that offset. INSTRUCTION_FINISH for
an engine whose oldest instruction with its effect made is e, at a core that no stop has halted: CFLAGS gains e's flags and
keeps its others, e leaves the queue, and nothing else in the machine changes. With no such instruction nothing changes. -/
def Obligations.IssueAndFinish : Prop :=
  (∀ (n : Fin 96) (s : State), CanIssue s n →
    let c := s.dev.core n
    let waiting (q : List QEntry) (e : Eng) := (q.filter (fun y => y.eng == e && !y.started)).length
    ∃ es t, exec (.instructionIssue n) s = .next t ∧ OnlyCore s t n ∧
      let c' := t.dev.core n
      c'.queue = c.queue ++ es ∧ es.length ≤ 4 ∧
      (es.map (·.eng)).Nodup ∧ (∀ y ∈ es, y.started = false ∧ y.ran = false) ∧
      (c'.queue.filter (fun y => y.instr.touchesLs)).length ≤ 48 ∧ (∀ e, waiting c.queue e ≤ engDepth e → waiting c'.queue e ≤ engDepth e) ∧
      { c' with queue := c.queue, nextSeq := c.nextSeq, pc := c.pc, loops := c.loops, halt := none } = c ∧
      (∀ st, s.dev.fetch n = .fault st → es = [] ∧ c'.halt = some ⟨1, st, c.pc⟩) ∧
      (c.codeLen ≤ c.pc → s.dev.fetch n = .fault stOutOfMap) ∧
      (∀ i e, s.dev.fetch n = .instr i → i.eng = some e → waiting c.queue e < engDepth e →
        es.head? = some ⟨c.nextSeq, c.pc, e, i, false, false, 0⟩)) ∧
  (∀ (n : Fin 96) (eng : Eng) (s : State),
    let c := s.dev.core n
    (∀ e, c.halt = none → c.queue.find? (fun y => y.eng == eng && y.ran) = some e →
      exec (.instructionFinish n eng) s = .next (s.withCore n { c with
        cflags := c.cflags ||| e.flags, queue := c.queue.filter (fun y => y.seq ≠ e.seq) })) ∧
    (c.queue.find? (fun y => y.eng == eng && y.ran) = none → exec (.instructionFinish n eng) s = .next s))

/-- ICACHE_FILL at a RUNNING core for an offset below CODE_LEN whose line is not cached, where that line and the next two lie in
the backed near tier and read without an error: the core's cache then holds the line with the 64 bytes that memory holds, and
nothing changes but that cache and the counter of free values, from which the victim of a full set is drawn (log 18). -/
def Obligations.IcacheFillFillsTheLine : Prop :=
  ∀ (n : Fin 96) (off : Nat) (s : State),
    let c := s.dev.core n
    let a := (c.codeBase + off) / 64 * 64
    c.status = .running → off < c.codeLen → (∀ l ∈ c.cache, l.addr ≠ a) → a + 192 ≤ s.dev.nearTop →
    s.dev.tier.sweeps = [] → s.dev.tier.awaiting = [] → (∀ u ∈ [a, a + 64, a + 128], s.dev.cleanAt u) →
    ∃ cache free, exec (.icacheFill n off) s = .next { s with dev := { s.dev.setCore n { c with cache := cache } with free := free } } ∧
      (∃ l ∈ cache, l.addr = a ∧ l.data = s.dev.peek a 64)

/-- CORE_FAULT_STOP at a core whose issue a fault has stopped and whose queues are empty, with no action and no run waiting and
room in the record buffer: the core is STOPPED, the CORE_RUN that started it learns STOP_REASON 1, the fault status and the
offset; a record of severity Error (3) with the core as source and the status as code is in the buffer under the next number;
registers, masks, accumulators, flags and memory keep their values. CORE_STOP_CANCEL at a core under an immediate CORE_STOP:
instructions that are not finished and not of the data mover leave the queue, a wait ends and registers keep their values. If
a data-mover instruction or a finished one is left the core keeps running it; if nothing is left and the stop is the reason it
halted, with no action and no run waiting, the core is STOPPED with STOP_REASON 2. A core that a fault had halted before the
stop came stays halted for that fault (log 30), whose CORE_FAULT_STOP then stops it. -/
def Obligations.FaultAndStop : Prop :=
  (∀ (n : Fin 96) (h : Halt) (s : State),
    let c := s.dev.core n
    c.status = .running → c.halt = some h → h.reason = 1 → c.queue = [] → c.actions = [] → c.runQ = [] →
    s.dev.recd.buf.length < 4096 →
    ∃ t, exec (.coreFaultStop n) s = .next t ∧
      t.dev.core n = { c with
        status := .stopped, wait := none, halt := none, run := none, lastPc := h.pc, lastWhy := 1, stopReq := false } ∧
      t.dev.runDone = s.dev.runDone ++ c.runEnd n 1 h.status h.pc ∧ t.dev.mem = s.dev.mem ∧
      t.dev.recd.newest = nextSeq s.dev.recd.newest ∧
      (∃ x ∈ t.dev.recd.buf, x.1.seq = nextSeq s.dev.recd.newest ∧ x.1.sev = 3 ∧ x.1.source = BitVec.ofNat 16 n ∧ x.1.code = h.status)) ∧
  (∀ (n : Fin 96) (h : Halt) (s : State),
    let c := s.dev.core n
    let left := c.queue.filter (fun e => e.ran || e.eng == .dmv)
    c.status = .running → c.halt = some h → (h.reason = 2 ∨ c.stopReq = true) →
    ((left ≠ [] ∨ h.reason ≠ 2) → exec (.coreStopCancel n) s = .next (s.withCore n { c with
      queue := left, staging := [], wait := none })) ∧
    (left = [] → h.reason = 2 → c.actions = [] → c.runQ = [] → ∃ t, exec (.coreStopCancel n) s = .next t ∧
      t.dev.core n = { c with
        queue := [], staging := [], wait := none, halt := none, status := .stopped, run := none, lastPc := h.pc, lastWhy := 2,
        stopReq := false } ∧
      t.dev.runDone = s.dev.runDone ++ c.runEnd n 2 h.status h.pc ∧ t.dev.mem = s.dev.mem))

/-- For every instruction of the control, sync, MXA and DMV classes that is legal whatever the core's state, at every value of
every field, decoding the word that its encoding tables give answers that instruction, under every translator version: no bit
of an encoding is dropped. -/
def Obligations.SncEncodingRoundTrip : Prop :=
  ∀ (ver : Nat) (i : CoreInstr) (w : BitVec 64), sncLegal i = true → encodeSnc i = some w → decodeSnc ver w = some i

/-- The word 0x2011_0002_0900_0443 decodes to the MMA of the spec's worked example; words written out from the field tables for
SADD with an immediate, WAITW, MXD and DMV decode to those instructions; a WAITW with CMP 4, an MXD with SEL 3, an MMA with
CLASS 0b11 and a word with ENG 0x8 decode to nothing. -/
def Obligations.SncWorkedExample : Prop :=
  (∀ ver, decodeSnc ver 0x2011000209000443 =
    some (.mma ⟨0, 1, 0, 0, 0, 0, 0, true, false, false, 1, 2, 0, 1, 2, 3⟩)) ∧
  (∀ ver, decodeSnc ver 0x003044020000002A = some (.ctrl .sadd 1 4 0 true 0x2A)) ∧
  (∀ ver, decodeSnc ver 0x1041280000002000 = some (.sync .waitw 2 5 0 0 1)) ∧
  (∀ ver, decodeSnc ver 0x2043040000400000 = some (.mxd ⟨3, 0, 1, 1⟩)) ∧
  (∀ ver, decodeSnc ver 0x7012000001200000 = some (.dmv ⟨2, 0, 2, 1⟩)) ∧
  (∀ ver, decodeSnc ver 0x10412C0000002000 = none) ∧ (∀ ver, decodeSnc ver 0x2040C00000000000 = none) ∧
  (∀ ver, decodeSnc ver 0x201C000000000000 = none) ∧ (∀ ver, decodeSnc ver 0x8010000000000000 = none)

/-- CMP, MAND, MOR, MXOR and MNOT at the head of the arithmetic pipe and released complete: bit j of the destination mask, for j
below VL, takes its result where element j is active, 0 where it is inactive and the instruction zeroes, and keeps its value
otherwise; other masks and everything else keep their values. MPOP puts the number of set bits of the active elements below VL
into its scalar, and with VL = 0 changes nothing. ADD, SUB, MUL, FMA, MIN, MAX, ABS, NEG, saturating ADD and SUB, AND, OR,
XOR, the three shifts, SEL and BCAST, at the head of the arithmetic pipe and released, complete: in a type the operation is
given for, each element below VL takes its result where it is active, 0 where it is inactive and the instruction zeroes, and
its old value otherwise; elements at and above VL, all other vector registers and everything else in the machine keep their
values; the flags of active elements alone are recorded for the instruction's end. In a type that the spec gives no result for
the instruction completes as well, under the same masks and frame: the elements are then free values without flags, and the
counter of free values moves on (log 8). -/
def Obligations.VectorAndMaskInstructions : Prop :=
  ((∀ (i : Instr) (o : VxaOp) (f : VecF) (n : Fin 96) (g : Core → Nat → Bool × Nat) (s : State) (e : QEntry),
    maskForm i o f = some (n, g) → AtHead s n .vxa e → e.instr = .vxa o f →
    let c := s.dev.core n
    let vl := c.vlOf f (tyCount f.ty.toNat)
    ∃ c', exec i s = .next (s.withCore n c') ∧
      (∀ j, j < 1024 → (c'.mreg f.vd.toNat).getLsbD j = written c f vl j (g c j).1 false ((c.mreg f.vd.toNat).getLsbD j)) ∧
      (∀ r, r < 16 → r ≠ f.vd.toNat % 16 → c'.mreg r = c.mreg r) ∧
      c'.queue = queueAfter c e (c.actFlags f ((List.range vl).map (fun j => (0, (g c j).2)))) ∧
      { c' with m := c.m, queue := c.queue } = c) ∧
  (∀ (n : Fin 96) (f : VecF) (s : State) (e : QEntry), AtHead s n .vxa e → e.instr = .vxa .mpop f →
    let c := s.dev.core n
    let vl := c.vlOf f (tyCount f.ty.toNat)
    ∃ c', exec (.mpop n) s = .next (s.withCore n c') ∧
      (vl ≠ 0 → c'.sreg f.vd.toNat =
        BitVec.ofNat 32 ((List.range vl).countP (fun j => c.on f j && (c.mreg f.va.toNat).getLsbD j))) ∧
      (∀ r, r < 32 → (vl = 0 ∨ r ≠ f.vd.toNat % 32) → c'.sreg r = c.sreg r) ∧
      c'.queue = queueAfter c e 0 ∧ { c' with s := c.s, queue := c.queue } = c)) ∧
  (∀ (i : Instr) (o : VxaOp) (f : VecF) (n : Fin 96) (g : Core → Nat → Option (Nat × Nat)) (s : State) (e : QEntry),
    elemForm i o f = some (n, g) → AtHead s n .vxa e → e.instr = .vxa o f →
    let c := s.dev.core n
    let ty := f.ty.toNat
    let vl := c.vlOf f (tyCount ty)
    ∃ c' free fl, ∃ val : Nat → Nat, exec i s = .next ({ s with dev := { s.dev with free := free } }.withCore n c') ∧
      ((∀ j, j < vl → (g c j).isSome = true) → free = s.dev.free ∧ (∀ j, j < vl → val j = ((g c j).getD (0, 0)).1) ∧
        fl = c.actFlags f ((List.range vl).map (fun j => (g c j).getD (0, 0)))) ∧
      (¬ (∀ j, j < vl → (g c j).isSome = true) → fl = 0) ∧
      (∀ j, j < tyCount ty → c'.elem f.vd.toNat ty j = written c f vl j (val j % 2 ^ tyBits ty) 0 (c.elem f.vd.toNat ty j)) ∧
      (∀ r l, r < 64 → l < 512 → r ≠ f.vd.toNat → c'.lane r l = c.lane r l) ∧
      c'.queue = queueAfter c e fl ∧ { c' with v := c.v, queue := c.queue } = c)

/-- RED at the head of the arithmetic pipe and released, with VL not 0, completes: its scalar holds the value at the root of
R135's tree, in which an inactive element or one at or above VL is the identity; the tree is taken to the level above the
lowest that covers VL, where the identity enters once more, so that a sum of negative zeros is +0 (the model's reading of that
sentence, log 8). FP64 results fill the scalar pair. With VL = 0 no register changes. Nothing else in the machine changes.
SCAN in FP32, FP64 or INT32 and SCAN.LR in FP32 or FP64, at the head of the arithmetic pipe and released, with VL not 0,
complete: an inclusive scan writes each active element below VL with the result that R137's levels and carry give it; an
exclusive one writes the identity at a segment start, the carry at element 0, and otherwise the inclusive result at i - 1; the
carry scalar takes the inclusive result at VL - 1 in both. With VL = 0 no register changes. In another type the scan completes
too, with free values in the same places (log 8). Elements at and above VL, every other vector register and scalar, memory and
the other cores keep their values. -/
def Obligations.ReductionsAndScans : Prop :=
  (∀ (n : Fin 96) (o : RedOp) (f : VecF) (s : State) (e : QEntry), AtHead s n .vxa e → e.instr = .vxa (.red o) f →
    let c := s.dev.core n
    let ty := f.ty.toNat
    let vl := c.vlOf f (tyCount ty)
    let op (a b : Nat) := (elemOp2 (redOp2 o) (redTy ty) a b).getD (0, 0)
    let leaf (j : Nat) := (if j < vl ∧ c.on f j = true then redWiden ty (c.elem f.va.toNat ty j) else redZero o ty, 0)
    ∃ c' fl, exec (.red n) s = .next (s.withCore n c') ∧ c'.queue = queueAfter c e fl ∧ { c' with s := c.s, queue := c.queue } = c ∧
      (vl = 0 → c'.s = c.s ∧ fl = 0) ∧
      (∀ r, r < 32 → r ≠ f.vd.toNat % 32 → (ty = 3 → r ≠ (f.vd.toNat + 1) % 32) → c'.sreg r = c.sreg r) ∧
      (∀ m, vl ≤ 2 ^ m → (m = 0 ∨ 2 ^ (m - 1) < vl) → vl ≠ 0 →
        (ty ≠ 3 → c'.sreg f.vd.toNat = BitVec.ofNat 32 (redNode op leaf (m + 1) 0).1) ∧
        (ty = 3 → c'.spair f.vd.toNat = (redNode op leaf (m + 1) 0).1 % 2 ^ 64) ∧ fl = (redNode op leaf (m + 1) 0).2)) ∧
  (∀ (n : Fin 96) (f : VecF) (s : State) (e : QEntry), AtHead s n .vxa e →
    let c := s.dev.core n
    let ty := f.ty.toNat
    let vl := c.vlOf f (tyCount ty)
    let seg (j : Nat) : Bool := decide (j < vl) && !f.vc.getLsbD 5 && (c.mreg f.vc.toNat).getLsbD j
    let out (ident : Nat) (incl : Nat → Nat) (j : Nat) : Nat :=
      if f.sub.getLsbD 0 then (if seg j then ident else if j = 0 then c.carry f else incl (j - 1)) else incl j
    let gives (i : Instr) (free ident : Nat) (incl : Nat → Nat) : Prop := ∃ c',
      exec i s = .next ({ s with dev := { s.dev with free := free } }.withCore n c') ∧
      { c' with v := c.v, s := c.s, queue := c.queue } = c ∧
      (∀ r, r < 32 → r ≠ f.sub.toNat / 2 % 32 → (ty = 3 → r ≠ (f.sub.toNat / 2 + 1) % 32) → c'.sreg r = c.sreg r) ∧
      (∀ j, j < tyCount ty → c'.elem f.vd.toNat ty j = written c f vl j (out ident incl j % 2 ^ tyBits ty) 0 (c.elem f.vd.toNat ty j)) ∧
      (∀ r l, r < 64 → l < 512 → r ≠ f.vd.toNat → c'.lane r l = c.lane r l) ∧
      (vl ≠ 0 → c'.carry f = incl (vl - 1) % 2 ^ tyBits ty) ∧ (vl = 0 → c'.s = c.s) ∧
      (∃ fl, c'.queue = queueAfter c e fl)
    (∀ o, e.instr = .vxa (.scan o) f → ty = 0 ∨ ty = 3 ∨ ty = 4 →
      let op (a b : Nat) := ((elemOp2 (scanOp2 o) ty a b).getD (0, 0)).1
      gives (.scan n) s.dev.free (scanZero o ty) (scanResult op (op (c.carry f)) (c.elem f.va.toNat ty) seg)) ∧
    (∀ i, (∃ o, e.instr = .vxa (.scan o) f ∧ i = .scan n ∧ ty ≠ 0 ∧ ty ≠ 3 ∧ ty ≠ 4) ∨
        (e.instr = .vxa .scanLr f ∧ i = .scanLr n ∧ ty ≠ 0 ∧ ty ≠ 3) →
      ∃ (free : Nat) (val : Nat → Nat) (c' : Core), exec i s = .next ({ s with dev := { s.dev with free := free } }.withCore n c') ∧
        { c' with v := c.v, s := c.s, queue := c.queue } = c ∧ (∃ fl, c'.queue = queueAfter c e fl) ∧
        (∀ j, j < tyCount ty → c'.elem f.vd.toNat ty j = written c f vl j (val j % 2 ^ tyBits ty) 0 (c.elem f.vd.toNat ty j)) ∧
        (∀ r l, r < 64 → l < 512 → r ≠ f.vd.toNat → c'.lane r l = c.lane r l) ∧
        (∀ r, r < 32 → r ≠ f.sub.toNat / 2 % 32 → c'.sreg r = c.sreg r) ∧ (vl = 0 → c'.s = c.s)) ∧
    (e.instr = .vxa .scanLr f → ty = 0 ∨ ty = 3 →
      let fma (a b x : Nat) := ((elemFma ty a b x).getD (0, 0)).1
      let mul (a b : Nat) := ((elemOp2 .mul ty a b).getD (0, 0)).1
      gives (.scanLr n) s.dev.free 0 (fun j => (scanResult (fun l r => (mul r.1 l.1, fma r.1 l.2 r.2)) (fun x => (x.1, fma x.1 (c.carry f) x.2))
        (fun k => (c.elem f.va.toNat ty k, c.src2 f ty k)) seg j).2)))

/-- At the head of the arithmetic pipe and released: CVT writes element j, where active and below VL, with the one rounding of R55
to R60 under RM, SAT, the seed and the index base plus j, into register VD + floor(j / elements per destination register)
modulo 64, and no other element; ROTB writes each active lane below VL with bytes SH onward of VA followed by VB, so that SH =
0 copies VA; PERM writes lane j with the lane of VA that lane j of VB names; in both a broadcast scalar stands for VB where
SUB[6] is 1 (the spec lays out no operands for ROTB's count and PERM: log 8). No scalar, mask, accumulator, memory or other
core changes. -/
def Obligations.ConvertRotatePermute : Prop :=
  ∀ (n : Fin 96) (f : VecF) (s : State) (e : QEntry), AtHead s n .vxa e →
    let c := s.dev.core n
    let frame (i : Instr) (c' : Core) (fl : Nat) : Prop := exec i s = .next (s.withCore n c') ∧ c'.queue = queueAfter c e fl ∧
      { c' with v := c.v, queue := c.queue } = c
    (∀ t : BitVec 3, e.instr = .vxa (.cvt t) f →
      let ty := f.ty.toNat
      let vl := c.vlOf f (tyCount ty)
      let rm := f.sub.toNat / 8 % 8
      let k := f.vc.toNat % 32
      let seed := (c.sreg k).toNat + (c.sreg (k + 1)).toNat * 2 ^ 32
      let res (j : Nat) := (tyElem t.toNat).encode ⟨rm, f.sub.getLsbD 2, rndFor rm seed ((c.sreg (k + 2)).toNat + j)⟩
        ((tyElem ty).decode (c.elem f.va.toNat ty j))
      ∃ c', frame (.cvt n) c' (c.actFlags f ((List.range vl).map res)) ∧
        (∀ j, j < tyCount ty → c'.elem (f.vd.toNat + j / tyCount t.toNat) t.toNat (j % tyCount t.toNat) =
          written c f vl j ((res j).1 % 2 ^ tyBits t.toNat) 0
            (c.elem (f.vd.toNat + j / tyCount t.toNat) t.toNat (j % tyCount t.toNat))) ∧
        (∀ r j, r < 64 → j < tyCount t.toNat →
          (∀ k, k < vl → r ≠ (f.vd.toNat + k / tyCount t.toNat) % 64 ∨ j ≠ k % tyCount t.toNat) →
          c'.elem r t.toNat j = c.elem r t.toNat j)) ∧
    (e.instr = .vxa .rotb f →
      let vl := c.vlOf f 512
      let sh := (if f.sub.getLsbD 0 then f.sub.toNat / 2 % 32 * 64 + f.vc.toNat else (c.sreg f.vc.toNat).toNat) % 2048
      let byte (b : Nat) : Nat := if b < 2048 then bits (c.lane f.va.toNat (b / 4)).toNat (8 * (b % 4)) 8
        else bits (c.src2 f 4 ((b - 2048) / 4)) (8 * (b % 4)) 8
      ∃ c', frame (.rotb n) c' 0 ∧
        (∀ l b, l < 512 → b < 4 → bits (c'.lane f.vd.toNat l).toNat (8 * b) 8 =
          written c f vl l (byte (sh + 4 * l + b)) 0 (bits (c.lane f.vd.toNat l).toNat (8 * b) 8)) ∧
        (∀ r l, r < 64 → l < 512 → r ≠ f.vd.toNat → c'.lane r l = c.lane r l)) ∧
    (e.instr = .vxa .perm f →
      let vl := c.vlOf f 512
      ∃ c', frame (.perm n) c' 0 ∧
        (∀ l, l < 512 → c'.lane f.vd.toNat l =
          written c f vl l (c.lane f.va.toNat (c.src2 f 4 l % 512)) 0 (c.lane f.vd.toNat l)) ∧
        (∀ r l, r < 64 → l < 512 → r ≠ f.vd.toNat → c'.lane r l = c.lane r l))

/-- TOPK at the head of the arithmetic pipe and released completes: in each segment that starts below VL, output j < K below VL
holds a candidate that exactly j of the segment's candidates rank before (by value, then +0 above -0, then lower offset), with
its offset in the index register, or -Inf and -1 when there are no more than j candidates (where VB is VD the register holds
the offset: log 8); elements at or above VL and the rest of each segment keep their values, as does everything else;
FP_INVALID is recorded exactly when an active element below VL is a NaN. -/
def Obligations.TopkSelectsTheLargest : Prop :=
  ∀ (n : Fin 96) (f : VecF) (s : State) (e : QEntry), AtHead s n .vxa e → e.instr = .vxa .topk f →
    let c := s.dev.core n
    let vl := c.vlOf f 512
    let w := 8 * 2 ^ min (f.sub.toNat % 8) 6
    let k := f.vc.toNat % 8 + 1
    let val (i : Nat) : FVal := f32 (c.lane f.va.toNat i)
    let cand (g o : Nat) : Prop := o < w ∧ g * w + o < vl ∧ c.on f (g * w + o) = true ∧ val (g * w + o) ≠ .nan
    let before (g o p : Nat) : Bool := topBefore (o, val (g * w + o)) (p, val (g * w + p))
    let rank (g o : Nat) : Nat := (List.range w).countP (fun p =>
      decide (g * w + p < vl) && c.on f (g * w + p) && decide (val (g * w + p) ≠ .nan) && before g p o)
    ∃ c' fl, exec (.topk n) s = .next (s.withCore n c') ∧ c'.queue = queueAfter c e fl ∧ { c' with v := c.v, queue := c.queue } = c ∧
      (fl = if (List.range vl).any (fun i => c.on f i && decide (val i = .nan)) then 1 else 0) ∧
      (∀ g j, g * w < vl → g * w + w ≤ 512 → j < k → g * w + j < vl →
        (∀ o, cand g o → rank g o = j →
          (f.vb ≠ f.vd → c'.lane f.vb.toNat (g * w + j) = c.lane f.va.toNat (g * w + o)) ∧ c'.lane f.vd.toNat (g * w + j) = BitVec.ofNat 32 o) ∧
        ((∀ o, cand g o → rank g o ≠ j) →
          (f.vb ≠ f.vd → c'.lane f.vb.toNat (g * w + j) = 0xFF800000) ∧ c'.lane f.vd.toNat (g * w + j) = 0xFFFFFFFF)) ∧
      (∀ i, i < 512 → (vl ≤ i ∨ k ≤ i % w) →
        c'.lane f.vb.toNat i = c.lane f.vb.toNat i ∧ c'.lane f.vd.toNat i = c.lane f.vd.toNat i) ∧
      (∀ r l, r < 64 → l < 512 → r ≠ f.vd.toNat → r ≠ f.vb.toNat → c'.lane r l = c.lane r l)

/-- LD, ST, LDQ, STQ, STQS, GATH, SCAT, SCADD and XACC, at the head of the memory pipe and released, on a core not yet halted, in
a type and format the instruction converts, where one of the pieces it touches reaches past 8 MiB: the core stops issuing with
ACCESS_OUT_OF_MAP at the instruction, the instruction and the later ones of its queue are discarded, other engines'
instructions stay, and no register, no memory and nothing else changes. LD and LDQ at the head of the memory pipe and
released, on a local store that reads without an error and with every piece inside it, complete. LD: with address bits 5:0
ignored (VX_ALIGN recorded when they are not 0 and VL is not 0), each active element below VL takes its own bytes. LDQ (FP32,
BF16 or FP16 from FP8, FP6, FP4, INT8 or INT4): each active element below VL takes the exact decoded value, times its block's
scale (element j's scale is byte j / 32 of the array: log 8), rounded once under RM. Inactive elements become 0 in zero mode
and keep their value in merge mode; other registers, memory and everything else keep theirs. -/
def Obligations.LoadsAndMemoryFaults : Prop :=
  (∀ (o : VxmOp) (n : Fin 96) (i : Instr) (f : MemF) (s : State) (e : QEntry),
    vxmRow o n = some i → AtHead s n .vxm e → e.instr = .vxm o f → (s.dev.core n).halt = none →
    (o = .stq ∨ o = .stqs → f.ty.toNat < 3 ∧ f.fmt ≤ 6) →
    (∃ p ∈ vxmReach o f (s.dev.core n), 0x800000 < p.1 + p.2) →
    exec i s = .next (s.withCore n (faultCore (s.dev.core n) e stOutOfMap))) ∧
  (∀ (n : Fin 96) (f : MemF) (s : State) (e : QEntry), AtHead s n .vxm e → CleanLs s n →
    let c := s.dev.core n
    let ty := f.ty.toNat
    let vl := c.vlMem f (tyCount ty)
    let gives (i : Instr) (fl : Nat) (val : Nat → Nat) : Prop := ∃ c', exec i s = .next (s.withCore n c') ∧
      (∀ j, j < tyCount ty → c'.elem f.vr.toNat ty j =
        if j < vl then (if c.onMem f j then val j % 2 ^ tyBits ty else if f.mz then 0 else c.elem f.vr.toNat ty j)
        else c.elem f.vr.toNat ty j) ∧
      (∀ r l, r < 64 → l < 512 → r ≠ f.vr.toNat → c'.lane r l = c.lane r l) ∧
      c'.queue = queueAfter c e fl ∧ { c' with v := c.v, queue := c.queue } = c
    (e.instr = .vxm .ld f → (∀ p ∈ vxmReach .ld f c, p.1 + p.2 ≤ 0x800000) →
      gives (.ld n) (if vl = 0 ∨ c.memAddr f 64 % 64 = 0 then 0 else 16)
        (fun j => lsNum s.dev n (c.memAddr f 64 / 64 * 64 + tyBits ty / 8 * j) (tyBits ty / 8))) ∧
    (e.instr = .vxm .ldq f → ty < 3 → f.fmt ≤ 6 → (∀ p ∈ vxmReach .ldq f c, p.1 + p.2 ≤ 0x800000) →
      let res (j : Nat) : Nat × Nat :=
        let l := rowLoc f.fmt (c.areg f.a.toNat).toNat j
        (tyElem ty).encode ⟨f.rm, f.sat, rndFor f.rm (c.sqSeed f) (c.sqBase f + j)⟩
          (scaledValue f.fmt (l.extract (s.dev.peek (lsAddr n + l.addr) l.n))
            (if f.sub.getLsbD 0 then none else some (lsNum s.dev n ((c.areg f.scaleA).toNat + j / 32) 1)))
      gives (.ldq n) ((c.actives f vl).foldl (fun b j => b ||| (res j).2) 0) (fun j => (res j).1)))

/-- ST, STQ and STQS at the head of the memory pipe and released, in types and formats they convert, on a clean local store with
every piece inside it, complete: every element or scale they write that shares no bit with another of theirs reads back as its
encoding; every byte outside the bytes of their elements and scales reads as before; only bytes and finiteness bits of the
memory change, no register changes, and the flags are those of the rule (alignment for ST, conversion for STQ and STQS). -/
def Obligations.StoresWriteTheirElements : Prop :=
  ∀ (o : VxmOp) (i : Instr) (n : Fin 96) (f : MemF) (s : State) (e : QEntry),
    (o = .st ∨ ((o = .stq ∨ o = .stqs) ∧ f.ty.toNat < 3 ∧ f.fmt ≤ 6)) → vxmRow o n = some i → AtHead s n .vxm e →
    e.instr = .vxm o f → CleanLs s n → (∀ p ∈ vxmReach o f (s.dev.core n), p.1 + p.2 ≤ 0x800000) →
    let w := storePuts o f (s.dev.core n)
    ∃ bytes fin, exec i s = .next (s.stored n e w.2 bytes fin) ∧
      (∀ p ∈ w.1, (∀ q ∈ w.1, q = p ∨ p.apart q) → p.loc.extract (getBytes bytes (lsAddr n + p.loc.addr) p.loc.n) = p.raw % 2 ^ p.loc.w) ∧
      (∀ a, (∀ p ∈ w.1, ¬ p.covers n a) → Tab.get bytes a 0 = Tab.get s.dev.mem.bytes a 0)

/-- GATH at the head of the memory pipe and released, on a clean local store with every target inside it, completes: an active
element below VL takes the element at base + x * size for the place x its index names under IDXP (itself when 0 <= x < n; the
clamped or wrapped one under those policies), or all bits 0 when the policy zero-fills, also in merge mode; IDX_OOB is
recorded exactly when an active element was zero-filled, VX_ALIGN exactly when the base's low bits are not 0; no memory and no
other register changes. SCADD with deterministic mode on, in FP32, BF16, FP64 or INT32 with elements of the type's width, at
the head of the memory pipe and released, on a clean local store with every target inside it, completes: each place holds the
value it held with the values of the active elements that name it added in ascending lane order, each addition rounded once.
Every byte outside the named places reads as before, and no register changes. -/
def Obligations.GatherAndScatterAdd : Prop :=
  (∀ (n : Fin 96) (f : MemF) (s : State) (e : QEntry), AtHead s n .vxm e → e.instr = .vxm .gath f → CleanLs s n →
    (∀ p ∈ vxmReach .gath f (s.dev.core n), p.1 + p.2 ≤ 0x800000) →
    let c := s.dev.core n
    let ty := f.ty.toNat
    let vl := c.vlMem f (tyCount ty)
    let bound := (c.sreg f.bound).toNat
    let place (j : Nat) : Option Nat := policy f.idxp bound (c.index f j)
    let val (j : Nat) : Nat := match place j with
      | some x => lsNum s.dev n (c.tabBase f + x * f.size) f.size
      | none => 0
    (∀ j, 0 ≤ c.index f j → c.index f j < bound → place j = some (c.index f j).toNat) ∧
    ∃ c', exec (.gath n) s = .next (s.withCore n c') ∧
      (∀ j, j < tyCount ty → c'.elem f.vr.toNat ty j =
        if j < vl then (if c.onMem f j then val j % 2 ^ tyBits ty else if f.mz then 0 else c.elem f.vr.toNat ty j)
        else c.elem f.vr.toNat ty j) ∧
      (∀ r l, r < 64 → l < 512 → r ≠ f.vr.toNat → c'.lane r l = c.lane r l) ∧
      c'.queue = queueAfter c e (if vl = 0 then 0 else
        (if (c.areg f.a.toNat).toNat % f.size = 0 then 0 else 16) |||
        (if (List.range vl).any (fun j => c.onMem f j && (place j).isNone) then 32 else 0)) ∧
      { c' with v := c.v, queue := c.queue } = c) ∧
  (∀ (n : Fin 96) (f : MemF) (s : State) (e : QEntry), AtHead s n .vxm e → CleanLs s n →
    let c := s.dev.core n
    let ty := f.ty.toNat
    let vl := c.vlMem f (tyCount ty)
    let hits := hitsOf (c.targets f vl)
    let outside (a : Nat) : Prop := ∀ h ∈ hits, a < lsAddr n + h.2 ∨ lsAddr n + h.2 + f.size ≤ a
    e.instr = .vxm .scadd f → s.dev.rd F.DET_MODE = 1 → ty = 0 ∨ ty = 1 ∨ ty = 3 ∨ ty = 4 → 8 * f.size = tyBits ty →
      (∀ p ∈ vxmReach .scadd f c, p.1 + p.2 ≤ 0x800000) →
      ∃ bytes fin fl, exec (.scadd n) s = .next (s.stored n e fl bytes fin) ∧
        (∀ h ∈ hits, leNat (getBytes bytes (lsAddr n + h.2) f.size) =
          (hits.foldl (fun v k => if k.2 = h.2 then ((elemOp2 .add ty v (c.elem f.vr.toNat ty k.1)).getD (0, 0)).1 else v)
            (lsNum s.dev n h.2 f.size)) % 2 ^ (8 * f.size)) ∧
        (∀ a, outside a → Tab.get bytes a 0 = Tab.get s.dev.mem.bytes a 0))

/-- SCAT, in every mode, at the head of the memory pipe and released, on a clean local store with every target inside it,
completes: the place that active element j names, after the policy is applied, holds j's value when no higher active element
names it; the others are dropped. Every byte outside the named places reads as before, and no register changes. -/
def Obligations.ScatterHighestLaneWins : Prop :=
  ∀ (n : Fin 96) (f : MemF) (s : State) (e : QEntry), AtHead s n .vxm e → CleanLs s n → e.instr = .vxm .scat f →
    (∀ p ∈ vxmReach .scat f (s.dev.core n), p.1 + p.2 ≤ 0x800000) →
    let c := s.dev.core n
    let ty := f.ty.toNat
    let hits := hitsOf (c.targets f (c.vlMem f (tyCount ty)))
    ∃ bytes fin fl, exec (.scat n) s = .next (s.stored n e fl bytes fin) ∧
      (∀ h ∈ hits, (∀ k ∈ hits, k.2 = h.2 → k.1 ≤ h.1) →
        leNat (getBytes bytes (lsAddr n + h.2) f.size) = c.elem f.vr.toNat ty h.1 % 2 ^ (8 * f.size)) ∧
      (∀ a, (∀ h ∈ hits, a < lsAddr n + h.2 ∨ lsAddr n + h.2 + f.size ≤ a) → Tab.get bytes a 0 = Tab.get s.dev.mem.bytes a 0)

/-- XACC at the head of the memory pipe and released, on a clean local store with its three arrays inside it, where the
destination is apart from each source or equal to it, completes: accumulator k of the destination is the combination of
accumulators k of the sources (VALUE fields added modulo 2^616 and flags ORed for a matching pair; VALUE zero with NAN set
otherwise; MODE and EW of the first), every byte outside the destination array reads as before, no register and no flag
changes; COUNT = 0 changes nothing. -/
def Obligations.XaccCombinesAccumulators : Prop :=
  ∀ (n : Fin 96) (f : MemF) (s : State) (e : QEntry), AtHead s n .vxm e → e.instr = .vxm .xacc f → CleanLs s n →
    (∀ p ∈ vxmReach .xacc f (s.dev.core n), p.1 + p.2 ≤ 0x800000) →
    let c := s.dev.core n
    let k := (c.sreg f.vr.toNat).toNat
    let a := (c.sreg (f.vr.toNat + 1)).toNat
    let b := (c.sreg (f.vr.toNat + 2)).toNat
    let dst := c.memAddr f 64
    let old (x j : Nat) : ExAcc := ExAcc.ofBytes (s.dev.peek (lsAddr n + x + 80 * j) 80)
    (∀ x ∈ [a, b], x = dst ∨ x + 80 * k ≤ dst ∨ dst + 80 * k ≤ x) →
    ∃ bytes fin, exec (.xacc n) s = .next (s.stored n e 0 bytes fin) ∧
      (∀ j, j < k → getBytes bytes (lsAddr n + dst + 80 * j) 80 = ((old a j).combine (old b j)).toBytes) ∧
      (∀ x, x < lsAddr n + dst ∨ lsAddr n + dst + 80 * k ≤ x → Tab.get bytes x 0 = Tab.get s.dev.mem.bytes x 0)

/-- MMA at the head of the MXA queue and released, with any of the scalars M, N and K that it names zero, completes with no effect
but its own place in the queue, at no flag: it reads no operand, so no error is found and no counter moves; no set is cleared,
C is not added, and no tag changes. -/
def Obligations.ZeroSizedMmaDoesNothing : Prop :=
  ∀ (n : Fin 96) (f : MmaF) (s : State) (e : QEntry), AtHead s n .mxa e → e.instr = .mma f →
    let c := s.dev.core n
    (c.sreg f.sm.toNat).toNat % 2 ^ 24 = 0 ∨ (c.sreg f.sn.toNat).toNat % 2 ^ 24 = 0 ∨ (c.sreg f.sk.toNat).toNat % 2 ^ 24 = 0 →
    exec (.mma n) s = .next (s.withCore n { c with queue := queueAfter c e 0 })

/-- MMA at the head of the MXA queue and released: where it would read an ordinary MX operand transposed it stops the core with
SCALE_AXIS and changes neither set nor tag; otherwise, where its operands read without an error as rows A, columns B and tile
C, it completes: the set has the instruction's tag, each output below M and N holds C added first and then each group of 32 in
ascending K (FP32 with one rounding a group; 48-bit integers modulo 2^48; exact accumulators term by term), each other output
holds what the set it accumulates onto held, MXA_SET_RETAG is recorded exactly when it retags without CLEAR, and no other set,
register or memory changes. -/
def Obligations.MmaAccumulatesItsTile : Prop :=
  ∀ (n : Fin 96) (f : MmaF) (s : State) (e : QEntry), AtHead s n .mxa e → e.instr = .mma f →
    let c := s.dev.core n
    let (m, nn, k) := c.mmaDims f
    (m ≠ 0 → nn ≠ 0 → k ≠ 0 → c.scaleAxis f = true → c.halt = none →
      exec (.mma n) s = .next (s.withCore n (faultCore c e stScaleAxis))) ∧
    (∀ x : MmaIn, m ≠ 0 → nn ≠ 0 → k ≠ 0 → c.scaleAxis f = false → s.dev.readMma n f = (s.dev, stOk, x) →
      let z := mmaBase c f
      let cTile (i j : Nat) : Option FVal := if f.init then some ((x.c.getD i []).getD j FVal.zero) else none
      let groups (i j : Nat) := (x.a.getD i []).zip (x.b.getD j [])
      ∃ t' fl, exec (.mma n) s = .next (s.withCore n { c with
          acc := Tab.set c.acc f.acc.toNat t' AccSet.reset, queue := queueAfter c e fl }) ∧
        t'.tag = f.tag ∧
        (fl.testBit 3 = true ↔ f.clear = false ∧ (c.accSet f.acc.toNat).tag ≠ f.tag) ∧
        (∀ i j, i < m → j < nn → let o := i * f.tag.cols + j
          (f.tag.cls = .lp → f.isInt = false → Tab.get t'.fp o 0 = (outF32 (Tab.get z.fp o 0) (cTile i j) (groups i j)).1) ∧
          (f.tag.cls = .lp → f.isInt = true → Tab.get t'.int o 0 = (outInt (Tab.get z.int o 0) (cTile i j) (groups i j)).1) ∧
          (f.tag.cls ≠ .lp → Tab.get t'.ex o exZero = (outEx (Tab.get z.ex o exZero) (cTile i j) (groups i j)).1)) ∧
        (∀ i j, i < f.tag.rows → j < f.tag.cols → ¬ (i < m ∧ j < nn) → let o := i * f.tag.cols + j
          Tab.get t'.fp o 0 = Tab.get z.fp o 0 ∧ Tab.get t'.int o 0 = Tab.get z.int o 0 ∧ Tab.get t'.ex o exZero = Tab.get z.ex o exZero))

/-- At the head of the MXA queue and released, on a clean local store: MXR with r1 < r0 or r0 not below the set's row count
completes and changes nothing. Any other MXR, its epilogue's operands reading without an error (a float set; the others have
none), completes where every element and scale it writes lies in the store: each one that shares no bit with another reads
back as its encoding, every other byte reads as before, the set keeps its value or, with CLR, has the rows it read cleared
under the EW in force, and the flags are those of the epilogue and the conversions; where one lies outside, it stops the core
with ACCESS_OUT_OF_MAP and writes nothing. MXS save writes the raw form of the set (65,536, 131,072 or 81,920 bytes) at A + 64
* IMM20 and no other byte; MXS restore gives the set that the bytes there spell, under the tag of the save at that address, or
under the set's own where nothing was saved there (log 12); both stop the core where the form reaches past the store. MXD
loads a descriptor of 128 bytes, or stops the core where it reaches past the store, or sets the mask or metadata address;
MXSET sets EW. Nothing else changes. -/
def Obligations.ReadOutAndRawForms : Prop :=
  ∀ (n : Fin 96) (s : State) (e : QEntry), AtHead s n .mxa e → CleanLs s n →
    let c := s.dev.core n
    let stops (i : Instr) : Prop := c.halt = none → exec i s = .next (s.withCore n (faultCore c e stOutOfMap))
    (∀ (f : MxrF) (x : Epi), e.instr = .mxr f →
      let t := c.accSet f.acc.toNat
      let rows := c.mxrRows f
      let w := mxrWrites c f x
      ((c.sreg f.shi.toNat).toNat < (c.sreg f.slo.toNat).toNat ∨ t.tag.rows ≤ (c.sreg f.slo.toNat).toNat →
        exec (.mxr n) s = .next (s.withCore n { c with queue := queueAfter c e 0 })) ∧
      (rows.2 ≠ 0 →
        (t.tag.cls = .lp ∧ t.tag.int = false → s.dev.readEpi n f rows.1 rows.2 t.tag.cols = (s.dev, stOk, x)) →
        (¬ (t.tag.cls = .lp ∧ t.tag.int = false) → x = ⟨none, none, none, none⟩) →
        ((∃ p ∈ w.1, 0x800000 < p.loc.addr + p.loc.n) → stops (.mxr n)) ∧
        ((∀ p ∈ w.1, p.loc.addr + p.loc.n ≤ 0x800000) → ∃ bytes fin,
          exec (.mxr n) s = .next ((s.stored n e w.2 bytes fin).withCore n { c with
            acc := if f.clr then Tab.set c.acc f.acc.toNat (t.clearRows c.ew rows.1 rows.2) AccSet.reset else c.acc
            queue := queueAfter c e w.2 }) ∧
          (∀ p ∈ w.1, (∀ q ∈ w.1, q = p ∨ p.apart q) →
            p.loc.extract (getBytes bytes (lsAddr n + p.loc.addr) p.loc.n) = p.raw % 2 ^ p.loc.w) ∧
          (∀ a, (∀ p ∈ w.1, ¬ p.covers n a) → Tab.get bytes a 0 = Tab.get s.dev.mem.bytes a 0)))) ∧
    (∀ f : MxsF, e.instr = .mxs f →
      let t := c.accSet f.acc.toNat
      let a := (c.areg f.a.toNat).toNat + 64 * f.imm.toNat
      let tag := (Tab.get c.savedTags a none).getD t.tag
      (f.restore = false → 0x800000 < a + t.tag.rawBytes → stops (.mxs n)) ∧
      (f.restore = false → a + t.tag.rawBytes ≤ 0x800000 → ∃ bytes fin,
        exec (.mxs n) s = .next ((s.stored n e 0 bytes fin).withCore n { c with
          savedTags := Tab.put c.savedTags a (some t.tag), queue := queueAfter c e 0 }) ∧
        getBytes bytes (lsAddr n + a) t.tag.rawBytes = t.raw ∧
        (∀ x, x < lsAddr n + a ∨ lsAddr n + a + t.tag.rawBytes ≤ x → Tab.get bytes x 0 = Tab.get s.dev.mem.bytes x 0)) ∧
      (f.restore = true → 0x800000 < a + tag.rawBytes → stops (.mxs n)) ∧
      (f.restore = true → a + tag.rawBytes ≤ 0x800000 → exec (.mxs n) s = .next (s.withCore n { c with
        acc := Tab.set c.acc f.acc.toNat (AccSet.ofRaw tag (s.dev.peek (lsAddr n + a) tag.rawBytes)) AccSet.reset
        queue := queueAfter c e 0 }))) ∧
    (∀ f : MxdF, e.instr = .mxd f → f.sel.toNat < 3 →
      let a := (c.areg f.a.toNat).toNat + 8 * f.imm.toNat
      let old := c.slot f.slot.toNat
      let new : Slot := if f.sel = 0 then { old with desc := s.dev.peek (lsAddr n + a) 128 }
        else if f.sel = 1 then { old with mask := a } else { old with metaAddr := a }
      (f.sel = 0 → 0x800000 < a + 128 → stops (.mxd n)) ∧
      ((f.sel = 0 → a + 128 ≤ 0x800000) →
        exec (.mxd n) s = .next (s.withCore n { c with slots := Tab.set c.slots f.slot.toNat new Slot.reset, queue := queueAfter c e 0 }))) ∧
    (∀ ew, e.instr = .mxset ew → exec (.mxset n) s = .next (s.withCore n { c with ew := ew, queue := queueAfter c e 0 }))

/-- SFN, GACT and SFMP in FP32, BF16 or FP16, at the head of the SFU's queue and released, complete: each active element below VL
takes one function of its operands, inactive ones 0 or their old value by the masking mode, and nothing else changes. SFN: the
result meets what R153, R154, R157 and R164 fix (a canonical NaN with FP_INVALID for a NaN and for reserved codes, RELU, IDENT
and RELU2 rounded once, an empty slot, a user image, RCP and SQRT correctly rounded, the results at zeros and infinities of
built-in images); elsewhere one of the results that differ from the exact value by less than one unit in the last place, which
the image version chooses (log 10). GACT: NaN for a NaN, RELU(g) x u and g x u rounded once. SFMP: with an empty live bank a
canonical NaN and SFU_NO_TABLE in each active element; with no step nothing is written; else OUT after the steps in order,
rounded once. -/
def Obligations.SpecialFunctionsWriteTheirResults : Prop :=
  ∀ (n : Fin 96) (f : VecF) (s : State) (e : QEntry), AtHead s n .sfu e → f.ty.toNat < 3 →
    let c := s.dev.core n
    let ty := f.ty.toNat
    let vl := c.vlOf f (tyCount ty)
    let gives (i : Instr) (res : Nat → Nat × Nat) : Prop := ∃ c', exec i s = .next (s.withCore n c') ∧
      (∀ j, j < tyCount ty → c'.elem f.vd.toNat ty j = written c f vl j ((res j).1 % 2 ^ tyBits ty) 0 (c.elem f.vd.toNat ty j)) ∧
      (∀ r l, r < 64 → l < 512 → r ≠ f.vd.toNat → c'.lane r l = c.lane r l) ∧
      c'.queue = queueAfter c e ((List.range vl).foldl (fun b j => if c.on f j then b ||| (res j).2 else b) 0) ∧
      { c' with v := c.v, queue := c.queue } = c
    (e.instr = .sfu .sfn f → ∃ fn : Nat → Nat × Nat, (∀ x, fnSays c f.vc.toNat ty x (fn x)) ∧
      gives (.sfn n) (fun j => fn (c.elem f.va.toNat ty j))) ∧
    (e.instr = .sfu .gact f → ∃ fn : Nat → Nat → Nat × Nat, (∀ g u, gactSays f.vc.toNat ty g u (fn g u)) ∧
      gives (.gact n) (fun j => fn (c.elem f.va.toNat ty j) (c.src2 f ty j))) ∧
    (e.instr = .sfu .sfmp f →
      let b := c.liveMp f.vc.toNat
      let steps := mpSteps b.image
      (b.origin = .empty → gives (.sfmp n) (fun _ => nanWith ty 128)) ∧
      (b.origin ≠ .empty → steps = [] → exec (.sfmp n) s = .next (s.withCore n { c with queue := queueAfter c e 0 })) ∧
      (b.origin ≠ .empty → steps ≠ [] → gives (.sfmp n) (fun j =>
        let y := if f.sub.getLsbD 0 then 0 else toFp32 ty (c.src2 f ty j)
        let z := c.mpRun s.dev.svc.bootSet b.image (toFp32 ty (c.elem f.va.toNat ty j)) y steps
        ((fOp ty (fFP32.decode z.out)).1, (fOp ty (fFP32.decode z.out)).2 ||| z.flags))))

/-- SFTL and SFML at the head of the memory pipe and released, on a clean local store that holds the whole image, complete: the
8,256 B or 192 B at A + 64 * IMM17 with low address bits ignored (VX_ALIGN recorded) begin to be staged to their slot, origin
user, or empty for a table image whose FORMAT is not 0x01. SFTB stages the built-in set to the slots its mask names,
ascending, empty for TS12 to TS15. An image that reaches past the store stops the core. STAGED_BANK_WRITTEN lands the first
staging that no earlier staging of its slot, begun or not, and no lower slot of its own instruction holds back: that staged
bank takes it, no other bank changes, and its instruction has had its effect with the last of its stagings; where there is
none, nothing changes. None of them changes a live bank. SFTS and SFMODE at the head of the SFU's queue and released start and
change nothing else. SFU_SWAP, for the SFTS that has started: while an earlier staging to a named slot, begun or still in its
queue, has not landed, nothing happens; else each named slot with a staged bank that is not empty exchanges its live and
staged banks, every other slot keeps both, SFU_STAGE_EMPTY is recorded exactly when a named slot's staged bank was empty, and
the instruction has had its effect. PEWTER_CHANGE, for the SFMODE that has started: PEWTER becomes SUB[0]. Nothing else
changes. -/
def Obligations.StagingAndSwapping : Prop :=
  ((∀ (n : Fin 96) (f : MemF) (s : State) (e : QEntry), AtHead s n .vxm e → CleanLs s n →
    let c := s.dev.core n
    let a := c.memAddr f 64
    let fl := if a % 64 = 0 then 0 else 16
    let image (len : Nat) : List Byte := s.dev.peek (lsAddr n + a / 64 * 64) len
    let gives (i : Instr) (slot : Nat) (b : Bank) : Prop := exec i s = .next (s.withCore n { c with
      staging := c.staging ++ [⟨e.seq, slot, b⟩], queue := queueStarted c e fl })
    (e.instr = .vxm .sftl f → a / 64 * 64 + 8256 ≤ 0x800000 →
      gives (.sftl n) (f.vr.toNat % 16) (if field (image 8256) 0 1 = 1 then ⟨.user, image 8256⟩ else ⟨.empty, []⟩)) ∧
    (e.instr = .vxm .sfml f → a / 64 * 64 + 192 ≤ 0x800000 → gives (.sfml n) (16 + f.vr.toNat % 8) ⟨.user, image 192⟩) ∧
    (∀ i, (e.instr = .vxm .sftl f ∧ i = .sftl n ∧ 0x800000 < a / 64 * 64 + 8256) ∨
        (e.instr = .vxm .sfml f ∧ i = .sfml n ∧ 0x800000 < a / 64 * 64 + 192) →
      c.halt = none → exec i s = .next (s.withCore n (faultCore c e stOutOfMap)))) ∧
  (∀ (n : Fin 96) (f : VecF) (s : State) (e : QEntry), AtHead s n .sfu e → e.instr = .sfu .sftb f →
    let c := s.dev.core n
    let ts := (List.range 16).filter (c.names f)
    ∃ c', exec (.sftb n) s = .next (s.withCore n c') ∧ { c' with staging := c.staging, queue := c.queue } = c ∧
      c'.staging = c.staging ++ ts.map (fun t => ⟨e.seq, t, builtinBank t (s.dev.rd F.SFU_SET_VER)⟩) ∧
      (∀ t ∈ ts, (builtinBank t (s.dev.rd F.SFU_SET_VER)).origin = if t < 12 then .builtin else .empty) ∧
      c'.queue = if ts = [] then queueAfter c e 0 else queueStarted c e 0) ∧
  (∀ (n : Fin 96) (s : State), (∀ g ∈ (s.dev.core n).staging, ¬ CanLand (s.dev.core n) g) → exec (.stagedBankWritten n) s = .next s) ∧
  (∀ (n : Fin 96) (s : State) (g : Staging) (pre rest : List Staging),
    let c := s.dev.core n
    c.staging = pre ++ g :: rest → (∀ h ∈ pre, ¬ CanLand c h) → CanLand c g →
    ∃ c', exec (.stagedBankWritten n) s = .next (s.withCore n c') ∧ c'.staging = pre ++ rest ∧ c'.stagedOf g.slot = g.bank ∧
      (∀ t, t < 24 → t ≠ g.slot → c'.stagedOf t = c.stagedOf t) ∧ (∀ t, t < 24 → c'.liveOf t = c.liveOf t) ∧
      c'.queue = (if (pre ++ rest).any (fun h => h.seq = g.seq) then c.queue
        else c.queue.map (fun y => if y.seq = g.seq then { y with ran := true } else y)) ∧
      { c' with staging := c.staging, tsStaged := c.tsStaged, mpStaged := c.mpStaged, queue := c.queue } = c)) ∧
  ((∀ (n : Fin 96) (f : VecF) (s : State) (e : QEntry), AtHead s n .sfu e →
    (e.instr = .sfu .sfts f → exec (.sfts n) s = .next (s.withCore n { s.dev.core n with queue := queueStarted (s.dev.core n) e 0 })) ∧
    (e.instr = .sfu .sfmode f → exec (.sfmode n) s = .next (s.withCore n { s.dev.core n with queue := queueStarted (s.dev.core n) e 0 }))) ∧
  (∀ (n : Fin 96) (f : VecF) (s : State) (e : QEntry) (pre post : List QEntry),
    let c := s.dev.core n
    c.queue = pre ++ e :: post → e.started = true → e.ran = false →
    let early (o : SfuOp) : Prop := ∀ y ∈ pre, ∀ g, y.started = true → y.ran = false → y.instr ≠ .sfu o g
    let done (c' : Core) (fl : Nat) : Prop :=
      c'.queue = c.queue.map (fun y => if y.seq = e.seq then { e with ran := true, flags := BitVec.ofNat 32 fl } else y)
    let open_ : Prop := (∃ g ∈ c.staging, g.seq < e.seq ∧ g.slot < 24 ∧ c.names f g.slot = true) ∨
      (∃ y ∈ c.queue, y.seq < e.seq ∧ y.started = false ∧ c.stagesTo y ((List.range 24).filter (c.names f)) = true)
    (e.instr = .sfu .sfts f → early .sfts → (open_ → exec (.sfuSwap n) s = .next s) ∧
      (¬ open_ → ∃ c', exec (.sfuSwap n) s = .next (s.withCore n c') ∧
        (∀ t, t < 24 → if c.names f t = true ∧ (c.stagedOf t).origin ≠ .empty
          then c'.liveOf t = c.stagedOf t ∧ c'.stagedOf t = c.liveOf t else c'.liveOf t = c.liveOf t ∧ c'.stagedOf t = c.stagedOf t) ∧
        done c' (if (List.range 24).any (fun t => c.names f t && (c.stagedOf t).origin == .empty) then 64 else 0) ∧
        { c' with
          tsLive := c.tsLive, tsStaged := c.tsStaged, mpLive := c.mpLive, mpStaged := c.mpStaged, queue := c.queue } = c)) ∧
    (e.instr = .sfu .sfmode f → early .sfmode → ∃ c', exec (.pewterChange n) s = .next (s.withCore n c') ∧
      c'.pewter = f.sub.getLsbD 0 ∧ c'.queue = c.queue.map (fun y => if y.seq = e.seq then { e with ran := true } else y) ∧ { c' with pewter := c.pewter, queue := c.queue } = c)))

/-- At the head of the RSU's queue and released. RSQ in FP32, BF16 or FP16 with VL not 0 and G = 1 to 32: block b adds to row (row
+ b) mod 32: chain k mod 4 of SUMSQ and of SUM takes, in FP64 rounded to nearest even, its value plus the root of the pairwise
tree over the block's squares and values (inactive ones +0), k advances by one and COUNT by the number of active elements,
saturating; other chains, other rows and everything else stay. RSF in FP32, BF16 or FP16: result i is the statistic OP of row
r0 + i mod 32, rounded once, in lane i of its vector register or in a scalar, for n = min(r1, r0 + 31) - r0 + 1 rows (none
where r1 < r0); with CLR the rows read are cleared; nothing else changes. RSX at the head of the memory pipe and released, on
a clean local store that holds its records: record i, at the 32 B-aligned address plus 32 i, is the folded SUMSQ and SUM,
COUNT, row number and VALID 1 of row r0 + i; no other byte, no row and no register changes; where a record reaches past the
store it stops the core instead. RSM that reaches past the store stops the core; with NREC 0 it has no effect; else it waits.
RSM_MERGE for one waiting RSM of one record on a clean local store: while VALID is 0 nothing changes; once it is not, the
record's row holds the folded sums plus the record's in chain 0, +0 in the others, k 1 and COUNT advanced; VALID reads 0;
every other byte and row is as before. -/
def Obligations.RowStatistics : Prop :=
  ((∀ (n : Fin 96) (f : VecF) (s : State) (e : QEntry), AtHead s n .rsu e → e.instr = .rsu .rsq f → f.ty.toNat < 3 → f.sub.toNat % 8 ≤ 5 →
    let c := s.dev.core n
    let ty := f.ty.toNat
    let vl := c.vlOf f (tyCount ty)
    let w := tyCount ty / 2 ^ (f.sub.toNat % 8)
    let on (b j : Nat) : Bool := decide (b * w + j < vl) && c.on f (b * w + j)
    let root (g : FVal → FVal) (b lg : Nat) : Nat := (redNode (fun x y => (plus64 x y, 0))
      (fun j => (if j < w ∧ on b j = true then (fOp 3 (g (fVal ty (c.elem f.va.toNat ty (b * w + j))))).1 else 0, 0)) (lg + 1) 0).1
    ∃ c' fl, exec (.rsq n) s = .next (s.withCore n c') ∧ c'.queue = queueAfter c e fl ∧ { c' with rows := c.rows, queue := c.queue } = c ∧
      (vl = 0 → c'.rows = c.rows) ∧
      (vl ≠ 0 → ∀ b lg, b < 2 ^ (f.sub.toNat % 8) → w = 2 ^ lg →
        let a := c.rowAcc (f.vd.toNat % 32 + b)
        let a' := c'.rowAcc (f.vd.toNat % 32 + b)
        a'.k = a.k + 1 ∧ a'.count.toNat = min (a.count.toNat + (List.range w).countP (on b)) (2 ^ 32 - 1) ∧
        (∀ i, i < 4 → a'.sq i = (if i = a.k % 4 then BitVec.ofNat 64 (plus64 (a.sq i).toNat (root (fun v => v.mul v) b lg)) else a.sq i) ∧
          a'.sm i = (if i = a.k % 4 then BitVec.ofNat 64 (plus64 (a.sm i).toNat (root (fun v => v) b lg)) else a.sm i))) ∧
      (∀ r, r < 32 → (∀ b, b < 2 ^ (f.sub.toNat % 8) → (f.vd.toNat + b) % 32 ≠ r) → c'.rowAcc r = c.rowAcc r)) ∧
  (∀ (n : Fin 96) (f : VecF) (s : State) (e : QEntry), AtHead s n .rsu e → e.instr = .rsu .rsf f → f.ty.toNat < 3 →
    let c := s.dev.core n
    let r0 := c.sreg f.va.toNat
    let cnt := rowsRead r0 (c.sreg f.vb.toNat)
    let val (i : Nat) : Nat := (fOp f.ty.toNat (rowStat (c.rowAcc (r0.toNat + i)) (f.sub.toNat / 16 % 4) (c.sreg f.vc.toNat))).1
    ∃ c' fl, exec (.rsf n) s = .next (s.withCore n c') ∧ c'.queue = queueAfter c e fl ∧
      { c' with v := c.v, s := c.s, rows := c.rows, queue := c.queue } = c ∧
      (f.sub.getLsbD 6 = false → c'.s = c.s ∧ ∀ r l, r < 64 → l < 512 →
        c'.lane r l = if r = f.vd.toNat ∧ l < cnt then BitVec.ofNat 32 (val l) else c.lane r l) ∧
      (f.sub.getLsbD 6 = true → c'.v = c.v ∧ (∀ i, i < cnt → c'.sreg (f.vd.toNat + i) = BitVec.ofNat 32 (val i)) ∧
        (∀ r, r < 32 → (∀ i, i < cnt → (f.vd.toNat + i) % 32 ≠ r) → c'.sreg r = c.sreg r)) ∧
      (∀ r, r < 32 → c'.rowAcc r =
        if f.sub.getLsbD 3 = true ∧ ∃ i, i < cnt ∧ (r0.toNat + i) % 32 = r then RowAcc.reset else c.rowAcc r))) ∧
  ((∀ (n : Fin 96) (f : MemF) (s : State) (e : QEntry), AtHead s n .vxm e → e.instr = .vxm .rsx f → CleanLs s n →
    let c := s.dev.core n
    let r0 := (c.sreg f.vr.toNat).toNat
    let cnt := rowsRead (c.sreg f.vr.toNat) (c.sreg (f.vr.toNat + 1))
    let at0 := c.memAddr f 32 / 32 * 32
    (cnt ≠ 0 → 0x800000 < at0 + 32 * cnt → c.halt = none → exec (.rsx n) s = .next (s.withCore n (faultCore c e stOutOfMap))) ∧
    (at0 + 32 * cnt ≤ 0x800000 →
    ∃ bytes fin fl, exec (.rsx n) s = .next (s.stored n e fl bytes fin) ∧
      (∀ i, i < cnt → getBytes bytes (lsAddr n + at0 + 32 * i) 32 = recordOf (c.rowAcc (r0 + i)) (r0 + i)) ∧
      (∀ x, x < lsAddr n + at0 ∨ lsAddr n + at0 + 32 * cnt ≤ x → Tab.get bytes x 0 = Tab.get s.dev.mem.bytes x 0))) ∧
  (∀ (n : Fin 96) (f : MemF) (s : State) (e : QEntry), AtHead s n .vxm e → e.instr = .vxm .rsm f →
    let c := s.dev.core n
    let k := (c.sreg f.vr.toNat).toNat
    let a := c.memAddr f 32
    (k = 0 → exec (.rsm n) s = .next (s.withCore n { c with queue := queueAfter c e 0 })) ∧
    (k ≠ 0 → a / 32 * 32 + 32 * k ≤ 0x800000 → exec (.rsm n) s = .next (s.withCore n { c with
      merged := [], rsmDet := s.dev.rd F.DET_MODE == 1, queue := queueStarted c e (if a % 32 = 0 then 0 else 16) })) ∧
    (k ≠ 0 → 0x800000 < a / 32 * 32 + 32 * k → c.halt = none →
      exec (.rsm n) s = .next (s.withCore n (faultCore c e stOutOfMap)))) ∧
  (∀ (n : Fin 96) (f : MemF) (s : State) (e : QEntry) (rest : List QEntry),
    let c := s.dev.core n
    c.queue = e :: rest → e.started = true → e.ran = false → e.instr = .vxm .rsm f → CleanLs s n → c.sreg f.vr.toNat = 1 → c.merged = [] →
    let at0 := c.memAddr f 32 / 32 * 32
    let rec_ := s.dev.peek (lsAddr n + at0) 32
    let r := field rec_ 0x14 1
    at0 + 32 ≤ 0x800000 →
    (field rec_ 0x1F 1 = 0 → ∃ u, exec (.rsmMerge n) s = .next u ∧ (u.dev.core n).rows = c.rows ∧ u.dev.mem = s.dev.mem ∧
      (u.dev.core n).merged = []) ∧
    (field rec_ 0x1F 1 ≠ 0 → ∃ u, exec (.rsmMerge n) s = .next u ∧ (u.dev.core n).rowAcc r = mergedRow (c.rowAcc r) rec_ ∧
      (∀ q, q < 32 → q ≠ r % 32 → (u.dev.core n).rowAcc q = c.rowAcc q) ∧
      (∃ e', (u.dev.core n).queue.head? = some e' ∧ e'.ran = true) ∧ field (u.dev.peek (lsAddr n + at0) 32) 0x1F 1 = 0 ∧
      (∀ x, x ≠ lsAddr n + at0 + 31 → u.dev.peek x 1 = s.dev.peek x 1))))

/-- DMV at the head of its queue and released, on a clean local store that holds its descriptors, complete: one transfer for each
64 B descriptor joins the queue that Q names, in order, and nothing else changes. TRANSFER_COMPLETE of the oldest transfer of
a queue with no write waiting at a port, not in Retain: one whose data has moved finishes; of the others, where no completion
word is wanted, a KIND other than 1 to 3 completes BAD_OPCODE with an Error record and no access; LEN 0, or ROWS 0 for KIND 2,
changes nothing; a fill into the core's own clean store repeats the 8 B pattern from DST; a linear or two-dimensional transfer
inside that store, with the default stage and rows apart, copies each row, by way of the core's default staging buffer; a
source that nothing backs stops it with ACCESS_OUT_OF_MAP and an Error record; every other byte stays. While writes of the
queue wait at a port in D3hot, one whose data has moved stays, and in Retain nothing moves. With NOTIFY a transfer that moves
nothing writes 0x80000000 at NOTE_OFF. -/
def Obligations.TransfersMoveTheirBytes : Prop :=
  (∀ (n : Fin 96) (f : DmvF) (s : State) (e : QEntry), AtHead s n .dmv e → e.instr = .dmv f → CleanLs s n →
    let c := s.dev.core n
    let k := (c.sreg f.sc.toNat).toNat
    let off (i : Nat) : Nat := ((c.areg f.a.toNat).toNat + 64 * f.imm.toNat) / 64 * 64 + 64 * i
    (∀ i, i < k → off i + 64 ≤ 0x800000) →
    exec (.dmv n) s = .next (s.withCore n { c with
      xfers := c.xfers ++ (List.range k).map (fun i => ⟨f.q.toNat, off i, s.dev.peek (lsAddr n + off i) 64, e.seq, s.dev.nearTop, none⟩)
      queue := if k = 0 then queueAfter c e 0 else queueStarted c e 0 })) ∧
  (∀ (n : Fin 96) (q : Fin 4) (drops : Drops) (s : State) (x : Xfer) (pre post : List Xfer),
    let c := s.dev.core n
    let t := XferD.parse x.raw
    let c' := afterXfer c x (pre ++ post)
    let failed (st : St) : Dev := s.dev.log 3 n st.toNat (statusPayload x.off 0xFFFFFFFF 0xFFFF 2 false 0xFFFF)
    c.xfers = pre ++ x :: post → (∀ y ∈ pre, y.q ≠ q.val) → x.q = q.val →
    (s.dev.sys.phase = .retain ∨ (x.moved ≠ none ∧ s.dev.waitingBytes (dmvSq n q) ≠ 0) → exec (.transferComplete n q drops) s = .next s) ∧
    (s.dev.sys.phase ≠ .retain → s.dev.waitingBytes (dmvSq n q) = 0 → x.moved = some stOk → t.notify = false →
      exec (.transferComplete n q drops) s = .next (s.withCore n c')) ∧
    (s.dev.sys.phase ≠ .retain → s.dev.waitingBytes (dmvSq n q) = 0 → x.moved = none → x.raw ≠ [] →
    (t.notify = false → t.kind = 0 ∨ 3 < t.kind →
      exec (.transferComplete n q drops) s = .next { s with dev := (failed stBadOpcode).setCore n c' }) ∧
    (t.notify = false → 1 ≤ t.kind → t.kind ≤ 3 → t.len = 0 ∨ (t.kind = 2 ∧ t.rows = 0) →
      exec (.transferComplete n q drops) s = .next (s.withCore n c')) ∧
    (t.notify = true → 1 ≤ t.kind → t.kind ≤ 3 → t.len = 0 → CleanLs s n → t.note + 4 ≤ 0x800000 → drops = [] →
      ∃ u, exec (.transferComplete n q drops) s = .next u ∧ leNat (u.dev.peek (lsAddr n + t.note) 4) = 0x80000000 ∧
        (∀ a, a < lsAddr n + t.note ∨ lsAddr n + t.note + 4 ≤ a → u.dev.peek a 1 = s.dev.peek a 1) ∧ u.dev.core n = c') ∧
    (t.notify = false → t.kind = 3 → CleanLs s n → InLs n t.dst t.len → drops = [] →
      ∃ u, exec (.transferComplete n q drops) s = .next u ∧ u.dev.core n = c' ∧
        (∀ j, j < t.len → u.dev.peek (t.dst + j) 1 = [BitVec.ofNat 8 (t.src / 2 ^ (8 * (j % 8)))]) ∧
        (∀ a, a < t.dst ∨ t.dst + t.len ≤ a → u.dev.peek a 1 = s.dev.peek a 1)) ∧
    (t.notify = false → t.kind = 1 ∨ t.kind = 2 → t.stage = 0 → CleanLs s n → drops = [] →
      (∀ r, r < t.nrows → InLs n (t.rowAt t.src t.sstride r) t.len ∧ InLs n (t.rowAt t.dst t.dstride r) t.len) →
      (∀ r r', r < t.nrows → r' < t.nrows → Apart (t.rowAt t.dst t.dstride r) (t.rowAt t.src t.sstride r') t.len ∧
        (r ≠ r' → Apart (t.rowAt t.dst t.dstride r) (t.rowAt t.dst t.dstride r') t.len)) →
      ∃ u, exec (.transferComplete n q drops) s = .next u ∧ u.dev.core n = { c' with stage := (u.dev.core n).stage } ∧
        (∀ r, r < t.nrows → u.dev.peek (t.rowAt t.dst t.dstride r).toNat t.len = s.dev.peek (t.rowAt t.src t.sstride r).toNat t.len) ∧
        (∀ a : Nat, (∀ r, r < t.nrows → (a : Int) < t.rowAt t.dst t.dstride r ∨ t.rowAt t.dst t.dstride r + t.len ≤ a) →
          u.dev.peek a 1 = s.dev.peek a 1)) ∧
    (t.notify = false → t.kind = 1 → t.len ≠ 0 → s.dev.region t.src = none → x.nearTop ≤ s.dev.nearTop →
      exec (.transferComplete n q drops) s = .next { s with dev := (failed stOutOfMap).setCore n c' })))

/-- In Run: BGT_INGOT_REGION with the test enabled reads a 4 KiB region of the slice, correcting or poisoning its granules, and
moves on by one; a region without errors whose lines all pass changes nothing else; a failed line sets INGOT_TEST_FAIL, and
takes a spare with a repair record while one is left. BGT_LS_REGION of a present core that is IDLE or STOPPED and not retained
does the same to its store, and a failure sets LS_TEST_FAIL. SCRUB_READ of a near line that no rebuild concerns, or of a line
of an unused spare, corrects or poisons its words. LS_RETENTION_ENTRY retains the store of an IDLE core whose bit of LS_RET is
1. No byte of any store changes. -/
def Obligations.BackgroundTestsKeepContents : Prop :=
  (∀ (slice : Fin 4) (fails : NatSet) (s : State), s.dev.sys.phase = .run → s.dev.rd F.BGT_INGOT_EN ≠ 0 →
    let pos := Tab.get s.dev.tier.bgtPos slice 0
    let at_ := ingotBase + slice * 2 ^ 29 + pos * 4096
    let left := s.dev.rd (F.SPARES_I slice)
    ∃ u, exec (.bgtIngotRegion slice fails) s = .next u ∧ u.dev.mem.bytes = s.dev.mem.bytes ∧ SavedFrom s.dev u.dev at_ 256 ∧
      Tab.get u.dev.tier.bgtPos slice 0 = (pos + 1) % 131072 ∧
      (fails = [] → (∀ g, g < 256 → let w := at_ + 16 * g
          w ∉ s.dev.mem.poison ∧ w ∉ s.dev.mem.latentU ∧ w ∉ s.dev.mem.latentC) →
        u = { s with dev := { s.dev with tier := { s.dev.tier with bgtPos := u.dev.tier.bgtPos } } }) ∧
      (fails ≠ [] → u.dev.rd F.INGOT_TEST_FAIL = 1) ∧ (left = 0 → u.dev.tier.pending = s.dev.tier.pending) ∧
      (∀ l, fails = [l] → l < 32 → left ≠ 0 → u.dev.rd (F.SPARES_I slice) = (left - 1) % 512 ∧
        u.dev.tier.pending = s.dev.tier.pending ++ [.ingotLine slice (pos * 4096 + l * 128)])) ∧
  (∀ (n : Fin 96) (region : Nat) (fails : NatSet) (s : State), s.dev.sys.phase = .run → s.dev.rd F.BGT_LS_EN ≠ 0 → s.dev.present n = true →
    (s.dev.core n).status ≠ .running → (s.dev.core n).retained = false → region = Tab.get s.dev.tier.lsPos n 0 →
    ∃ u, exec (.bgtLsRegion n region fails) s = .next u ∧ u.dev.mem.bytes = s.dev.mem.bytes ∧ u.dev.core n = s.dev.core n ∧
      SavedFrom s.dev u.dev (lsAddr n + region * 4096) 256 ∧ Tab.get u.dev.tier.lsPos n 0 = (region + 1) % 2048 ∧
      (fails ≠ [] → u.dev.rd F.LS_TEST_FAIL = 1)) ∧
  (∀ (n : Fin 96) (s : State), s.dev.present n = true → s.dev.sys.phase = .run → (s.dev.core n).status = .idle →
    bit (s.dev.rd (if n.val < 32 then F.LS_RET_0 else if n.val < 64 then F.LS_RET_1 else F.LS_RET_2)) (n % 32) = true →
    exec (.lsRetentionEntry n) s = .next (s.withCore n { s.dev.core n with retained := true })) ∧
  (∀ (i : Nat) (l : Nat) (s : State), s.dev.sys.phase = .run → s.dev.rd F.SCRUB_HOURS ≠ 0 → l < 632 → lineAddr l i < s.dev.nearTop →
    s.dev.tier.sweeps = [] → Tab.get s.dev.tier.awaiting l 0 = 0 →
    ∃ u, exec (.scrubRead (.flat (lineAddr l i))) s = .next u ∧ u.dev.mem.bytes = s.dev.mem.bytes ∧ u.dev.cores = s.dev.cores ∧
      (∀ j, j < 4 → let w := lineAddr l i + 64 * j
        (w ∈ s.dev.mem.poison ∨ w ∈ s.dev.mem.latentU → w ∈ u.dev.mem.poison ∧ w ∉ u.dev.mem.latentU) ∧
        (w ∉ s.dev.mem.poison → w ∉ s.dev.mem.latentU → w ∉ u.dev.mem.latentC ∧ w ∉ u.dev.mem.poison))) ∧
  (∀ (p i : Nat) (s : State), s.dev.sys.phase = .run → s.dev.rd F.SCRUB_HOURS ≠ 0 → p < 640 → i < pcLines → s.dev.rd (F.PC_STATE p) = 1 →
    ∃ u, exec (.scrubRead (.spare p i)) s = .next u ∧ u.dev.mem.bytes = s.dev.mem.bytes ∧ u.dev.mem.poison = s.dev.mem.poison ∧
      u.dev.cores = s.dev.cores ∧
      (∀ j, j < 4 → let k := p * 2 ^ 25 + 4 * i + j
        (k ∈ s.dev.mem.spareP ∨ k ∈ s.dev.mem.spareU → k ∈ u.dev.mem.spareP ∧ k ∉ u.dev.mem.spareU) ∧
        (k ∉ s.dev.mem.spareP → k ∉ s.dev.mem.spareU → k ∉ u.dev.mem.spareC ∧ k ∉ u.dev.mem.spareP)))

/-- PC_FAILED in Run for a physical pseudo-channel below 640: an unused spare leaves the pool with a repair record; one that has
failed changes nothing; one that serves logical L, whose limit is reached, is declared failed (state 2, serving none,
PC_FAILED set), and then with REPAIR_AUTO 1 and a spare left the lowest spare of its base die, else of all, is assigned to L
with a sweep from offset 0 and a repair record; with none left NEAR_TOP_GIB falls by 2 and CAP_REDUCED is set; with
REPAIR_AUTO 0 the lines of L are lost until its PC_RETIRE, and no sweep of L goes on. No byte changes. FAR_FAIL in Run of a
package not yet failed sets FAR_FAIL and loses its lines. REPAIR_RECORD_COMMIT commits the oldest pending record; under
NV_INHIBIT it is refused, stays pending, and NV_ABORTED is set. PC_RETIRE acts alike whatever REPAIR_AUTO holds, gives the
lines of a failed pseudo-channel that awaits it a spare, waits for the sweep it starts, completes CAPACITY_REDUCED after an
unmapping, and OK at once for an unused spare or a pseudo-channel that serves no number; an index above 639 completes
ACCESS_OUT_OF_MAP and changes nothing. -/
def Obligations.FailuresTakeTheLowestSpare : Prop :=
  (∀ (p : Nat) (cause : BitVec 8) (s : State), s.dev.sys.phase = .run → p < 640 → cause.toNat < 3 →
    let st := s.dev.rd (F.PC_STATE p)
    let l := s.dev.rd (F.PC_LOGICAL p)
    let left := s.dev.rd F.SPARES_LEFT
    let run (u : State) : Prop := exec (.pcFailed p cause) s = .next u ∧ u.dev.mem = s.dev.mem ∧ u.dev.cores = s.dev.cores
    let dead (u : State) : Prop := u.dev.rd (F.PC_STATE p) = 2 ∧ u.dev.rd (F.PC_LOGICAL p) = 0x3FF ∧ u.dev.rd F.PC_FAILED = 1
    (st = 1 → ∃ u, run u ∧ u.dev.rd (F.PC_STATE p) = 2 ∧ u.dev.rd F.SPARES_LEFT = (left - 1) % 16 ∧
      u.dev.tier.pending = s.dev.tier.pending ++ [.removed p]) ∧
    (st = 2 → exec (.pcFailed p cause) s = .next s) ∧
    (st = 0 ∨ st = 3 → l < 632 → LimitReached s.dev l cause → Tab.get s.dev.tier.awaiting l 0 = 0 →
      (s.dev.rd F.REPAIR_AUTO = 1 → s.dev.sweepOf l = none → ∀ q, SpareFor s.dev p q → ∃ u, run u ∧ dead u ∧
        u.dev.rd (F.PC_STATE q) = 3 ∧ u.dev.rd (F.PC_LOGICAL q) = l ∧ u.dev.rd F.SPARES_LEFT = (left - 1) % 16 ∧
        u.dev.tier.sweeps = s.dev.tier.sweeps ++ [⟨l, q, none, 0, [], 0, [], [], 0, 0, 0, false, false, []⟩] ∧
        u.dev.tier.pending = s.dev.tier.pending ++ [.assign l q p]) ∧
      (s.dev.rd F.REPAIR_AUTO = 1 → (∀ k, k < 640 → s.dev.rd (F.PC_STATE k) ≠ 1) → ∃ u, run u ∧ dead u ∧
        u.dev.rd F.NEAR_TOP_GIB = (s.dev.rd F.NEAR_TOP_GIB - 2) % 2 ^ 16 ∧ u.dev.rd F.CAP_REDUCED = 1) ∧
      (s.dev.rd F.REPAIR_AUTO ≠ 1 → ∃ u, run u ∧ dead u ∧ (∀ i, u.dev.lineLost .near (lineAddr l i) = true) ∧
        u.dev.tier.sweeps = s.dev.tier.sweeps.filter (fun z => z.l != l) ∧ u.dev.tier.pending = s.dev.tier.pending ++ [.failed p]))) ∧
  (∀ (pkg : Fin 20) (s : State), s.dev.sys.phase = .run → pkg.val ∉ s.dev.tier.farFailed →
    ∃ u, exec (.farFail pkg) s = .next u ∧ u.dev.rd F.FAR_FAIL = 1 ∧ u.dev.mem = s.dev.mem ∧
      (∀ a, farBase ≤ a → farPkg a = pkg.val → u.dev.lineLost .far a = true) ∧
      (∀ a, farBase ≤ a → farPkg a ≠ pkg.val → u.dev.lineLost .far a = s.dev.lineLost .far a)) ∧
  (∀ (r : Repair) (rest : List Repair) (s : State), s.dev.tier.pending = r :: rest →
    (s.dev.rd F.NV_INHIBIT ≠ 1 → exec .repairRecordCommit s = .next { s with dev := { s.dev with
      tier := { s.dev.tier with pending := rest, committed := s.dev.tier.committed ++ [r] } } }) ∧
    (s.dev.rd F.NV_INHIBIT = 1 → exec .repairRecordCommit s = .next { s with dev := s.dev.wr F.NV_ABORTED 1 })) ∧
  (∀ (r : Fin 64) (k : Word) (y : Desc) (s : State), AtEngine s r k 0x53 y →
    let p := y.at 0x18 2
    let st := s.dev.rd (F.PC_STATE p)
    let l := s.dev.rd (F.PC_LOGICAL p)
    let left := s.dev.rd F.SPARES_LEFT
    let run (u : State) : Prop := exec (.pcRetire r k) s = .next u ∧ u.dev.mem = s.dev.mem ∧ u.dev.cores = s.dev.cores
    let none_ : List Byte := leBytes 12 0 ++ leBytes 2 0xFFFF
    let dead (u : State) : Prop := u.dev.rd (F.PC_STATE p) = 2 ∧ u.dev.rd (F.PC_LOGICAL p) = 0x3FF ∧ u.dev.rd F.PC_FAILED = 1
    (640 ≤ p → ∃ u, run u ∧ OnlyRing s u r ∧ Ends u r k stOutOfMap []) ∧
    (p < 640 → st = 1 → ∃ u, run u ∧ u.dev.rd (F.PC_STATE p) = 2 ∧ u.dev.rd F.SPARES_LEFT = (left - 1) % 16 ∧ Ends u r k stOk none_) ∧
    (p < 640 → st = 2 → Tab.get s.dev.tier.former p 0 = 0 → ∃ u, run u ∧ OnlyRing s u r ∧ Ends u r k stOk none_) ∧
    (∀ q f, p < 640 → st = 2 → f < 632 → Tab.get s.dev.tier.former p 0 = f + 1 → Tab.get s.dev.tier.awaiting f 0 = p + 1 → SpareFor s.dev p q →
      ∃ u, run u ∧ u.dev.rd (F.PC_STATE q) = 3 ∧ u.dev.rd (F.PC_LOGICAL q) = f ∧ u.dev.rd F.SPARES_LEFT = (left - 1) % 16 ∧
        u.dev.desc r k = some { y with taken := true } ∧ (∃ w ∈ u.dev.tier.sweeps, w.l = f ∧ w.spare = q ∧ (r.val, k) ∈ w.waiters) ∧
        ∀ i, u.dev.lineLost .near (lineAddr f i) = false) ∧
    (p < 640 → st = 0 ∨ st = 3 → l < 632 → s.dev.sweepOf l = none → Tab.get s.dev.tier.awaiting l 0 = 0 →
      (∀ q, SpareFor s.dev p q → ∃ u, run u ∧ dead u ∧ u.dev.rd (F.PC_STATE q) = 3 ∧ u.dev.rd (F.PC_LOGICAL q) = l ∧
        u.dev.rd F.SPARES_LEFT = (left - 1) % 16 ∧ u.dev.desc r k = some { y with taken := true } ∧
        u.dev.tier.sweeps = s.dev.tier.sweeps ++ [⟨l, q, none, 0, [], 0, [], [], 0, 0, 0, false, false, [(r.val, k)]⟩]) ∧
      ((∀ q, q < 640 → s.dev.rd (F.PC_STATE q) ≠ 1) → ∃ u, run u ∧ dead u ∧
        u.dev.rd F.NEAR_TOP_GIB = (s.dev.rd F.NEAR_TOP_GIB - 2) % 2 ^ 16 ∧ Ends u r k stCapReduced none_)))

/-- REBUILD_SWEEP in Run, for the sweep at the head of the queue, whose next line it has still to do, which lies below the near
tier's top and has no former spare: where the lowest enabled mirror entry that covers the line has a clean far line, the line
takes that line's bytes and counts in FROM_MIRROR; with no mirror entry, an active pairing, a range of the newest generation
that holds the line and is not dirty, a partner behind a port that is up, and an OK answer, one READ_REQ of 256 B of source
queue 0x0311 leaves for the line's place at the partner, and it takes the partner's 256 B and counts in FROM_TWIN; with
neither, its four words are poisoned, NEAR_POISON is set and it counts in POISONED. Its words lose their errors, the sweep
goes on to the next line, and every byte outside the line stays. -/
def Obligations.SweepsRebuildFromTheFirstSource : Prop :=
  ∀ (ans : PeerRow) (s : State) (w : Sweep) (rest : List Sweep), s.dev.sys.phase = .run → s.dev.tier.sweeps = w :: rest →
    w.next ∉ w.done → w.next + 1 < pcLines → w.from_ = none → w.l < 632 → lineAddr w.l w.next < s.dev.nearTop → (∀ t ∈ rest, t.l ≠ w.l) →
    let a := lineAddr w.l w.next
    let after (u : State) (v : Sweep) : Prop := exec (.rebuildSweep ans) s = .next u ∧
      u.dev.tier.sweeps = { v with next := w.next + 1, done := w.done } :: rest ∧
      (∀ j, j < 4 → a + 64 * j ∉ u.dev.mem.latentU) ∧
      (∀ x, x < a ∨ a + 256 ≤ x → u.dev.peek x 1 = s.dev.peek x 1) ∧ u.dev.cores = s.dev.cores
    (∀ k f, k < 16 → (∀ j, j < k → s.dev.rd (F.MIR_LEN j) = 0) → s.dev.rd (F.MIR_LEN k) ≠ 0 → s.dev.mirrorOf a k = some f →
      farPkg f ∉ s.dev.tier.farFailed → (∀ j, j < 4 → s.dev.cleanAt (f + 64 * j)) →
      ∃ u, after u { w with mirror := w.mirror + 1 } ∧ lineIs u.dev a (s.dev.peek f 256) ∧ ∀ j, j < 4 → a + 64 * j ∉ u.dev.mem.poison) ∧
    (∀ k, NoMirror s.dev → s.dev.rangeOf a = some k → w.lost = false → s.dev.rd F.TWIN_STATE = 2 → ans.status = stOk → ans.data.length = 256 →
      s.dev.lineDirty a = false → ∀ p, Behind s.dev (BitVec.ofNat 16 (s.dev.rd F.PARTNER_ID)) p →
      ∃ (u : State) (q : Pkt), after u { w with twin := w.twin + 1 } ∧ lineIs u.dev a ans.data ∧ (∀ j, j < 4 → a + 64 * j ∉ u.dev.mem.poison) ∧
        (u.dev.link p).txq = (s.dev.link p).txq ++ q.flits ∧ q.pop = 3 ∧ q.sq = 0x311 ∧ q.vc = 2 ∧ q.len = 256 ∧
        q.addr = s.dev.twinAddr k a % 2 ^ 64 ∧ q.dst.toNat = s.dev.rd F.PARTNER_ID) ∧
    (NoMirror s.dev → s.dev.rangeOf a = none ∨ s.dev.rd F.TWIN_STATE ≠ 2 →
      ∃ u, after u { w with poisoned := w.poisoned + 1 } ∧ u.dev.rd F.NEAR_POISON = 1 ∧ ∀ j, j < 4 → a + 64 * j ∈ u.dev.mem.poison)

/-- In Run, by a port whose registers its host reaches, for a ring whose ENABLE is 1 and that is RUNNING or HALTED: SQ_TAIL t is
accepted exactly when (t - H) mod 2^32 <= 2^k, CQ_HEAD c when (c - H) mod 2^32 <= (P - H) mod 2^32; a refused value leaves the
counts and sets DB_OVERRUN; with ENABLE 0, or in another state, nothing happens. Setting ENABLE makes a DISABLED ring with
nothing left of before RUNNING with all four counts 0, and is held otherwise; clearing it withdraws a held enable and makes a
RUNNING or HALTED ring DISABLED where P equals S and DRAINING where not. A DRAINING ring with P = S becomes DISABLED, and a
held enable then starts it. RESUME acts on a HALTED ring alone, once P equals S. Nothing else changes but the port's latch. -/
def Obligations.DoorbellsAndEnables : Prop :=
  ∀ (port : PciePort) (r : Fin 64) (v : Word) (s : State), s.dev.regReach port = true → s.dev.sys.phase = .run →
    let d := s.dev
    let st := d.rd (F.RING_STATE r)
    let counts := [F.SQ_TAIL_SEEN r, F.SQ_STARTED r, F.CQ_POSTED r, F.CQ_HEAD_SEEN r]
    let zero (u : State) : Prop := ∀ f ∈ counts, u.dev.rd f = 0
    let door (i : Instr) (f : Field) (ok : Prop) : Prop :=
      (d.rd (F.ENABLE r) ≠ 1 ∨ (st ≠ 1 ∧ st ≠ 2) → exec i s = .next s) ∧
      (d.rd (F.ENABLE r) = 1 → st = 1 ∨ st = 2 →
        (ok → exec i s = .next { s with dev := d.wr f v.toNat }) ∧
        (¬ ok → d.rd (F.DB_OVERRUN r) = 1 → exec i s = .next s) ∧
        (¬ ok → d.rd (F.DB_OVERRUN r) ≠ 1 → ∃ u, exec i s = .next u ∧ u.dev.rd (F.DB_OVERRUN r) = 1 ∧ u.dev.rings = d.rings ∧
          (∀ g ∈ counts, u.dev.rd g = d.rd g) ∧ u.dev.recd.newest = nextSeq d.recd.newest))
    door (.sqTail port r v) (F.SQ_TAIL_SEEN r) (ahead v.toNat (d.cntH r) ≤ d.ringSize r) ∧
    door (.cqHead port r v) (F.CQ_HEAD_SEEN r) (ahead v.toNat (d.cntH r) ≤ ahead (d.cntP r) (d.cntH r)) ∧
    (∃ u, exec (.enable port r) s = .next u ∧ OnlyRings s u ∧ KeepsRegs s u ([F.ENABLE r, F.RING_STATE r] ++ counts) ∧
      (∀ q, q ≠ r.val → u.dev.ring q = d.ring q) ∧ u.dev.rd (F.ENABLE r) = 1 ∧
      (d.rd (F.ENABLE r) ≠ 1 → st = 0 → (d.ring r).orphans = [] → u.dev.rd (F.RING_STATE r) = 1 ∧ zero u) ∧
      (d.rd (F.ENABLE r) ≠ 1 → st ≠ 0 ∨ (d.ring r).orphans ≠ [] → u.dev.rd (F.RING_STATE r) = st ∧ (u.dev.ring r).heldEnable = true)) ∧
    (∃ u, exec (.enableClear port r) s = .next u ∧ OnlyRings s u ∧ KeepsRegs s u [F.ENABLE r, F.RING_STATE r] ∧
      (∀ q, q ≠ r.val → u.dev.ring q = d.ring q) ∧ u.dev.rd (F.ENABLE r) = 0 ∧ (u.dev.ring r).heldEnable = false ∧
      u.dev.rd (F.RING_STATE r) = (if st = 1 ∨ st = 2 then (if d.cntP r = d.cntS r then 0 else 3) else st)) ∧
    (∃ u, exec (.resume port r) s = .next u ∧ OnlyRings s u ∧ KeepsRegs s u [F.RING_STATE r] ∧
      (st ≠ 2 → u.dev.ring r = d.ring r ∧ u.dev.rd (F.RING_STATE r) = st) ∧
      (st = 2 → d.cntP r = d.cntS r → u.dev.rd (F.RING_STATE r) = 1 ∧ (u.dev.ring r).halt = none) ∧
      (st = 2 → d.cntP r ≠ d.cntS r → u.dev.rd (F.RING_STATE r) = 2 ∧ (u.dev.ring r).heldResume = true)) ∧
    (if st = 3 ∧ d.cntP r = d.cntS r then exec (.ringDrained r) s = .next { s with dev := d.wr (F.RING_STATE r) 0 }
      else exec (.ringDrained r) s = .next s) ∧
    (if (d.ring r).heldEnable = true ∧ st = 0 ∧ (d.ring r).orphans = [] then
      ∃ u, exec (.heldEnableApplied r) s = .next u ∧ OnlyRings s u ∧ u.dev.rd (F.RING_STATE r) = 1 ∧ zero u ∧
        (u.dev.ring r).heldEnable = false
      else exec (.heldEnableApplied r) s = .next s) ∧
    (if (d.ring r).heldResume = true ∧ st = 2 ∧ d.cntP r = d.cntS r then
      ∃ u, exec (.resumeApplied r) s = .next u ∧ OnlyRings s u ∧ u.dev.rd (F.RING_STATE r) = 1 ∧ (u.dev.ring r).heldResume = false
      else exec (.resumeApplied r) s = .next s)

/-- For a started descriptor that its engine takes up next: an opcode that R397 does not list completes BAD_OPCODE, at its own
command; NOP completes OK and changes nothing but its own outcome; every core or core-range opcode with a TARGET of 0xFF00 or
above (LAYOUT_COPY to 0xFF00 apart) and every engine opcode with another TARGET completes BAD_OPCODE, and a range with an
absent core ENGINE_ABSENT, with a zero result, no memory byte and no core changed. The engine has nothing of an earlier step
under way. DESCRIPTOR_FETCH on a ring: where the ring may start descriptor S (RUNNING, its port not in D3hot, no FENCE
unfinished, 1 <= (T - S) mod 2^32 <= 2^k, (S - H) mod 2^32 < 2^k, the module in Run and not entering Sleep) whose port is up,
no ring of higher PRIO may, and it is the ring's turn among those of its PRIO, descriptor S starts with the 64 B that the host
has in its slot, S advances by one, the turn passes, and nothing else changes; where the ring may not, or it is not its turn,
nothing changes at all. DESC_READ_FAIL of a descriptor that might start, or any read of it while the port is down, halts the
ring at count S with HALT_INDEX its slot, starts nothing, and leaves T, S, P and H. -/
def Obligations.DescriptorsStartAndAreChecked : Prop :=
  (∀ (r : Fin 64) (k : Word) (y : Desc) (s : State), s.dev.engineOn y.op = true → s.dev.desc r k = some y → y.taken = false → y.outcome = none →
    s.dev.firstForEngine y = true →
    let zero (u : State) (st : St) : Prop := Ends u r k st [] ∧ u.dev.mem = s.dev.mem ∧ u.dev.cores = s.dev.cores
    (y.op = 0 → ∃ u, exec (.nop r k) s = .next u ∧ OnlyRing s u r ∧ Ends u r k stOk []) ∧
    (targetKind y.op = .unknown → ∃ u, exec (.unknownOpcode r k) s = .next u ∧ zero u stBadOpcode) ∧
    ∀ i, TakesUp i r k y.op → (∀ j ∈ s.dev.cxe.jobs, ¬ (j.ring = r ∧ j.count = k)) → s.dev.twin.pairing = none → s.dev.twin.fill = none →
      let ends (st : St) : Prop := ∃ u, exec i s = .next u ∧ zero u st
      (∀ t, targetKind y.op = .engine t → y.target ≠ t → ends stBadOpcode) ∧
      (targetKind y.op = .cores → 0xFF00 ≤ y.target → ends stBadOpcode) ∧
      (targetKind y.op = .cores → y.target < 0xFF00 → y.cnt ≠ 0 → s.dev.coreCount < y.target + y.cnt → ends stEngineAbsent) ∧
      (targetKind y.op = .layout → 0xFF00 < y.target → ends stBadOpcode) ∧
      (targetKind y.op = .layout → y.target < 0xFF00 → s.dev.coreCount ≤ y.target → ends stEngineAbsent)) ∧
  (∀ (r : Fin 64) (bytes : List Byte) (resp : HostResp) (s : State), bytes.length = 64 →
    let d := s.dev
    let p := d.ringPort r
    let slot := d.slotAddr r (d.cntS r)
    let mine : Prop := Eligible s r ∧ d.pcieUp p = true ∧ (∀ q, q < 64 → d.rd (F.PRIO r) < d.rd (F.PRIO q) → ¬ Eligible s q) ∧ NextInTurn s r
    (mine → ∃ u y, exec (.descriptorFetch r bytes) s = .next u ∧ (u.dev.ring r).started = (d.ring r).started ++ [y] ∧
        y.count = BitVec.ofNat 32 (d.cntS r) ∧ y.raw = bytes ∧ y.nearTop = d.nearTop ∧ y.taken = false ∧ y.outcome = none ∧
        y.finished = false ∧ y.order = d.nextOrd ∧ u.dev.cntS r = (d.cntS r + 1) % 2 ^ 32 ∧ KeepsRegs s u [F.SQ_STARTED r] ∧
        (∀ q, q ≠ r.val → u.dev.ring q = d.ring q) ∧ Tab.get u.dev.turn (d.rd (F.PRIO r)) 0 = r + 1 ∧
        u = { s with dev := { d with
          regs := u.dev.regs, rings := u.dev.rings, nextOrd := d.nextOrd + 1, turn := u.dev.turn, env := u.dev.env } } ∧
        (∀ a, Tab.get (u.dev.hostMem p) a 0 =
          if slot ≤ a ∧ a < slot + 64 then bytes.getD (a - slot) 0 else Tab.get (d.hostMem p) a 0) ∧
        u.dev.hostMem (otherPort p) = d.hostMem (otherPort p)) ∧
    (¬ mine → exec (.descriptorFetch r bytes) s = .next s) ∧
    (Eligible s r → resp ≠ .ok ∨ d.pcieUp p = false → ∃ u, exec (.descReadFail r resp) s = .next u ∧ u.dev.rd (F.RING_STATE r) = 2 ∧
      u.dev.rd (F.HALT_INDEX r) = d.cntS r % d.ringSize r ∧ (u.dev.ring r).started = (d.ring r).started ∧
      u.dev.cntT r = d.cntT r ∧ u.dev.cntS r = d.cntS r ∧ u.dev.cntP r = d.cntP r ∧ u.dev.cntH r = d.cntH r ∧ u.dev.mem = d.mem) ∧
    (¬ Eligible s r ∨ (resp = .ok ∧ d.pcieUp p = true) → exec (.descReadFail r resp) s = .next s))

/-- A FENCE that starts notes every unfinished started descriptor of its ring and of the rings of its mask; taken up, it has no
outcome yet. FENCE_RELEASE gives it its outcome exactly when everything it waits for has finished and its flush reads are
answered: status OK unless a flush failed, WAITED the number it waited for and NOT_OK how many did not finish OK; else nothing
changes. CROSS_PORT_FLUSH of a FENCE with XFLUSH whose waits are done, on a port that is up, in D0, and whose last written
address is known, issues one flush read to that address and counts the port as flushed; a read that is answered with an error
gives ACCESS_OUT_OF_MAP. Another descriptor with XFLUSH that has its outcome reads the last address it wrote through the port
its ring does not use, and a status of OK becomes ACCESS_OUT_OF_MAP where that read fails. -/
def Obligations.FencesWaitAndFlush : Prop :=
  ∀ (r : Fin 64) (k : Word) (y : Desc) (s : State), s.dev.desc r k = some y →
    (y.op = 1 →
    (∀ bytes (u : State), exec (.descriptorFetch r bytes) s = .next u → bytes.length = 64 → u ≠ s → field bytes 0 1 = 1 →
      ∃ z, (u.dev.ring r).started = (s.dev.ring r).started ++ [z] ∧ ∀ (q : Nat) (x : Desc), q < 64 →
        ((⟨q, x.count, none⟩ : FenceWait) ∈ z.waits ↔ (q = r.val ∨ (field bytes 0x18 8).testBit q = true) ∧
          ∃ w ∈ (s.dev.ring q).all, w.count = x.count ∧ w.finished = false)) ∧
    (AtEngine s r k 1 y → ∃ u, exec (.fence r k) s = .next u ∧ OnlyRing s u r ∧ u.dev.desc r k = some { y with taken := true }) ∧
    (y.taken = true → y.finished = false → (∀ w ∈ y.waits, w.done ≠ none) → s.dev.flushDone r y = true →
      ∃ u, exec (.fenceRelease r k) s = .next u ∧ OnlyRing s u r ∧ u.dev.desc r k = some { y with
        outcome := some ((y.outcome.map (·.1)).getD stOk, leBytes 4 y.waits.length ++
          leBytes 4 (y.waits.countP (fun w => w.done == some false)) ++ leBytes 8 0) }) ∧
    (y.taken = false ∨ y.finished = true ∨ (∃ w ∈ y.waits, w.done = none) ∨ s.dev.flushDone r y = false → exec (.fenceRelease r k) s = .next s) ∧
    (∀ (p : PciePort) (resp : HostResp) (a : Nat), y.xflush = true → y.taken = true → y.finished = false → (∀ w ∈ y.waits, w.done ≠ none) →
      s.dev.pcieUp p = true → (s.dev.port p).d3hot = false → (s.dev.port p).lastAddr = some a → p ∉ y.flushed →
      ∃ u z, exec (.crossPortFlush r k p resp) s = .next u ∧ u.dev.desc r k = some z ∧ z.flushed = y.flushed ++ [p] ∧
        (u.dev.port p).out = (s.dev.port p).out ++ [.flushRead a] ∧ u.dev.mem = s.dev.mem ∧
        (resp = .ok → z.outcome = y.outcome) ∧
        (resp = .unsupported ∨ resp = .abort ∨ resp = .timeout → y.outcome = none → z.outcome.map (·.1) = some stOutOfMap))) ∧
    (∀ (resp : HostResp) (a : Nat) (st : St) (res : List Byte), y.op ≠ 1 → y.xflush = true → y.outcome = some (st, res) → y.lost = false →
      y.finished = false → y.other = some a →
      let p := otherPort (s.dev.ringPort r)
      (s.dev.port p).d3hot = false → p ∉ y.flushed →
      ∃ u z, exec (.crossPortFlush r k p resp) s = .next u ∧ u.dev.desc r k = some z ∧ z.flushed = y.flushed ++ [p] ∧ u.dev.mem = s.dev.mem ∧
        (s.dev.pcieUp p = true → (u.dev.port p).out = (s.dev.port p).out ++ [.flushRead a]) ∧
        (s.dev.pcieUp p = true → resp = .ok → z.outcome = y.outcome) ∧
        (s.dev.pcieUp p = false ∨ resp = .unsupported ∨ resp = .abort ∨ resp = .timeout →
          z.outcome = some (if st = stOk then stOutOfMap else st, res)))

/-- DESCRIPTOR_FINISH of a descriptor with an outcome, no write waiting at a port and no flush to wait for: it is finished with
its status and result; a status that does not halt, or CONT_ERR 1, on a ring without a halt leaves the ring state; a halting
status with CONT_ERR 0 on a RUNNING ring without a halt makes it HALTED with HALT_INDEX its slot, and each finished descriptor
of a higher count reports ABORTED_AFTER_ERROR. COMPLETION_POST, where the descriptor of count P is finished, and the port up
and in D0: 32 B with TAG, STATUS, slot, PHASE and ring, and result land at CQ_BASE + 32 * slot, P advances, and the vector is
raised only for IRQ 1 or a status that is not OK with IRQ_ERR 1. IRQ_HOLDOFF_END ends the hold-off and sends merged causes as
one message. -/
def Obligations.DescriptorsFinishAndPost : Prop :=
  ∀ (r : Fin 64) (s : State),
    let d := s.dev
    let x := d.ring r
    let p := d.ringPort r
    (∀ (y : Desc) (st : St) (res : List Byte), Lone s r y → y.outcome = some (st, res) → y.finished = false → y.lost = false →
      d.flushDone r y = true →
      (y.held ≠ [] → exec (.descriptorFinish r y.count) s = .next s) ∧
      (y.held = [] → ∃ u, exec (.descriptorFinish r y.count) s = .next u ∧ u.dev.mem = d.mem ∧ u.dev.cores = d.cores ∧
        (x.halt = none → haltingStatus st = false ∨ d.rd (F.CONT_ERR r) ≠ 0 → u.dev.regs = d.regs ∧ (u.dev.ring r).halt = none ∧
          ∃ z ∈ (u.dev.ring r).started, z.count = y.count ∧ z.finished = true ∧ z.status = st ∧ z.result = res) ∧
        (x.halt = none → haltingStatus st = true → d.rd (F.CONT_ERR r) = 0 → d.rd (F.RING_STATE r) = 1 →
          u.dev.rd (F.RING_STATE r) = 2 ∧ u.dev.rd (F.HALT_INDEX r) = y.count.toNat % d.ringSize r ∧ (u.dev.ring r).halt = some y.count ∧
          (∃ z ∈ (u.dev.ring r).started, z.count = y.count ∧ z.finished = true ∧ z.status = st ∧ z.result = res) ∧
          (∀ z ∈ (u.dev.ring r).started, z.finished = true → before32 y.count z.count = true → z.status = stAborted)))) ∧
    (∀ y : Desc, Lone s r y → y.count.toNat = d.cntP r → y.finished = true → d.pcieUp p = true → (d.port p).d3hot = false →
      y.result.length = 16 →
      let a := d.rd (F.CQ_BASE r) / 4096 * 4096 + 32 * (y.count.toNat % d.ringSize r)
      ∃ u bs, exec (.completionPost r) s = .next u ∧ getBytes (u.dev.hostMem p) a 32 = bs ∧
        field bs 0 4 = field y.raw 4 4 ∧ field bs 4 2 = y.status.toNat ∧ field bs 6 2 = y.count.toNat % d.ringSize r ∧
        field bs 8 1 = (if y.count.toNat / d.ringSize r % 2 = 0 then 1 else 0) + 2 * r ∧ field bs 9 7 = 0 ∧ bs.drop 16 = y.result ∧
        u.dev.cntP r = (d.cntP r + 1) % 2 ^ 32 ∧ (u.dev.ring r).started = x.started.filter (fun z => z.count != y.count) ∧
        u.dev.mem = d.mem ∧ u.dev.cores = d.cores ∧
        (y.irq = false → y.status = stOk ∨ d.rd (F.IRQ_ERR r) ≠ 1 → (u.dev.port p).out = (d.port p).out ++ [.record r a bs]) ∧
        (y.irq = true ∨ (y.status ≠ stOk ∧ d.rd (F.IRQ_ERR r) = 1) → x.holdoff = false → d.vecSends p (d.rd (F.VEC r)) = true →
          let e := Tab.get (d.port p).msix (d.rd (F.VEC r)) MsixEntry.reset
          (u.dev.port p).out = (d.port p).out ++ [.record r a bs, .msix (d.rd (F.VEC r)) e.addr.toNat e.data.toNat])) ∧
    (x.holdoff = true → x.merged = false → exec (.irqHoldoffEnd r) s = .next { s with dev := d.setRing r { x with holdoff := false } }) ∧
    (x.holdoff = true → x.merged = true → d.pcieUp p = true → (d.port p).d3hot = false → d.vecSends p (d.rd (F.VEC r)) = true →
      let e := Tab.get (d.port p).msix (d.rd (F.VEC r)) MsixEntry.reset
      ∃ u, exec (.irqHoldoffEnd r) s = .next u ∧ (u.dev.port p).out = (d.port p).out ++ [.msix (d.rd (F.VEC r)) e.addr.toNat e.data.toNat] ∧
        (u.dev.ring r).merged = false) ∧
    (x.holdoff = false → exec (.irqHoldoffEnd r) s = .next s)

/-- For a started descriptor that passes its checks, with COUNT not 0: CODE_LOAD of a region inside the backed near tier sets
CODE_BASE and CODE_LEN of each IDLE or STOPPED core of its range with its cache invalidated, and is pending at each RUNNING
one; a region that leaves the near tier completes ACCESS_OUT_OF_MAP and changes no core. CORE_RUN starts each IDLE or STOPPED
core at ADDR with bits [2:0] ignored, T0 current, CFLAGS cleared only with CLRF, and every register kept; a RUNNING core
finishes its program first. An immediate CORE_STOP discards what has not started and stops a core with nothing started, while
one with something started stays RUNNING and halted until that has finished; at AT_YIELD it is pending at a RUNNING core; an
IDLE or STOPPED core only has its clock back. Cores outside the range keep their state; COUNT 0 completes OK. -/
def Obligations.ProgramsLoadRunAndStop : Prop :=
  ∀ (r : Fin 64) (k : Word) (y : Desc) (s : State),
    let d := s.dev
    let inRange (n : Nat) : Prop := y.target ≤ n ∧ n < y.target + y.cnt
    let open_ (u : State) : Prop := u.dev.desc r k = some { y with taken := true }
    let others (u : State) : Prop := (∀ n, ¬ inRange n → u.dev.core n = d.core n) ∧ u.dev.mem = d.mem ∧ u.dev.regs = d.regs
    let idle (n : Nat) : Prop := (d.core n).status ≠ .running
    (AtEngine s r k 0x31 y → y.len ≠ 0 → y.cnt ≠ 0 →
      (y.addr + y.len ≤ d.nearTop → ∃ u, exec (.codeLoad r k) s = .next u ∧ open_ u ∧ others u ∧ ∀ n, inRange n →
        (idle n → u.dev.core n = loadedCore (d.core n) y.addr y.len ∧ (r.val, k, n) ∈ u.dev.acks) ∧
        (¬ idle n → u.dev.core n = { d.core n with actions := (d.core n).actions ++ [.load r k y.addr y.len (y.at 0x18 4)] })) ∧
      (d.nearTop < y.addr + y.len → y.nearTop ≤ d.nearTop →
        ∃ u, exec (.codeLoad r k) s = .next u ∧ OnlyRing s u r ∧ Ends u r k stOutOfMap [])) ∧
    (AtEngine s r k 0x32 y → y.cnt ≠ 0 → ∃ u, exec (.coreRun r k) s = .next u ∧ open_ u ∧ others u ∧ ∀ n, inRange n →
      (idle n → u.dev.core n = startedCore (d.core n) r k (y.addr % 2 ^ 32) (bit (y.at 0x18 1) 0)) ∧
      (¬ idle n → u.dev.core n = { d.core n with runQ := (d.core n).runQ ++ [⟨r, k, y.addr % 2 ^ 32, bit (y.at 0x18 1) 0⟩] })) ∧
    (AtEngine s r k 0x33 y → y.cnt ≠ 0 → ∃ u, exec (.coreStop r k) s = .next u ∧ open_ u ∧ others u ∧ ∀ n, inRange n →
      let c := d.core n
      (idle n → u.dev.core n = { c with gated := false } ∧ (r.val, k, n) ∈ u.dev.acks) ∧
      (¬ idle n → bit (y.at 0x18 1) 0 = true → u.dev.core n = { c with actions := c.actions ++ [.stop r k] }) ∧
      (¬ idle n → bit (y.at 0x18 1) 0 = false → (∀ e ∈ c.queue, e.started = false) → (∀ o p v, c.wait ≠ some (.waitw o p v)) →
        c.halt = none → c.actions = [] → c.runQ = [] →
        u.dev.core n = { c with
            status := .stopped, queue := [], wait := none, run := none, lastPc := c.pc, lastWhy := 2, gated := false, stopReq := false } ∧
          (r.val, k, n) ∈ u.dev.acks) ∧
      (¬ idle n → bit (y.at 0x18 1) 0 = false → (∃ e ∈ c.queue, e.started = true) →
        (u.dev.core n).status = .running ∧ (u.dev.core n).queue = c.queue.filter QEntry.started ∧ (u.dev.core n).stopReq = true ∧
          (u.dev.core n).actions = c.actions ++ [.stop r k] ∧
          (u.dev.core n).halt = some (match c.halt with | some h => h | none => ⟨2, stOk, c.pc⟩))) ∧
    (y.cnt = 0 → (AtEngine s r k 0x31 y → ∃ u, exec (.codeLoad r k) s = .next u ∧ OnlyRing s u r ∧ Ends u r k stOk []) ∧
      (AtEngine s r k 0x32 y → ∃ u, exec (.coreRun r k) s = .next u ∧ OnlyRing s u r ∧ Ends u r k stOk []) ∧
      (AtEngine s r k 0x33 y → ∃ u, exec (.coreStop r k) s = .next u ∧ OnlyRing s u r ∧ Ends u r k stOk []))

/-- For a started descriptor that passes its checks. COPY inside the near tier, on clean ranges apart from one another, copies its
LEN bytes, completes OK with BYTES_DONE = LEN and changes no other byte; LEN 0 changes no byte; a source that nothing backs
completes ACCESS_OUT_OF_MAP with BYTES_DONE 0 and changes no byte. APO_TRANSLATE of an APO that its header or its hash refuses
completes TRANSLATE_FAILED and writes nothing; of an accepted one whose translation fits in DEST_CAP it writes the entry table
and the SNC at DEST, completes OK with the length and NKERNEL, and changes no other byte; LEN 0 does nothing. What code the
translator makes is free (log 35); where the header sets PEWTER each kernel entry holds an SFMODE 1. -/
def Obligations.CopiesAndTranslations : Prop :=
  ∀ (r : Fin 64) (k : Word) (y : Desc) (s : State),
    let dst := y.at 0x18 8
    (AtEngine s r k 0x20 y → NearClean s y.addr y.len → NearClean s dst y.len → y.addr + y.len ≤ dst ∨ dst + y.len ≤ y.addr →
      ∃ u, exec (.copy r k []) s = .next u ∧ u.dev.peek dst y.len = s.dev.peek y.addr y.len ∧ SameOutside s u dst y.len ∧
        Ends u r k stOk (leBytes 8 y.len)) ∧
    (AtEngine s r k 0x20 y → y.len = 0 → ∃ u, exec (.copy r k []) s = .next u ∧ OnlyRing s u r ∧ Ends u r k stOk []) ∧
    (AtEngine s r k 0x20 y → y.len ≠ 0 → s.dev.region y.addr = none → y.nearTop ≤ s.dev.nearTop →
      ∃ u, exec (.copy r k []) s = .next u ∧ OnlyRing s u r ∧ Ends u r k stOutOfMap []) ∧
    (AtEngine s r k 0x30 y → y.len = 0 → ∃ u, exec (.apoTranslate r k []) s = .next u ∧ OnlyRing s u r ∧ Ends u r k stOk []) ∧
    (AtEngine s r k 0x30 y → y.len ≠ 0 → NearClean s y.addr y.len →
      let apo := s.dev.peek y.addr y.len
      let accepted : Prop := field apo 0 4 = 0x314F5041 ∧ field apo 6 2 < 2 ∧ field apo 0x30 16 = 0 ∧
        sha256 ((apo.drop 64).take (field apo 8 4)) = (apo.drop 0x10).take 32 ∧ 1 ≤ field apo 4 1 ∧ field apo 4 1 ≤ 3 ∧
        field apo 5 1 ≤ s.dev.rd F.ADECIA_MINOR
      let o := Config.apoTranslate (s.dev.rd F.TRANSLATOR_VER) apo
      let out := apoBytes (s.dev.rd F.TRANSLATOR_VER) (field apo 0xC 4) (bit (field apo 6 1) 0) o
      (¬ accepted → ∃ u res, exec (.apoTranslate r k []) s = .next u ∧ u.dev.mem = s.dev.mem ∧ Ends u r k stTranslateFailed res ∧
        1 ≤ field res 6 1 ∧ field res 6 1 ≤ 3) ∧
      (accepted → o.err < 4 ∨ 6 < o.err → out.length ≤ y.at 0x20 4 → NearClean s dst out.length →
        ∃ u, exec (.apoTranslate r k []) s = .next u ∧ u.dev.peek dst out.length = out ∧ SameOutside s u dst out.length ∧
          Ends u r k stOk (leBytes 4 out.length ++ leBytes 2 (field apo 0xC 4))))

/-- STEP_REPORT for a started descriptor that passes its checks, to a clean near-tier range with room for every record and the
summary: record i holds the core's number, its COAST, MULT_CHANGED and SAT bits, its multiple, STEP, the saturating sums and
CYC and TIME of each tag; the summary holds for each tag the largest, smallest and summed TIME of the cores that entered it
and their number; RECORDS is COUNT, byte 4 is 1, and the status OK. Without KEEP each core's counters and indications are
cleared (COAST stays set during a coast), with KEEP they stay. No other byte changes. COUNT 0 does nothing. -/
def Obligations.StepReportsTimePhases : Prop :=
  ∀ (r : Fin 64) (k : Word) (y : Desc) (s : State), AtEngine s r k 0x34 y →
    let d := s.dev
    let base := y.addr / 8 * 8
    let step := y.at 0x18 4
    let core (i : Nat) : Core := d.core (y.target + i)
    let ins (t : Nat) : List Nat := ((List.range y.cnt).filter (fun i => decide ((core i).cycOf t ≠ 0))).map (fun i => (core i).timeOf t)
    (y.cnt = 0 → ∃ u, exec (.stepReport r k []) s = .next u ∧ OnlyRing s u r ∧ Ends u r k stOk []) ∧
    (y.cnt ≠ 0 → 1056 * y.cnt + 2080 ≤ y.len → NearClean s base (1056 * y.cnt + 2080) →
      ∃ u, exec (.stepReport r k []) s = .next u ∧ Ends u r k stOk (leBytes 4 y.cnt ++ leBytes 1 1) ∧
        SameOutside s u base (1056 * y.cnt + 2080) ∧
        (∀ i, i < y.cnt →
          let rec_ := u.dev.peek (base + 1056 * i) 1056
          field rec_ 0 2 = y.target + i ∧ field rec_ 2 1 = (core i).indications ∧ field rec_ 3 1 = d.coreMult (y.target + i) % 256 ∧
          field rec_ 4 4 = step ∧ field rec_ 8 8 = sum64 (tags.map (core i).cycOf) ∧ field rec_ 0x10 8 = sum64 (tags.map (core i).timeOf) ∧
          (∀ t, t < 64 → field rec_ (0x20 + 16 * t) 8 = (core i).cycOf t % 2 ^ 64 ∧
            field rec_ (0x28 + 16 * t) 8 = (core i).timeOf t % 2 ^ 64) ∧
          (bit (y.at 0x1C 1) 0 = true → (u.dev.core (y.target + i)).cyc = (core i).cyc ∧ (u.dev.core (y.target + i)).time = (core i).time) ∧
          (bit (y.at 0x1C 1) 0 = false → (u.dev.core (y.target + i)).cyc = [] ∧ (u.dev.core (y.target + i)).time = [] ∧
            (u.dev.core (y.target + i)).coast = decide (d.rd F.COASTING = 1))) ∧
        (∀ sum, sum = u.dev.peek (base + 1056 * y.cnt) 2080 → field sum 0 4 = step ∧ field sum 4 2 = y.cnt ∧ ∀ t, t < 64 →
          field sum (0x20 + 32 * t) 8 = (ins t).foldl max 0 % 2 ^ 64 ∧ field sum (0x38 + 32 * t) 4 = (ins t).length ∧
          field sum (0x30 + 32 * t) 8 = sum64 (ins t) ∧
          (∀ x z, ins t = x :: z → field sum (0x28 + 32 * t) 8 = z.foldl min x % 2 ^ 64) ∧
          (ins t = [] → field sum (0x28 + 32 * t) 8 = 0)))

/-- For a started descriptor that passes its checks. LAYOUT_COPY between unsharded descriptors of the clean near tier: an empty
destination completes OK with WRITTEN 0 and changes no byte; a copy of rank 2 that would read an ordinary MX source with
transposition completes SCALE_AXIS and changes no byte; a copy of one row of up to 4,096 elements of 1, 2, 4 or 8 bytes
without scales writes each element decoded in the source's format and rounded into the destination's under RM, SAT, SEED and
INDEX_BASE, completes OK with WRITTEN the number of elements, and changes no other byte. A descriptor that nothing backs
completes ACCESS_OUT_OF_MAP. PHASE_MAP loads its slot with the axis sizes and the IDs of the table (empty where NAXES or a
size is 0), and answers the coordinates of the lowest entry that holds MY_ID with FOUND 1, or zeros; no other slot changes. -/
def Obligations.LayoutCopiesAndMappings : Prop :=
  ∀ (r : Fin 64) (k : Word) (y : Desc) (drops : Drops) (s : State),
    (AtEngine s r k 0x40 y →
      let src := tdescAt s y.addr
      let dst := tdescAt s (y.at 0x18 8)
      (s.dev.region (y.addr / 8 * 8) = none → y.nearTop ≤ s.dev.nearTop →
        ∃ u, exec (.layoutCopy r k drops) s = .next u ∧ OnlyRing s u r ∧ Ends u r k stOutOfMap (layoutResult 0)) ∧
      (NearClean s (y.addr / 8 * 8) 256 → NearClean s (y.at 0x18 8 / 8 * 8) 256 → src.sharded = false → dst.sharded = false →
        (0 ∈ dst.sizes → ∃ u, exec (.layoutCopy r k drops) s = .next u ∧ OnlyRing s u r ∧ Ends u r k stOk (layoutResult 0)) ∧
        (0 ∉ dst.sizes → 0 ∉ src.sizes → src.rank = 2 → dst.rank = 2 → src.scaling src.fmt = 1 → src.tr = true →
          ∃ u, exec (.layoutCopy r k drops) s = .next u ∧ OnlyRing s u r ∧ Ends u r k stScaleAxis (layoutResult 0)) ∧
        (∀ n : Nat, dst.rank = 1 → src.rank = 1 → dst.sizes = [n] → 1 ≤ n → n ≤ 4096 → src.scaling src.fmt = 0 → dst.scaling dst.fmt = 0 →
          let w := elemBits src.fmt / 8
          let v := elemBits dst.fmt / 8
          let rm := bits (y.at 0x20 1) 0 3
          elemBits src.fmt = 8 * w → elemBits dst.fmt = 8 * v → NearClean s src.base (w * n) → NearClean s dst.base (v * n) →
          ∃ u, exec (.layoutCopy r k drops) s = .next u ∧ Ends u r k stOk (layoutResult n) ∧ SameOutside s u dst.base (v * n) ∧
            ∀ i, i < n → leNat (u.dev.peek (dst.base + v * i) v) =
              ((elemOf dst.fmt).encode ⟨rm, bit (y.at 0x20 1) 3, if rm = 4 then srRandom (y.at 0x28 8) ((y.at 0x30 8 + i) % 2 ^ 64) else 0⟩
                ((elemOf src.fmt).decode (leNat (s.dev.peek (src.base + w * i) w)))).1 % 2 ^ (8 * v)))) ∧
    (AtEngine s r k 0x48 y →
      let m := bits (y.at 0x18 1) 0 3
      let axes := (List.range (min 4 (bits (y.at 0x19 1) 0 3))).map (fun a => y.at (0x1C + 2 * a) 2)
      let p := min 65536 (times axes)
      let id (i : Nat) : Nat := leNat (s.dev.peek (y.addr + 2 * i) 2)
      let me := s.dev.rd F.MY_ID % 2 ^ 16
      let only (u : State) : Prop := u = { s with dev := { s.dev with
          rings := u.dev.rings, cxe := { s.dev.cxe with maps := u.dev.cxe.maps } } } ∧
        (∀ q, q ≠ r.val → u.dev.ring q = s.dev.ring q) ∧ ∀ n, n ≠ m → u.dev.phaseMap n = s.dev.phaseMap n
      (axes = [] ∨ 0 ∈ axes → ∃ u, exec (.phaseMap r k) s = .next u ∧ only u ∧ (u.dev.phaseMap m).empty = true ∧
        Ends u r k stOk []) ∧
      (axes ≠ [] → 0 ∉ axes → NearClean s y.addr (2 * p) →
        ∃ u, exec (.phaseMap r k) s = .next u ∧ only u ∧ (u.dev.phaseMap m).axes = axes ∧ (u.dev.phaseMap m).ids.length = p ∧
          (∀ i, i < p → (u.dev.phaseMap m).ids.getD i 0 = BitVec.ofNat 16 (id i)) ∧
          ((∀ i, i < p → id i ≠ me) → Ends u r k stOk []) ∧
          (∀ i, i < p → id i = me → (∀ j, j < i → id j ≠ me) →
            let at_ (a : Nat) : Nat := i / times (axes.take a) % axes.getD a 1
            Ends u r k stOk (leBytes 2 (at_ 0) ++ leBytes 2 (at_ 1) ++ leBytes 2 (at_ 2) ++ leBytes 2 (at_ 3) ++ leBytes 1 1))))

/-- For a started descriptor that passes its checks, with every expert on this device and every range it touches clean in the near
tier and apart: DISPATCH visits the choices in the order of PRIO; POS holds the slot and the expert of each choice, -1 where
the capacity was reached, -2 for an index outside the map; each kept row stands in its slot; every expert's count word of this
source holds the number of its rows and EPOCH; the result counts kept, dropped and invalid choices and the largest demand;
nothing else changes; an empty map does nothing. COMBINE writes for each token the FP32 fused sums of its kept weights
(divided by their sum with RENORM where that is finite and not zero) and the experts' rows, from +0 or the row in place,
converted to FMT_OUT; a token with no kept choice gets +0 or its unchanged row; the result counts rows, choices, empty and
unnormalised tokens; T, K or N of 0 does nothing. -/
def Obligations.DispatchAndCombine : Prop :=
  ∀ (r : Fin 64) (k : Word) (y : Desc) (drops : Drops) (s : State),
    let tokens := y.cnt
    let kk := min 8 (bits (y.at 0x36 1) 0 4)
    let flags := y.at 0x36 1
    let rank := y.at 0x34 2
    let cap := y.at 0x38 4
    let map := y.at 0x20 8
    (AtEngine s r k 0x41 y → drops = [] → (∀ j ∈ s.dev.cxe.jobs, ¬ (j.ring = r.val ∧ j.count = k)) →
      (∀ o ∈ s.dev.cxe.outst, ¬ (o.ring = r.val ∧ o.count = k)) → NearClean s map 64 →
      let n := field (s.dev.peek map 64) 0 2
      let nsrc := field (s.dev.peek map 64) 2 2
      let entry (e : Nat) : List Byte := s.dev.peek (map + 64 + 32 * e) 32
      let buf (e : Nat) : Nat := field (entry e) 8 8
      let rs := (y.len + 255) / 256 * 256
      let h := (8 * nsrc + 255) / 256 * 256
      let size := h + (rank + 1) * cap * rs
      let pos := y.at 0x28 8
      let idx := y.at 0x18 8
      let row (t : Nat) : Nat := y.addr + t * y.at 0x30 4
      let expert (v : Nat × Nat) : Nat := leNat (s.dev.peek (idx + 4 * (v.1 * kk + v.2)) 4)
      let vs := visits (bit flags 4) tokens kk
      let demand (e : Nat) : Nat := vs.countP (fun v => decide (expert v = e))
      (n = 0 → ∃ u, exec (.dispatch r k drops) s = .next u ∧ OnlyRing s u r ∧ Ends u r k stOk []) ∧
      (n ≠ 0 → rank < nsrc → NearClean s (map + 64) (32 * n) → NearClean s idx (4 * (tokens * kk)) → NearClean s pos (8 * (tokens * kk)) →
        (∀ t, t < tokens → NearClean s (row t) y.len) → Disjoint_ pos (8 * (tokens * kk)) idx (4 * (tokens * kk)) →
        (∀ t, t < tokens → Disjoint_ pos (8 * (tokens * kk)) (row t) y.len) →
        (∀ e, e < n → BitVec.ofNat 16 (field (entry e) 0 2) = s.dev.myId ∧ field (entry e) 0x18 8 < 8 ∧ NearClean s (buf e) size ∧
          Disjoint_ (buf e) size idx (4 * (tokens * kk)) ∧ Disjoint_ (buf e) size pos (8 * (tokens * kk)) ∧
          (∀ t, t < tokens → Disjoint_ (buf e) size (row t) y.len) ∧ ∀ f, f < n → f ≠ e → Disjoint_ (buf e) size (buf f) size) →
        ∃ u, exec (.dispatch r k drops) s = .next u ∧
          (∀ p v, vs[p]? = some v →
            let slot := slotAt expert n cap vs p v
            let e := u.dev.peek (pos + 8 * (v.1 * kk + v.2)) 8
            field e 0 4 = (slot % 2 ^ 32).toNat ∧ field e 4 4 = expert v ∧
            (0 ≤ slot → u.dev.peek (buf (expert v) + h + (rank * cap + slot.toNat) * rs) y.len = s.dev.peek (row v.1) y.len)) ∧
          (∀ e, e < n → u.dev.peek (buf e + 8 * rank) 8 = leBytes 4 (min cap (demand e)) ++ leBytes 4 (y.at 0x3C 4)) ∧
          (∀ a, a < pos ∨ pos + 8 * (tokens * kk) ≤ a → (∀ e, e < n → a < buf e ∨ buf e + size ≤ a) →
            u.dev.peek a 1 = s.dev.peek a 1) ∧
          Ends u r k stOk (leBytes 4 (((List.range n).map (fun e => min cap (demand e))).foldl (fun a b => a + b) 0) ++
            leBytes 4 (((List.range n).map (fun e => demand e - cap)).foldl (fun a b => a + b) 0) ++
            leBytes 4 (vs.countP (fun v => decide (n ≤ expert v))) ++ leBytes 4 (((List.range n).map demand).foldl max 0)))) ∧
    (AtEngine s r k 0x42 y →
      let n := y.len
      let fmt (v : Nat) : Nat := if v = 7 ∨ v = 8 then v else 9
      let fy := fmt (bits (y.at 0x37 1) 0 4)
      let fo := fmt (bits (y.at 0x37 1) 4 4)
      let sy := elemBits fy / 8
      let so := elemBits fo / 8
      let pos (t j : Nat) : List Byte := s.dev.peek (y.at 0x18 8 + 8 * (t * kk + j)) 8
      let kept (t : Nat) : List Nat := (List.range kk).filter (fun j => decide (field (pos t j) 0 4 < 2 ^ 31))
      let entry (t j : Nat) : Nat := map + 64 + 32 * field (pos t j) 4 4
      let row (t j : Nat) : Nat := field (s.dev.peek (entry t j) 32) 0x10 8 +
        (rank * cap + field (pos t j) 0 4) * ((n * sy + 255) / 256 * 256)
      let w (t j : Nat) : Word := BitVec.ofNat 32 (leNat (s.dev.peek (y.at 0x28 8 + 4 * (t * kk + j)) 4))
      let out (t : Nat) : Nat := y.addr + t * y.at 0x30 4
      let unnorm (t : Nat) : Prop := kept t ≠ [] ∧ bit flags 4 = true ∧ ¬ Divides (keptSum ((kept t).map (w t)))
      (tokens = 0 ∨ kk = 0 ∨ n = 0 → ∃ u, exec (.combine r k [] drops) s = .next u ∧ OnlyRing s u r ∧ Ends u r k stOk []) ∧
      (tokens ≠ 0 → kk ≠ 0 → n ≠ 0 → NearClean s (y.at 0x18 8) (8 * (tokens * kk)) → NearClean s (y.at 0x28 8) (4 * (tokens * kk)) →
        (∀ t, t < tokens → NearClean s (out t) (n * so) ∧ Disjoint_ (out t) (n * so) (y.at 0x18 8) (8 * (tokens * kk)) ∧
          Disjoint_ (out t) (n * so) (y.at 0x28 8) (4 * (tokens * kk)) ∧
          (∀ t', t' < tokens → t' ≠ t → Disjoint_ (out t) (n * so) (out t') (n * so)) ∧
          ∀ t', t' < tokens → ∀ j ∈ kept t', Disjoint_ (out t) (n * so) (entry t' j) 32 ∧ Disjoint_ (out t) (n * so) (row t' j) (n * sy)) →
        (∀ t, t < tokens → ∀ j ∈ kept t, field (pos t j) 4 4 < 2 ^ 31 ∧ NearClean s (entry t j) 32 ∧
          BitVec.ofNat 16 (field (s.dev.peek (entry t j) 32) 0 2) = s.dev.myId ∧ NearClean s (row t j) (n * sy)) →
        ∃ u empty undone, exec (.combine r k [] drops) s = .next u ∧
          (∀ t, t < tokens →
            (kept t = [] → bit flags 5 = true → u.dev.peek (out t) (n * so) = s.dev.peek (out t) (n * so)) ∧
            (kept t ≠ [] ∨ bit flags 5 = false → ∀ i, i < n →
              let ws := (kept t).map (w t)
              let old := if bit flags 5 then (toF32 ((elemOf fo).decode (leNat (s.dev.peek (out t + so * i) so)))).1 else 0
              let ys := (kept t).map (fun j => (elemOf fy).decode (leNat (s.dev.peek (row t j + sy * i) sy)))
              let val (us : List Word) : Nat := ((elemOf fo).encode rne (f32 (combined old us ys))).1 % 2 ^ (8 * so)
              (bit flags 4 = true → Divides (keptSum ws) → leNat (u.dev.peek (out t + so * i) so) =
                val (ws.map (fun v => (toF32 ((f32 v).div (f32 (keptSum ws)))).1))) ∧
              (bit flags 4 = false ∨ ¬ Divides (keptSum ws) → leNat (u.dev.peek (out t + so * i) so) = val ws))) ∧
          (∀ a, (∀ t, t < tokens → a < out t ∨ out t + n * so ≤ a) → u.dev.peek a 1 = s.dev.peek a 1) ∧
          empty = (List.range tokens).countP (fun t => decide (kept t = [])) ∧
          (∀ ts : List Nat, ts.Nodup → (∀ t, t ∈ ts ↔ t < tokens ∧ unnorm t) → undone = ts.length) ∧
          Ends u r k stOk (leBytes 4 tokens ++ leBytes 4 (((List.range tokens).map (fun t => (kept t).length)).foldl (fun a b => a + b) 0) ++
            leBytes 4 empty ++ leBytes 4 undone)))

/-- For a started descriptor that passes its checks. KEEP_READ and KEEP_WRITE: COUNT 0 completes OK; a range past the last block,
and a write below staging, completes ACCESS_OUT_OF_MAP; both change nothing. A KEEP_READ of good blocks to clean near tier
puts them there in order; a bad block stops it with MEM_UNCORRECTABLE, BLOCKS_DONE counting those before. A KEEP_WRITE from
clean near tier commits its blocks; with NV_INHIBIT it completes NV_INHIBITED and writes nothing; a rail that falls during
block j leaves j blocks written. SNAP_WRITE writes the ranges' data from the second block of its slot on and then a header
with VALID, GEN_LOCAL, STEP, LOSS and STATE_HASH; aborted after its first block, the slot holds no snapshot. SNAP_READ of a
slot without a valid header completes ACCESS_OUT_OF_MAP; otherwise it restores the ranges of the header, with MATCH. Nothing
else of either memory changes. -/
def Obligations.KeepTierMovesWholeBlocks : Prop :=
  ∀ (r : Fin 64) (k : Word) (y : Desc) (drops : Drops) (s : State),
    let b := y.at 0x18 8
    let n := y.cnt
    let slot := if bit (y.at 0x18 1) 0 then 0x8800000 else 0x1000000
    let struck (u : State) : Prop := u.dev.rd F.NV_INHIBIT = 1 ∧ u.dev.rd F.NV_ABORTED = 1
    (AtEngine s r k 0x50 y →
      (n = 0 → ∃ u, exec (.keepRead r k drops) s = .next u ∧ OnlyRing s u r ∧ Ends u r k stOk []) ∧
      (n ≠ 0 → 2 ^ 28 < b + n → ∃ u, exec (.keepRead r k drops) s = .next u ∧ OnlyRing s u r ∧ Ends u r k stOutOfMap []) ∧
      (n ≠ 0 → 0x14000 ≤ b ∨ (0x4000 ≤ b ∧ b + n ≤ 0x8000) → b + n ≤ 2 ^ 28 → NearClean s y.addr (4096 * n) →
        ((∀ i, i < n → b + i ∉ s.dev.mem.keepBad) → ∃ u, exec (.keepRead r k drops) s = .next u ∧ u.dev.mem.keep = s.dev.mem.keep ∧
          u.dev.peek y.addr (4096 * n) = keepAt s b (4096 * n) ∧ SameOutside s u y.addr (4096 * n) ∧ Ends u r k stOk (leBytes 4 n)) ∧
        (∀ j, j < n → (∀ i, i < j → b + i ∉ s.dev.mem.keepBad) → b + j ∈ s.dev.mem.keepBad →
          ∃ u, exec (.keepRead r k drops) s = .next u ∧ u.dev.mem.keep = s.dev.mem.keep ∧
            u.dev.peek y.addr (4096 * j) = keepAt s b (4096 * j) ∧ SameOutside s u y.addr (4096 * j) ∧
            Ends u r k stMemUnc (leBytes 4 j)))) ∧
    (AtEngine s r k 0x51 y →
      (n = 0 → ∃ u, exec (.keepWrite r k none) s = .next u ∧ OnlyRing s u r ∧ Ends u r k stOk []) ∧
      (n ≠ 0 → b < 0x14000 ∨ 2 ^ 28 < b + n →
        ∃ u, exec (.keepWrite r k none) s = .next u ∧ OnlyRing s u r ∧ Ends u r k stOutOfMap []) ∧
      (n ≠ 0 → 0x14000 ≤ b → b + n ≤ 2 ^ 28 → NearClean s y.addr (4096 * n) →
        (s.dev.rd F.NV_INHIBIT = 1 → ∃ u, exec (.keepWrite r k none) s = .next u ∧ u.dev.mem = s.dev.mem ∧ u.dev.rd F.NV_ABORTED = 1 ∧
          Ends u r k stNvInhibited []) ∧
        (s.dev.rd F.NV_INHIBIT ≠ 1 →
          (∃ u, exec (.keepWrite r k none) s = .next u ∧ u.dev.mem.bytes = s.dev.mem.bytes ∧ keepAt u b (4096 * n) = s.dev.peek y.addr (4096 * n) ∧
            KeepOutside s u b (4096 * n) ∧ Ends u r k stOk (leBytes 4 n)) ∧
          (∀ j, j < n → ∃ u, exec (.keepWrite r k (some j)) s = .next u ∧ u.dev.mem.bytes = s.dev.mem.bytes ∧
            keepAt u b (4096 * j) = s.dev.peek y.addr (4096 * j) ∧ KeepOutside s u b (4096 * j) ∧ struck u ∧
            Ends u r k stNvInhibited (leBytes 4 j))))) ∧
    (AtEngine s r k 0x76 y → Free s →
      (s.dev.rd F.NV_INHIBIT = 1 → ∃ u, exec (.snapWrite r k none) s = .next u ∧ u.dev.mem = s.dev.mem ∧ Ends u r k stNvInhibited []) ∧
      (s.dev.rd F.NV_INHIBIT ≠ 1 → CleanRanges s s.dev.twin.ranges →
        let data := rangesData s s.dev.twin.ranges
        (∃ u, exec (.snapWrite r k none) s = .next u ∧ u.dev.mem.bytes = s.dev.mem.bytes ∧
          HeaderOf s (keepAt u slot 4096) (s.dev.rd F.GEN_LOCAL) (y.at 0x28 4) (y.at 0x20 8) (stateHash data) ∧
          keepAt u (slot + 1) data.length = data ∧ KeepOutside s u slot (4096 + data.length) ∧
          Ends u r k stOk (leBytes 4 (data.length / 4096))) ∧
        (∀ j, j ≤ data.length / 4096 → ∃ u, exec (.snapWrite r k (some (j + 1))) s = .next u ∧ ¬ Valid (keepAt u slot 4096) ∧
          KeepOutside s u slot (4096 + 4096 * j) ∧ struck u ∧ Ends u r k stNvInhibited (leBytes 4 j)))) ∧
    (AtEngine s r k 0x77 y → Free s →
      let h := keepAt s slot 4096
      let rs := hdrRanges h
      (slot ∈ s.dev.mem.keepBad ∨ ¬ Valid h → ∃ u, exec (.snapRead r k) s = .next u ∧ OnlyRing s u r ∧ Ends u r k stOutOfMap []) ∧
      (slot ∉ s.dev.mem.keepBad → Valid h → CleanRanges s rs → ApartRanges rs →
        let total := (rangesData s rs).length
        let data := keepAt s (slot + 1) total
        (∀ i, i < total / 4096 → slot + 1 + i ∉ s.dev.mem.keepBad) →
        ∃ u, exec (.snapRead r k) s = .next u ∧ rangesData u rs = data ∧ u.dev.twin.ranges = rs ∧ u.dev.rd F.GEN_LOCAL = field h 8 8 ∧
          (∀ a, (∀ g ∈ rs, a < g.1 ∨ g.1 + g.2 ≤ a) → u.dev.peek a 1 = s.dev.peek a 1) ∧ u.dev.mem.keep = s.dev.mem.keep ∧
          Ends u r k stOk (leBytes 4 (total / 4096) ++ leBytes 4 (field h 0x10 4) ++
            leBytes 1 (if stateHash data = (h.drop 0x20).take 32 then 1 else 0))))

/-- For a started descriptor that passes its checks, with no pairing and no fill under way: TWIN_PAIR without an ID, with its own
ID, or with an area outside the far tier completes ACCESS_OUT_OF_MAP and changes nothing; otherwise TWIN_STATE is PAIRING,
PARTNER_ID names the partner, and the area is kept (KEEP_HOSTED with the same partner) or taken with both slot headers
invalid. TWIN_UNPAIR completes OK with TWIN_STATE UNPAIRED, and rebuilds under way lose their twin source. TWIN_REG registers
its entries of nonzero length, or completes ACCESS_OUT_OF_MAP above the limit. HEARTBEAT reads the partner's status block with
one READ_REQ of source queue 0x0310 on VC 2; while PAIRING its answer ends the pairing with OUTCOME 1 (same feed,
FEED_OVERRIDE 0), 2 (refused there) or 0 (named: PAIRED); while PAIRED a good answer clears the misses, no answer or no way is
a miss, and the miss that reaches the limit makes the partner LOST with PARTNER_LOST. PAIRING_TIMEOUT ends a pairing with
OUTCOME 3, or LINK_LOST where the partner never answered. -/
def Obligations.TwinsPairAndLoseEachOther : Prop :=
  (∀ (r : Fin 64) (k : Word) (y : Desc) (s : State), Free s →
    (AtEngine s r k 0x70 y → s.dev.rd F.MY_ID < 2 ^ 16 →
      let id := y.at 0x18 2
      let keep := bit (y.at 0x1A 1) 0 && decide (id = s.dev.rd F.PARTNER_ID)
      let base := if keep then s.dev.rd F.HOST_BASE else y.at 0x20 8 / 65536 * 65536
      let size := if keep then s.dev.rd F.HOST_SIZE else y.at 0x28 8 / 65536 * 65536
      let half := size / 2 / 65536 * 65536
      let bad : Prop := s.dev.rd F.MY_ID = 0xFFFF ∨ id = s.dev.rd F.MY_ID ∨ base < farBase ∨ 0x068000000000 < base + size
      (bad → ∃ u, exec (.twinPair r k) s = .next u ∧ OnlyRing s u r ∧ Ends u r k stOutOfMap []) ∧
      (¬ bad → s.dev.tier.farFailed = [] → ∃ u, exec (.twinPair r k) s = .next u ∧ u.dev.desc r k = some { y with taken := true } ∧
        u.dev.rd F.TWIN_STATE = 1 ∧ u.dev.rd F.PARTNER_ID = id ∧ u.dev.rd F.HOST_BASE = base ∧ u.dev.rd F.HOST_SIZE = size ∧
        u.dev.twin.pairing = some (r.val, k) ∧ u.dev.twin.ranges = s.dev.twin.ranges ∧ (keep = true → u.dev.mem = s.dev.mem) ∧
        (keep = false → half ≠ 0 → u.dev.peek base 4096 = List.replicate 4096 0 ∧ u.dev.peek (base + half) 4096 = List.replicate 4096 0) ∧
        ∀ a, a < base ∨ (base + 4096 ≤ a ∧ a < base + half) ∨ base + half + 4096 ≤ a → u.dev.peek a 1 = s.dev.peek a 1)) ∧
    (AtEngine s r k 0x71 y → ∃ u, exec (.twinUnpair r k) s = .next u ∧ KeepsRegs s u [F.TWIN_STATE] ∧
      u = { s with dev := { s.dev with regs := u.dev.regs, rings := u.dev.rings, tier := { s.dev.tier with
        sweeps := s.dev.tier.sweeps.map (fun w => { w with lost := true }) } } } ∧
      u.dev.rd F.TWIN_STATE = 0 ∧ Ends u r k stOk []) ∧
    (AtEngine s r k 0x72 y → ∀ n, n = min 16 y.cnt → NearClean s y.addr (16 * n) →
      let entry (i : Nat) : Nat × Nat := (leNat (s.dev.peek (y.addr + 16 * i) 8) / 65536 * 65536,
        leNat (s.dev.peek (y.addr + 16 * i + 8) 8) / 65536 * 65536)
      let rs := ((List.range n).map entry).filter (fun g => decide (g.2 ≠ 0))
      let total := rs.foldl (fun t g => t + g.2) 0
      (total ≤ 515396009984 → ∃ u, exec (.twinReg r k) s = .next u ∧ Ends u r k stOk [] ∧
        u = { s with dev := { s.dev with rings := u.dev.rings, twin := { s.dev.twin with ranges := rs } } }) ∧
      (515396009984 < total → ∃ u, exec (.twinReg r k) s = .next u ∧ OnlyRing s u r ∧ Ends u r k stOutOfMap []))) ∧
  (∀ (ans : PartnerAns) (s : State), s.dev.sys.phase = .run →
    (s.dev.rd F.TWIN_STATE = 2 →
      let good : Prop := ans.answered = true ∧ ans.status = stOk ∧ ans.namesUs = true
      let limit := max 1 (s.dev.rd F.PARTNER_MISS_LIMIT)
      let unheard : Prop := ¬ good ∨ s.dev.askStatus.2 = false
      let asks (u : State) : Prop := u = { s with dev := { s.dev with
        regs := u.dev.regs, links := u.dev.links, cxe := u.dev.cxe, twin := u.dev.twin } }
      (∀ p, PartnerPort s p → s.dev.askStatus.2 = true) ∧
      (∀ p, good → PartnerPort s p → ∃ (u : State) (q : Pkt), exec (.heartbeat ans) s = .next u ∧ u.dev.twin.misses = 0 ∧ asks u ∧
        u.dev.regs = s.dev.regs ∧ Queued s u p [q] ∧ q.pop = 3 ∧ q.vc = 2 ∧ q.sq = 0x310 ∧ q.dst.toNat = s.dev.rd F.PARTNER_ID) ∧
      (unheard → s.dev.twin.misses + 1 < limit → ∃ u, exec (.heartbeat ans) s = .next u ∧ asks u ∧
        u.dev.twin = { s.dev.twin with misses := s.dev.twin.misses + 1 }) ∧
      (unheard → s.dev.twin.fill = none → limit ≤ s.dev.twin.misses + 1 → ∃ u, exec (.heartbeat ans) s = .next u ∧ u.dev.rd F.TWIN_STATE = 3 ∧
        u.dev.rd F.PARTNER_LOST = 1 ∧ u.dev.rd F.EVT_PARTNER = 1 ∧ u.dev.mem = s.dev.mem)) ∧
    (∀ (r : Nat) (k : Word) (y : Desc), s.dev.rd F.TWIN_STATE = 1 → s.dev.twin.pairing = some (r, k) → s.dev.desc r k = some y →
      let res (o : Nat) : List Byte := leBytes 1 o ++ leBytes 1 ans.feedId.toNat ++ leBytes 6 0 ++ leBytes 8 ans.hostSize
      let same : Prop := ans.feedId = s.dev.sys.strapFeed ∧ s.dev.rd F.FEED_OVERRIDE = 0
      (∀ p, PartnerPort s p → ans.answered = true → ans.status = stOk →
        (same → ∃ u, exec (.heartbeat ans) s = .next u ∧ u.dev.rd F.TWIN_STATE = 0 ∧ u.dev.rd F.FEED_SHARED = 1 ∧ Ends u r k stOk (res 1)) ∧
        (¬ same → ans.refuses = true → ∃ u, exec (.heartbeat ans) s = .next u ∧ u.dev.rd F.TWIN_STATE = 0 ∧ Ends u r k stOk (res 2)) ∧
        (¬ same → ans.refuses = false → ans.namesUs = true → ∃ u, exec (.heartbeat ans) s = .next u ∧ u.dev.rd F.TWIN_STATE = 2 ∧
          u.dev.twin.pairing = none ∧ Ends u r k stOk (res 0))) ∧
      (ans.answered = false → s.dev.twin.answered = true → ∃ u, exec (.pairingTimeout ans) s = .next u ∧ u.dev.rd F.TWIN_STATE = 0 ∧
        Ends u r k stOk (leBytes 1 3 ++ leBytes 1 s.dev.twin.peerFeed.toNat ++ leBytes 6 0 ++ leBytes 8 s.dev.twin.peerSize)) ∧
      (ans.answered = false → s.dev.twin.answered = false → ∃ u, exec (.pairingTimeout ans) s = .next u ∧ u.dev.rd F.TWIN_STATE = 0 ∧
        u.dev.twin.pairing = none ∧ Ends u r k stLinkLost [])))

/-- For a started descriptor that passes its checks, with no pairing and no fill under way and no packet of its ring unanswered.
Unless PAIRED, TWIN_COMMIT and TWIN_FILL complete LINK_LOST and change nothing. Each reads the two slot headers with a
READ_REQ on VC 2. A TWIN_COMMIT whose total exceeds the slot completes ACCESS_OUT_OF_MAP and sends no data; otherwise it
sends, in order, an invalid header, the ranges' data in 8 KiB packets and a valid header with GEN_LOCAL + 1, STEP, LOSS and
STATE_HASH to the slot that is not the newest, and sets GEN_LOCAL and LAST_HASH; a packet that fails leaves GEN_LOCAL and sets
COMMIT_FAIL, the ranges written meanwhile staying dirty. TWIN_FILL without the selected generation completes
ACCESS_OUT_OF_MAP; with it FILL_ACTIVE is set until the data have all come, and then the ranges hold the partner's data, and
GEN, STEP and MATCH are reported; a partner that does not answer leaves every range zero, GEN_LOCAL 0 and FILL_ABORTED; a fill
under way goes on so with the data that its next command brings. TWIN_VERIFY completes OK and sets GEN_LOCAL where hash (and
LOSS) match the record, REPLAY_MISMATCH where not, ACCESS_OUT_OF_MAP without a record. FILL_SERVE sends the hosted slot's data
from source queue 0x0310. What the partner answers is the command's operand (log 17). -/
def Obligations.TwinCopiesCommitFillAndVerify : Prop :=
  (∀ (r : Fin 64) (k : Word) (y : Desc) (ans : PartnerAns) (j : FillJob) (s : State), s.dev.twin.fill = some j → j.ring = r → j.count = k →
    s.dev.desc r k = some y → s.dev.rd F.TWIN_STATE = 2 → CleanRanges s s.dev.twin.ranges →
    let rs := s.dev.twin.ranges
    let outside (u : State) : Prop := ∀ a, (∀ g ∈ rs, a < g.1 ∨ g.1 + g.2 ≤ a) → u.dev.peek a 1 = s.dev.peek a 1
    (∀ m, ApartRanges rs → ans.answered = true → j.data.length = 8192 * m → 8192 * m + ans.data.length = (rangesData s rs).length →
      ∃ u, exec (.twinFill r k ans) s = .next u ∧ rangesData u rs = (rangesData s rs).take (8192 * m) ++ ans.data ∧ outside u ∧
        u.dev.twin.fill = none ∧ u.dev.rd F.FILL_ACTIVE = 0 ∧ u.dev.rd F.GEN_LOCAL = field j.hdr 8 8 ∧
        Ends u r k stOk (leBytes 8 (field j.hdr 8 8) ++ leBytes 4 (field j.hdr 0x10 4) ++
          leBytes 1 (if stateHash (j.data ++ ans.data) = (j.hdr.drop 0x20).take 32 then 1 else 0))) ∧
    (ans.answered = false → ∃ u, exec (.twinFill r k ans) s = .next u ∧ (∀ g ∈ rs, u.dev.peek g.1 g.2 = List.replicate g.2 0) ∧ outside u ∧
      u.dev.twin.fill = none ∧ u.dev.rd F.FILL_ACTIVE = 0 ∧ u.dev.rd F.GEN_LOCAL = 0 ∧ u.dev.rd F.TWIN_STATE = 3 ∧
      Ends u r k stFillAborted [])) ∧
  ∀ (r : Fin 64) (k : Word) (y : Desc) (ans : PartnerAns) (s : State), Free s → (∀ o ∈ s.dev.cxe.outst, o.ring ≠ r.val) →
    let rs := s.dev.twin.ranges
    let data := rangesData s rs
    let told : Prop := s.dev.rd F.TWIN_STATE = 2 ∧ ans.answered = true ∧ ans.status = stOk
    (AtEngine s r k 0x73 y →
      let size := s.dev.twin.peerSize / 2 / 65536 * 65536
      let dirty := ans.dirty.toNat % 2 ^ rs.length
      (s.dev.rd F.TWIN_STATE ≠ 2 → ∃ u, exec (.twinCommit r k ans) s = .next u ∧ OnlyRing s u r ∧ Ends u r k stLinkLost []) ∧
      (∀ p, told → PartnerPort s p → size < 4096 + rs.foldl (fun t g => t + g.2) 0 →
        ∃ u ks, exec (.twinCommit r k ans) s = .next u ∧ Queued s u p ks ∧ AskHeaders s r ks ∧ u.dev.mem = s.dev.mem ∧
          KeepsRegs s u [F.REG_DIRTY] ∧ u.dev.rd F.REG_DIRTY = 0 ∧ Ends u r k stOutOfMap []) ∧
      (∀ p slot, told → 4096 + rs.foldl (fun t g => t + g.2) 0 ≤ size → PartnerPort s p →
        CleanRanges s rs → s.dev.twin.peerBase + 2 * size < 2 ^ 64 →
        (slot = 1 ∧ Newest ans.hdr0 ans.hdr1 0) ∨ (slot = 0 ∧ ¬ Newest ans.hdr0 ans.hdr1 0) →
        let base := s.dev.twin.peerBase + slot * size
        let gen := (s.dev.rd F.GEN_LOCAL + 1) % 2 ^ 64
        (ans.failure = stOk → ∃ u hs k0 ks k1, exec (.twinCommit r k ans) s = .next u ∧ Queued s u p (hs ++ k0 :: ks ++ [k1]) ∧
          AskHeaders s r hs ∧
          u.dev.mem = s.dev.mem ∧ k0.addr = base ∧ k0.data = List.replicate 4096 0 ∧ ks.flatMap (fun q => q.data) = data ∧
          (∀ i q, ks[i]? = some q → q.addr = base + 4096 + 8192 * i ∧ q.data.length = 8192) ∧ k1.addr = base ∧
          HeaderOf s k1.data gen (y.at 0x20 4) (y.at 0x18 8) (stateHash data) ∧
          (∀ q ∈ k0 :: ks ++ [k1], q.vc = 5 ∧ q.pop = 1 ∧ q.sq.toNat = r.val ∧ q.dst.toNat = s.dev.rd F.PARTNER_ID) ∧
          u.dev.rd F.GEN_LOCAL = gen ∧ u.dev.rd F.LAST_HASH = leNat (stateHash data) ∧ u.dev.twin.copied = rs ∧ u.dev.twin.genSlot = slot ∧
          Ends u r k stOk (leBytes 8 gen ++ leBytes 2 dirty ++ leBytes 1 slot)) ∧
        (ans.failure ≠ stOk → ans.failure.toNat < 16 → ans.okPackets ≤ data.length / 8192 + 1 →
          ∃ u, exec (.twinCommit r k ans) s = .next u ∧ u.dev.mem = s.dev.mem ∧
          u.dev.rd F.COMMIT_FAIL = 1 ∧ u.dev.rd F.GEN_LOCAL = s.dev.rd F.GEN_LOCAL ∧ u.dev.rd F.REG_DIRTY = dirty ∧
          (ans.failure = stLinkLost → u.dev.rd F.TWIN_STATE = 3) ∧ Ends u r k ans.failure []))) ∧
    (AtEngine s r k 0x74 y →
      let sel := bit (y.at 0x18 1) 0
      let hdr (j : Nat) : List Byte := if j = 0 then ans.hdr0 else ans.hdr1
      (s.dev.rd F.TWIN_STATE ≠ 2 → ∃ u, exec (.twinFill r k ans) s = .next u ∧ OnlyRing s u r ∧ Ends u r k stLinkLost []) ∧
      (∀ p, told → PartnerPort s p →
        (∀ j, ¬ Newest ans.hdr0 ans.hdr1 j) ∨ (sel = true ∧ ¬ (Valid ans.hdr0 ∧ Valid ans.hdr1)) →
        ∃ u ks, exec (.twinFill r k ans) s = .next u ∧ Queued s u p ks ∧ AskHeaders s r ks ∧ u.dev.mem = s.dev.mem ∧
          u.dev.regs = s.dev.regs ∧ Ends u r k stOutOfMap []) ∧
      (∀ p j, told → PartnerPort s p → Newest ans.hdr0 ans.hdr1 j →
        let h := hdr (if sel then 1 - j else j)
        let gs := hdrRanges h
        Valid h → CleanRanges s gs → ApartRanges gs →
        (ans.data.length = (rangesData s gs).length →
          ∃ u, exec (.twinFill r k ans) s = .next u ∧ rangesData u gs = ans.data ∧ u.dev.twin.ranges = gs ∧ u.dev.twin.fill = none ∧
          u.dev.rd F.GEN_LOCAL = field h 8 8 ∧ u.dev.rd F.FILL_ACTIVE = 0 ∧
          (∀ a, (∀ g ∈ gs, a < g.1 ∨ g.1 + g.2 ≤ a) → u.dev.peek a 1 = s.dev.peek a 1) ∧
          Ends u r k stOk (leBytes 8 (field h 8 8) ++ leBytes 4 (field h 0x10 4) ++
            leBytes 1 (if stateHash ans.data = (h.drop 0x20).take 32 then 1 else 0))) ∧
        (ans.data = [] → gs ≠ [] → ∃ u, exec (.twinFill r k ans) s = .next u ∧ u.dev.mem = s.dev.mem ∧ u.dev.twin.ranges = gs ∧
          u.dev.rd F.FILL_ACTIVE = 1 ∧ u.dev.rd F.GEN_LOCAL = s.dev.rd F.GEN_LOCAL ∧ u.dev.twin.fill = some ⟨r, k, h, []⟩ ∧
          u.dev.desc r k = some { y with taken := true })) ∧
      (∀ p, s.dev.rd F.TWIN_STATE = 2 → ans.answered = false → PartnerPort s p → CleanRanges s rs →
        ∃ u, exec (.twinFill r k ans) s = .next u ∧ (∀ g ∈ rs, u.dev.peek g.1 g.2 = List.replicate g.2 0) ∧ u.dev.rd F.GEN_LOCAL = 0 ∧
          u.dev.rd F.TWIN_STATE = 3 ∧ (∀ a, (∀ g ∈ rs, a < g.1 ∨ g.1 + g.2 ≤ a) → u.dev.peek a 1 = s.dev.peek a 1) ∧
          Ends u r k stFillAborted [])) ∧
    (AtEngine s r k 0x75 y →
      let f := y.at 0x18 1
      let step := y.at 0x28 4
      let snap := keepAt s (if bit f 1 then 0x8800000 else 0x1000000) 4096
      let record (h : List Byte) : Prop := Valid h ∧ field h 0x10 4 = step ∧
        ((bit f 0 = true ∧ h = snap ∧ (if bit f 1 then 0x8800000 else 0x1000000) ∉ s.dev.mem.keepBad) ∨
          (bit f 0 = false ∧ told ∧ (h = ans.hdr0 ∨ h = ans.hdr1)))
      let same (h : List Byte) : Prop := stateHash data = (h.drop 0x20).take 32 ∧ (bit f 2 = true → field h 0x18 8 = y.at 0x20 8)
      let kept (u : State) (fs : List Field) : Prop := KeepsRegs s u fs ∧
        u = { s with dev := { s.dev with regs := u.dev.regs, rings := u.dev.rings, links := u.dev.links, cxe := u.dev.cxe } } ∧
        (bit f 0 = true → u.dev.links = s.dev.links ∧ u.dev.cxe = s.dev.cxe)
      (bit f 0 = false → s.dev.rd F.TWIN_STATE ≠ 2 → ∃ u, exec (.twinVerify r k ans) s = .next u ∧ OnlyRing s u r ∧ Ends u r k stLinkLost []) ∧
      (bit f 0 = true ∨ (∃ p, PartnerPort s p) →
      (∀ h, record h → (∀ g, record g → g = h) → CleanRanges s rs →
        (same h → ∃ u, exec (.twinVerify r k ans) s = .next u ∧ kept u [F.GEN_LOCAL] ∧
          u.dev.rd F.GEN_LOCAL = field h 8 8 ∧ Ends u r k stOk ((stateHash data).take 16)) ∧
        (¬ same h → ∃ u, exec (.twinVerify r k ans) s = .next u ∧ kept u [] ∧ Ends u r k stReplayMismatch ((stateHash data).take 16))) ∧
      ((∀ h, ¬ record h) → bit f 0 = true ∨
          (s.dev.rd F.TWIN_STATE = 2 ∧ ans.answered = true ∧ ans.status.toNat < 16 ∧ ans.status ≠ stLinkLost) →
        ∃ u, exec (.twinVerify r k ans) s = .next u ∧ kept u [] ∧ Ends u r k stOutOfMap []))) ∧
    (∀ sel : Bool, (s.dev.rd F.TWIN_STATE ≠ 2 → exec (.fillServe sel) s = .next s) ∧
      (∀ p j, s.dev.rd F.TWIN_STATE = 2 → PartnerPort s p →
        let size := s.dev.rd F.HOST_SIZE / 2 / 65536 * 65536
        let at_ (i : Nat) : Nat := s.dev.rd F.HOST_BASE + i * size
        let hdr (i : Nat) : List Byte := s.dev.peek (at_ i) 4096
        let i := if sel then 1 - j else j
        let gs := hdrRanges (hdr i)
        size ≠ 0 → FarClean s (s.dev.rd F.HOST_BASE) (2 * size) → (∀ i, Valid (hdr i) → field (hdr i) 8 8 ≠ 0) →
        Newest (hdr 0) (hdr 1) j → Valid (hdr i) → (∀ g ∈ gs, g.2 % 8192 = 0) →
        let total := gs.foldl (fun t g => t + g.2) 0
        4096 + total ≤ size → ∃ u ks, exec (.fillServe sel) s = .next u ∧ Queued s u p ks ∧ u.dev.mem = s.dev.mem ∧
          ks.flatMap (fun q => q.data) = s.dev.peek (at_ i + 4096) total ∧
          ∀ q ∈ ks, q.vc = 5 ∧ q.pop = 1 ∧ q.sq = 0x310 ∧ q.dst.toNat = s.dev.rd F.PARTNER_ID))

/-- LINK_TRAINING of a port that may train comes up at 224 Gb/s where both sides allow it and FEC locks, else at 112 Gb/s, with
fresh sequence numbers, the neighbour's credits on each VC and its skid reserve, and SKID_SHORT where that is below the stop
distance, and its first flit tells the neighbour MY_ID and VC_CRED; otherwise it fails. TRAINING_RETRY and AUTO_RETRAIN start
training again. FLIT_RECEIVE on a port that is up counts what FEC corrected and could not: a flit whose CRC fails only counts;
an IDLE flit sets STOP and gives credits; a DATA flit out of sequence makes the port discard with NACK; the next in sequence
is taken, and a packet whole in one flit goes to hold-back with its credit owed. FLIT_SEND sends one flit: IDLE under a stop
and in Retain, a resend where one is due, a new DATA flit with the next SEQ for one credit, else IDLE. REPLAY_TIMER resends
from the oldest. LINK_LOSS, RETRAIN and clearing PORT_EN declare the port lost and discard its buffers; setting PORT_EN lets
it train. -/
def Obligations.LinksTrainSendAndReceive : Prop :=
  ∀ (p : Fin 18) (s : State),
    let l := s.dev.link p
    let up : Prop := s.dev.rd (F.LINK_STATE p) = 2
    (∀ t : TrainRes,
      (¬ MayTrain s p → exec (.linkTraining p t) s = .next s) ∧
      (∀ v, MayTrain s p → TrainsTo s p t v → ∃ u, exec (.linkTraining p t) s = .next u ∧ u.dev.rd (F.LINK_STATE p) = 2 ∧
        u.dev.rd (F.SPEED p) = v ∧ u.dev.rd (F.NEIGHBOUR_ID p) = t.neighbourId.toNat ∧ u.dev.rd (F.RTT_NS p) = t.rttNs.toNat ∧
        (u.dev.rd F.LINK_UP).testBit p = true ∧ (u.dev.link p).txSeq = 0 ∧ (u.dev.link p).rxLast = 0xFFFF ∧ (u.dev.link p).replay = [] ∧
        (∀ c, c < 8 → Tab.get (u.dev.link p).credits c 0 = t.grant.toNat) ∧ (u.dev.link p).skidSize = reserveOf s p ∧
        (reserveOf s p < (if v = 0 then 112 else 56) * (t.rttNs.toNat + 256) → (u.dev.rd F.SKID_SHORT).testBit p = true) ∧
        (∃ w, (u.dev.link p).wire = l.wire ++ [w] ∧ w.length = 256 ∧ flitCrcOk w = true ∧ field w 0 1 % 16 = 0 ∧
          field w 0xC 2 = s.dev.rd F.MY_ID % 2 ^ 16 ∧ field w 0xE 2 = s.dev.rd (F.VC_CRED p) % 2 ^ 16) ∧ (u.dev.link p).kept = l.kept ∧
        u.dev.mem = s.dev.mem ∧ ∀ q, q ≠ p.val → u.dev.link q = s.dev.link q) ∧
      (MayTrain s p → (∀ v, ¬ TrainsTo s p t v) → ∃ u, exec (.linkTraining p t) s = .next u ∧ u.dev.rd (F.LINK_STATE p) = 0 ∧
        (u.dev.link p).failed = true ∧ u.dev.mem = s.dev.mem)) ∧
    (s.dev.rd (F.PORT_EN p) = 1 → s.dev.rd (F.LINK_STATE p) = 0 →
      (l.failed = true → l.lost = false ∨ s.dev.rd (F.AUTO_RETRAIN p) = 1 →
        ∃ u, exec (.trainingRetry p) s = .next u ∧ u.dev.rd (F.LINK_STATE p) = 1 ∧ u.dev.link p = { l with failed := false }) ∧
      (l.lost = true → s.dev.rd (F.AUTO_RETRAIN p) = 1 →
        ∃ u, exec (.autoRetrain p) s = .next u ∧ u.dev.rd (F.LINK_STATE p) = 1 ∧ u.dev.link p = { l with failed := false }) ∧
      (l.failed = false → exec (.trainingRetry p) s = .next s) ∧ (l.lost = false → exec (.autoRetrain p) s = .next s)) ∧
    (∀ flit : List Byte, s.dev.sys.phase = .run →
      (∀ corr uncorr : Nat, ¬ up → exec (.flitReceive p ⟨flit, corr, uncorr⟩) s = .next s) ∧
      (∀ corr uncorr : Nat, up → ∃ u, exec (.flitReceive p ⟨flit, corr, uncorr⟩) s = .next u ∧
        u.dev.rd (F.FEC_CORR p) = (if corr = 0 then s.dev.rd (F.FEC_CORR p) else min (s.dev.rd (F.FEC_CORR p) + corr) (2 ^ 32 - 1)) ∧
        u.dev.rd (F.FEC_UNCORR p) =
          (if uncorr = 0 then s.dev.rd (F.FEC_UNCORR p) else min (s.dev.rd (F.FEC_UNCORR p) + uncorr) (2 ^ 32 - 1))) ∧
      (up → flitCrcOk flit = false → exec (.flitReceive p ⟨flit, 0, 0⟩) s =
        .next { s with dev := s.dev.wr (F.CRC_ERR p) (min (s.dev.rd (F.CRC_ERR p) + 1) (2 ^ 32 - 1)) }) ∧
      (up → flitCrcOk flit = true → bit (field flit 1 1) 4 = false → (∀ x ∈ l.replay, x.1 ≠ field flit 6 2) →
        let vc := bits (field flit 1 1) 0 3
        let back := if bit (field flit 1 1) 3 then field flit 2 1 else 0
        (field flit 0 1 % 16 ≠ 1 → ∃ u, exec (.flitReceive p ⟨flit, 0, 0⟩) s = .next u ∧
          u = { s with dev := s.dev.setLink p { l with stopIn := bit (field flit 0 1) 7, credits := (u.dev.link p).credits } } ∧
          (∀ c, Tab.get (u.dev.link p).credits c 0 = Tab.get l.credits c 0 + (if c = vc then back else 0))) ∧
        (field flit 0 1 % 16 = 1 → field flit 4 2 ≠ (l.rxLast + 1) % 65536 → ∃ u, exec (.flitReceive p ⟨flit, 0, 0⟩) s = .next u ∧
          (u.dev.link p).nacking = true ∧ (u.dev.link p).rxLast = l.rxLast ∧ u.dev.mem = s.dev.mem) ∧
        (field flit 0 1 % 16 = 1 → field flit 4 2 = (l.rxLast + 1) % 65536 → l.rxArea = [] → l.skid = [] → l.kept = [] → l.stopOut = false →
          let f := parseFlit flit
          let k := Pkt.parse f.vc f.data
          ∃ u, exec (.flitReceive p ⟨flit, 0, 0⟩) s = .next u ∧ (u.dev.link p).nacking = false ∧ (u.dev.link p).rxLast = field flit 4 2 ∧
            u.dev.mem = s.dev.mem ∧
            (f.eop = false → (u.dev.link p).rxArea = [f] ∧ u.dev.hold = s.dev.hold) ∧
            (f.eop = true → s.dev.heldBytes k.held + k.data.length ≤ 65536 → (u.dev.link p).rxArea = [] ∧
              u.dev.hold = s.dev.hold ++ [⟨k.held, s.dev.pktDest k, .packet p k⟩] ∧
              Tab.get (u.dev.link p).owed f.vc 0 = Tab.get l.owed f.vc 0 + 1)))) ∧
    (up → ∃ u w, exec (.flitSend p) s = .next u ∧ (u.dev.link p).wire = l.wire ++ [w] ∧ u.dev.mem = s.dev.mem ∧ u.dev.regs = s.dev.regs ∧
      (l.stopIn = true ∨ s.dev.sys.phase = .retain → IsIdle l w ∧ (u.dev.link p).replay = l.replay ∧ (u.dev.link p).txq = l.txq) ∧
      (∀ pre n f post, s.dev.sys.phase ≠ .retain → l.stopIn = false → l.resendAt = some n → l.replay = pre ++ (n, f) :: post → (∀ x ∈ pre, x.1 ≠ n) →
        f.vc < 8 → f.data.length ≤ 240 → IsData l w n f ∧ (u.dev.link p).replay = l.replay ∧ (u.dev.link p).credits = l.credits ∧
          Tab.get (u.dev.link p).resends n 0 = Tab.get l.resends n 0 + 1 ∧ (u.dev.link p).resendAt = post.head?.map (fun x => x.1)) ∧
      (∀ f rest, s.dev.sys.phase ≠ .retain → l.stopIn = false → l.resendAt = none → l.replay.length < 2048 → l.txq = f :: rest → Tab.get l.credits f.vc 0 ≠ 0 →
        f.vc < 8 → f.data.length ≤ 240 → IsData l w l.txSeq f ∧ (u.dev.link p).txq = rest ∧
          (u.dev.link p).replay = l.replay ++ [(l.txSeq, f)] ∧ (u.dev.link p).txSeq = (l.txSeq + 1) % 65536 ∧
          Tab.get (u.dev.link p).credits f.vc 0 = Tab.get l.credits f.vc 0 - 1) ∧
      (l.stopIn = false → l.resendAt = none → (∀ f ∈ l.txq, Tab.get l.credits f.vc 0 = 0) → IsIdle l w)) ∧
    (¬ up → exec (.flitSend p) s = .next s) ∧
    (∀ x rest, l.replay = x :: rest →
      (up → l.stopIn = false → ∃ u, exec (.replayTimer p) s = .next u ∧
        u.dev.link p = { l with resendAt := some x.1, nackSeen := none } ∧
        u.dev.rd (F.REPLAYS p) = min (s.dev.rd (F.REPLAYS p) + 1) (2 ^ 32 - 1) ∧ KeepsRegs s u [F.REPLAYS p]) ∧
      (¬ up ∨ l.stopIn = true → exec (.replayTimer p) s = .next s)) ∧
    (l.replay = [] → exec (.replayTimer p) s = .next s) ∧
    (∀ cause : BitVec 8,
      let due : Prop := up ∧ (cause = 1 ∨ (cause = 3 ∧ 1000 < s.dev.rd (F.FEC_UNCORR p)) ∨ cause = 6 ∨ (cause = 2 ∧ ∃ x ∈ l.resends, 16 ≤ x.2))
      (due → ∃ u, exec (.linkLoss p cause) s = .next u ∧ DeclaredLost s u p cause.toNat) ∧
      (¬ due → exec (.linkLoss p cause) s = .next s)) ∧
    (∀ port : PciePort, s.dev.regReach port = true →
      (∃ u, exec (.retrain port p) s = .next u ∧ DeclaredLost s u p 5) ∧
      (s.dev.rd (F.PORT_EN p) = 1 → l.lost = false ∨ s.dev.rd (F.LINK_STATE p) ≠ 0 →
        ∃ u, exec (.portEn port p false) s = .next u ∧ DeclaredLost s u p 4 ∧ u.dev.rd (F.PORT_EN p) = 0) ∧
      (s.dev.rd (F.PORT_EN p) = 0 → ∃ u, exec (.portEn port p true) s = .next u ∧ u.dev.rd (F.PORT_EN p) = 1 ∧
        KeepsRegs s u [F.PORT_EN p] ∧ u.dev.link p = { l with lost := false, failed := false }))

/-- LINK_WRITE and LINK_READ for a started descriptor that passes its checks: LEN 0 completes OK; without an ID ACCESS_OUT_OF_MAP;
to this device itself they copy; to a peer they send its data, or requests for it, in packets of 8,192 B with the ring's
source queue, and wait. WRITE to clean near tier lands and is answered OK; READ_REQ is answered with the bytes; an address
that nothing backs is answered ACCESS_OUT_OF_MAP, with no data and no byte changed. PACKET_FORWARD sends a transit packet on
with TTL one less by its next route entry or its table port; without a way it is dropped, counted, and a WRITE or READ_REQ
answered. The last answer to a descriptor (WRITE_ACK, READ_RESP, whose data land, or ACK_TIMEOUT as LINK_LOST) gives it the
status of its lowest packet that failed and the bytes before it; a reserved status counts as one that is not OK, which is the
model's choice (log 6). A device without an ID drops a packet in transit. -/
def Obligations.PacketsCarryReadsAndWrites : Prop :=
  (∀ (r : Fin 64) (k : Word) (y : Desc) (s : State) (write : Bool), AtEngine s r k (if write then 0x60 else 0x61) y →
    (∀ o ∈ s.dev.cxe.outst, o.ring ≠ r.val) → (∀ j ∈ s.dev.cxe.jobs, ¬ (j.ring = r.val ∧ j.count = k)) →
    let cmd (drops : Drops) : Instr := if write then .linkWrite r k drops else .linkRead r k drops
    let dst : BitVec 16 := BitVec.ofNat 16 (y.at 0x18 2)
    let remote := y.at 0x28 8
    (y.len = 0 → ∃ u, exec (cmd []) s = .next u ∧ OnlyRing s u r ∧ Ends u r k stOk []) ∧
    (y.len ≠ 0 → s.dev.myId = 0xFFFF → ∃ u, exec (cmd []) s = .next u ∧ OnlyRing s u r ∧ Ends u r k stOutOfMap []) ∧
    (y.len ≠ 0 → s.dev.myId ≠ 0xFFFF → dst = s.dev.myId → NearClean s y.addr y.len → NearClean s remote y.len →
      Disjoint_ y.addr y.len remote y.len →
      let a := if write then y.addr else remote
      let b := if write then remote else y.addr
      ∃ u, exec (cmd []) s = .next u ∧ u.dev.peek b y.len = s.dev.peek a y.len ∧ SameOutside s u b y.len ∧ u.dev.links = s.dev.links ∧
        Ends u r k stOk (leBytes 8 y.len)) ∧
    (∀ p, y.len ≠ 0 → bit (y.at 0x1A 1) 3 = false → TablePort s dst p → (write = true → NearClean s y.addr y.len) →
      remote + y.len < 2 ^ 64 → y.addr + y.len < 2 ^ 64 →
      let v := y.at 0x1A 1 % 8
      ∃ u ks, exec (cmd []) s = .next u ∧ Queued s u p ks ∧ u.dev.mem = s.dev.mem ∧ u.dev.desc r k = some { y with taken := true } ∧
        ks.length = (y.len + 8191) / 8192 ∧
        (∀ i q, ks[i]? = some q → q.addr = remote + 8192 * i ∧ q.len = min 8192 (y.len - 8192 * i) ∧ q.dst = dst ∧ q.sq.toNat = r.val ∧
          (write = true → q.pop = 1 ∧ q.data = s.dev.peek (y.addr + 8192 * i) q.len ∧ q.vc = (if 3 ≤ v ∧ v ≤ 6 then v else 6)) ∧
          (write = false → q.pop = 3 ∧ q.data = [] ∧ q.vc = 2)) ∧
        (u.dev.cxe.outst.filter (fun o => o.ring == r.val && o.count == k)).length = ks.length)) ∧
  (∀ (drops : Drops) (s : State) (k : Pkt) (rest : List (Nat × Pkt)) (p : Nat), TablePort s k.src p → Serves s →
    (FirstPkt s (Mine s 1) k rest → k.data ≠ [] →
      (NearClean s k.addr k.data.length → ∃ u q, exec (.pktWrite drops) s = .next u ∧ u.dev.peek k.addr k.data.length = k.data ∧
        SameOutside s u k.addr k.data.length ∧ u.dev.cxe.inbox = rest ∧ Queued s u p [q] ∧ AnswerTo s k q stOk []) ∧
      (s.dev.region (k.addr % 2 ^ 64) = none → s.dev.winHeld k.addr k.data.length = false → ∃ u q, exec (.pktWrite drops) s = .next u ∧ u.dev.mem = s.dev.mem ∧ u.dev.cxe.inbox = rest ∧
        Queued s u p [q] ∧ AnswerTo s k q stOutOfMap [])) ∧
    (FirstPkt s (Mine s 3) k rest →
      (NearClean s k.addr k.len → ∃ u q, exec .pktReadReq s = .next u ∧ u.dev.mem = s.dev.mem ∧ u.dev.cxe.inbox = rest ∧
        Queued s u p [q] ∧ AnswerTo s k q stOk (s.dev.peek k.addr k.len)) ∧
      (k.len ≠ 0 → s.dev.region (k.addr % 2 ^ 64) = none → s.dev.winHeld k.addr k.len = false → ∃ u q, exec .pktReadReq s = .next u ∧ u.dev.mem = s.dev.mem ∧
        Queued s u p [q] ∧ AnswerTo s k q stOutOfMap []))) ∧
  (∀ (s : State) (k : Pkt) (rest : List (Nat × Pkt)), FirstPkt s (fun q => q.dst ≠ s.dev.myId) k rest → s.dev.myId ≠ 0xFFFF → Serves s →
    let next := if k.rt = true ∧ k.hi < k.nh then k.route.getD k.hi 0xFF else s.dev.rd (F.ROUTE k.dst.toNat)
    (2 ≤ k.ttl → next < 18 → s.dev.linkUp next = true → ∃ u, exec .packetForward s = .next u ∧ u.dev.cxe.inbox = rest ∧
      Queued s u next [{ k with ttl := k.ttl - 1, hi := if k.rt = true ∧ k.hi < k.nh then k.hi + 1 else k.hi }] ∧ u.dev.regs = s.dev.regs) ∧
    (k.ttl ≤ 1 ∨ 18 ≤ next ∨ s.dev.linkUp next = false → k.src ≠ s.dev.myId → ∃ u, exec .packetForward s = .next u ∧ u.dev.cxe.inbox = rest ∧
      u.dev.mem = s.dev.mem ∧ u.dev.rd F.ROUTE_DROP = 1 ∧
      (k.pop ≠ 1 → k.pop ≠ 3 → u.dev.rd F.PKT_DROPPED = min (s.dev.rd F.PKT_DROPPED + 1) (2 ^ 32 - 1) ∧ u.dev.links = s.dev.links) ∧
      (∀ p, k.pop = 1 ∨ k.pop = 3 → TablePort s k.src p → ∃ q, Queued s u p [q] ∧
        AnswerTo s k q (if k.ttl ≤ 1 ∨ 18 ≤ next then stOutOfMap else stLinkLost) []))) ∧
  (∀ (s : State) (n : Nat) (k : Pkt) (rest : List (Nat × Pkt)), s.dev.cxe.inbox = (n, k) :: rest → s.dev.myId = 0xFFFF → Serves s →
    exec .packetForward s = .next { s with dev := { s.dev with cxe := { s.dev.cxe with inbox := rest } } }) ∧
  (∀ (s : State) (r : Nat) (k : Word) (pre post : List Outst) (o : Outst), LastOpen s r k pre post o →
    let outcome (st : St) : St × List Byte := linkOutcome (answersOf pre ++ (o.len, st) :: answersOf post) 0
    let completes (u : State) (st : St) : Prop := Ends u r k (outcome st).1 (outcome st).2 ∧
      ∀ x ∈ u.dev.cxe.outst, ¬ (x.ring = r ∧ x.count = k)
    (∃ u, exec (.ackTimeout o.tag) s = .next u ∧ completes u stLinkLost ∧ u.dev.mem = s.dev.mem) ∧
    (∀ (q : Pkt) (rest : List (Nat × Pkt)), q.tag = o.tag → q.addr < 2 ^ 16 →
      let told (st : St) : Prop := (q.addr < 16 → st = BitVec.ofNat 16 q.addr) ∧ (16 ≤ q.addr → 1 ≤ st.toNat ∧ st.toNat < 16)
      (FirstPkt s (Mine s 2) q rest → ∃ u st, exec .pktWriteAck s = .next u ∧ told st ∧ completes u st ∧ u.dev.cxe.inbox = rest ∧
        u.dev.mem = s.dev.mem) ∧
      (FirstPkt s (Mine s 4) q rest → o.write = false → q.addr ≠ 0 → ∃ u st, exec (.pktReadResp []) s = .next u ∧ told st ∧
        completes u st ∧ u.dev.mem = s.dev.mem) ∧
      (FirstPkt s (Mine s 4) q rest → o.write = false → q.addr = 0 → q.data.length = o.len → NearClean s o.addr o.len →
        ∃ u, exec (.pktReadResp []) s = .next u ∧ completes u stOk ∧ u.dev.peek o.addr o.len = q.data ∧
          SameOutside s u o.addr o.len)))

/-- COLLECTIVE for a started descriptor that passes its checks completes ACCESS_OUT_OF_MAP without an ID, on an empty mapping, and
where the table does not hold MY_ID; with an empty axis set it runs locally: an ALL_GATHER, or an ALL_REDUCE of FP32, FP64 or
INT32 elements, copies its COUNT elements and completes OK with P 1 and rank 0; a BARRIER that has others to meet sends each
of them READY and waits. READY that completes a BARRIER ends it OK; one for a collective not started is held while fewer than
4,096 are. COLL of no collective under way does nothing but leave; the last data of an ALL_GATHER land at their place and end
it. READY_RESEND sends READY again to the participant that has not answered. COLL_TIMEOUT ends a collective LINK_LOST, unless
COLL_TIMEOUT_MS is 0. -/
def Obligations.CollectivesMeetAndComplete : Prop :=
  (∀ (r : Fin 64) (k : Word) (y : Desc) (s : State), AtEngine s r k 0x62 y →
    let m := s.dev.phaseMap (y.at 0x20 1 % 8)
    let me := s.dev.myId
    let kind := y.at 0x21 1 % 8
    let fmt := y.at 0x22 1 % 16
    let size := if fmt = 10 then 8 else 4
    (me = 0xFFFF ∨ m.axes = [] ∨ me ∉ m.ids → ∃ u, exec (.collective r k []) s = .next u ∧ OnlyRing s u r ∧ Ends u r k stOutOfMap []) ∧
    (me ≠ 0xFFFF → m.axes ≠ [] → me ∈ m.ids → y.at 0x20 1 / 16 = 0 → kind = 0 ∨ kind = 2 → bit (y.at 0x22 1) 4 = false →
      fmt ≠ 7 → fmt ≠ 8 → y.cnt ≠ 0 → NearClean s y.addr (size * y.cnt) → NearClean s (y.at 0x18 8) (size * y.cnt) →
      ∃ u, exec (.collective r k []) s = .next u ∧ u.dev.peek (y.at 0x18 8) (size * y.cnt) = s.dev.peek y.addr (size * y.cnt) ∧
        SameOutside s u (y.at 0x18 8) (size * y.cnt) ∧ u.dev.links = s.dev.links ∧ Ends u r k stOk (leBytes 4 1)) ∧
    (∀ c, s.dev.collOf r y = some c → 5 ≤ kind → 2 ≤ c.parts → s.dev.cxe.notices = [] → (∀ o ∈ s.dev.cxe.outst, o.ring ≠ r.val) →
      (∀ j, j < c.parts → j ≠ c.rank → ∃ p, TablePort s (c.peers.getD j 0xFFFF) p) →
      ∃ u, exec (.collective r k []) s = .next u ∧ u.dev.mem = s.dev.mem ∧ u.dev.desc r k = some { y with taken := true } ∧
        (∃ d ∈ u.dev.cxe.colls, d.id = c.id ∧ d.ring = r.val ∧ d.count = k ∧ d.ready = []) ∧
        ∀ j p, j < c.parts → j ≠ c.rank → TablePort s (c.peers.getD j 0xFFFF) p → ∃ (q : Pkt) (a b : List Flit), q.pop = 6 ∧ q.vc = 0 ∧ q.tag = c.id ∧
          q.dst = c.peers.getD j 0xFFFF ∧ (u.dev.link p).txq = (s.dev.link p).txq ++ a ++ q.flits ++ b)) ∧
  (∀ (s : State) (c : Coll), Serves s → s.dev.cxe.colls = [c] → (∃ y, s.dev.desc c.ring c.count = some y) →
    let done (u : State) (st : St) (n : Nat) : Prop := u.dev.cxe.colls = [] ∧
      Ends u c.ring c.count st (leBytes 4 c.parts ++ leBytes 4 c.rank ++ leBytes 8 n)
    (∀ (q : Pkt) (rest : List (Nat × Pkt)) (j : Nat), FirstPkt s (Mine s 6) q rest → q.tag = c.id → c.rankOf q.src = some j → c.n = 0 →
      c.left = 0 → c.queue = [] → (∀ i, i < c.parts → i ≠ c.rank → i ≠ j → i ∈ c.ready) →
      ∃ u, exec .pktReady s = .next u ∧ done u stOk c.bytes ∧ u.dev.mem = s.dev.mem) ∧
    (∀ (q : Pkt) (rest : List (Nat × Pkt)) (j : Nat) (drops : Drops), FirstPkt s (Mine s 5) q rest → q.tag = c.id → c.rankOf q.src = some j →
      c.kind = 2 → c.n ≠ 0 → q.data ≠ [] → q.data.length = c.memSize * c.left → q.addr + c.left ≤ c.n → c.queue = [] → c.xacc = false →
      NearClean s (c.dest + (j * c.n + q.addr) * c.memSize) q.data.length →
      ∃ u, exec (.pktColl drops) s = .next u ∧ done u stOk c.bytes ∧
        u.dev.peek (c.dest + (j * c.n + q.addr) * c.memSize) q.data.length = q.data ∧
        SameOutside s u (c.dest + (j * c.n + q.addr) * c.memSize) q.data.length) ∧
    (s.dev.rd F.COLL_TIMEOUT_MS ≠ 0 → ∃ u, exec (.collTimeout c.id) s = .next u ∧ done u stLinkLost c.bytes ∧ u.dev.mem = s.dev.mem) ∧
    (s.dev.rd F.COLL_TIMEOUT_MS = 0 → exec (.collTimeout c.id) s = .next s) ∧
    (∀ j p, c.partners.filter (fun i => !c.ready.contains i) = [j] → c.queue ≠ [] → TablePort s (c.peers.getD j 0xFFFF) p →
      ∃ u q, exec (.readyResend c.id) s = .next u ∧ Queued s u p [q] ∧ q.pop = 6 ∧ q.vc = 0 ∧ q.tag = c.id ∧
        q.dst = c.peers.getD j 0xFFFF ∧ u.dev.mem = s.dev.mem)) ∧
  (∀ (s : State) (q : Pkt) (rest : List (Nat × Pkt)), Serves s → (∀ c ∈ s.dev.cxe.colls, c.id ≠ q.tag) →
    (FirstPkt s (Mine s 5) q rest → ∀ drops, exec (.pktColl drops) s =
      .next { s with dev := { s.dev with cxe := { s.dev.cxe with inbox := rest } } }) ∧
    (FirstPkt s (Mine s 6) q rest → (q.src, q.tag) ∉ s.dev.cxe.notices → s.dev.cxe.notices.length < 4096 → exec .pktReady s =
      .next { s with dev := { s.dev with cxe := { s.dev.cxe with inbox := rest, notices := s.dev.cxe.notices ++ [(q.src, q.tag)] } } }) ∧
    exec (.readyResend q.tag) s = .next s)

/-- In Run, by a port that its host reaches: a BAR4 read of Ingot bytes without an error, with no earlier write of the port
waiting, returns them; an access between the far tier and the Ingot, or to a host window, sets BAR4_MISS, a read of it returns
all bits 1 and a write is discarded; a write to the Ingot joins hold-back whole, one to a present core's local store in
accesses of at most 1,024 B that end with a granule, and without room nothing happens. In D3hot a read is answered with an
Unsupported Request. In Retain nothing held is released, nor to a port in D3hot. A release takes the oldest held write of a
queue to a destination: Ingot bytes land and no other byte changes; a dropped write to a local store waits for its reissue and
counts as collided; a packet for this device joins its packet layer; a write to memory behind a dropped one of its queue
waits. A reissue of the oldest dropped write lands it, or counts it again, or, dropped a ninth time, discards it with
LS_WRITE_LOST and a record. -/
def Obligations.Bar4AndHoldBack : Prop :=
  ∀ (p : PciePort) (s : State),
    let d := s.dev
    let miss := d.wr (F.BAR4_MISS (pnum p)) 1
    let none_ (a : Nat) : Prop := (0x068000000000 ≤ a ∧ a < ingotBase) ∨ (winBase .a ≤ a ∧ a < 0x200000000000)
    (d.hostReach p = true → d.sys.phase = .run → ∀ (off n : Nat) (bs : List Byte),
      (0 < n → d.bar4Busy p = false → IngotClean s (bar4At s p off) n →
        exec (.bar4Read p off n) s = .next { s with dev := d.issued p (.readData (d.peek (bar4At s p off) n)) }) ∧
      (d.bar4Busy p = false → none_ (bar4At s p off) →
        exec (.bar4Read p off n) s = .next { s with dev := miss.issued p (.readData (List.replicate n 0xFF)) }) ∧
      (d.heldBytes (bar4Queue p) + bs.length ≤ 65536 →
        (none_ (bar4At s p off) → exec (.bar4Write p off bs) s = .next { s with dev := miss }) ∧
        (ingotBase ≤ bar4At s p off → bar4At s p off + bs.length ≤ ingotBase + 0x80000000 → bs ≠ [] →
          exec (.bar4Write p off bs) s = .next { s with dev := { d with
            hold := d.hold ++ [⟨bar4Queue p, .memory, .bytes (bar4At s p off) bs⟩] } }) ∧
        (∀ c, InStore s c (bar4At s p off) bs.length → bs ≠ [] → ∃ hs : List Held,
          let a := bar4At s p off
          let cut (i : Nat) : Nat := 1024 * i - a % 16
          hs.length = (bs.length + a % 16 + 1023) / 1024 ∧
          exec (.bar4Write p off bs) s = .next { s with dev := { d with hold := d.hold ++ hs } } ∧
          ∀ i, i < hs.length →
            hs[i]? = some ⟨bar4Queue p, .memory, .bytes (a + cut i) ((bs.take (cut (i + 1))).drop (cut i))⟩)) ∧
      (65536 < d.heldBytes (bar4Queue p) + bs.length → exec (.bar4Write p off bs) s = .next s)) ∧
    (d.pcieUp p = true → (d.port p).d3hot = true → ∀ off n : Nat,
      exec (.bar4Read p off n) s = .next { s with dev := d.issued p (.unsupported n) }) ∧
    (∀ (h : Held) (pre post : List Held) (dropped : Bool), d.hold = pre ++ h :: post → (∀ x ∈ pre, ¬ (x.src = h.src ∧ x.dest = h.dest)) →
      (h.dest = .memory → (∃ c ∈ d.hit, c.held.src = h.src) → exec (.holdbackRelease h.src h.dest dropped) s = .next s) ∧
      (d.holdWaits h.dest = true → exec (.holdbackRelease h.src h.dest dropped) s = .next s) ∧
      (d.holdWaits h.dest = false → (h.dest = .memory → ∀ c ∈ d.hit, c.held.src ≠ h.src) →
        (∀ a bs, h.body = .bytes a bs → IngotClean s a bs.length → ∃ u, exec (.holdbackRelease h.src h.dest dropped) s = .next u ∧
          u = { s with dev := { d with hold := pre ++ post, mem := u.dev.mem } } ∧ u.dev.peek a bs.length = bs ∧
          SameOutside s u a bs.length) ∧
        (∀ c a bs, h.body = .bytes a bs → InStore s c a bs.length → bs ≠ [] → dropped = true →
          exec (.holdbackRelease h.src h.dest dropped) s = .next { s with dev := { d.wr F.COLLIDED_COUNT
            (min (d.rd F.COLLIDED_COUNT + 1) (2 ^ 32 - 1)) with hold := pre ++ post, hit := d.hit ++ [⟨h, 1⟩] } }) ∧
        (∀ k pkt, h.body = .packet k pkt → d.myId ≠ 0xFFFF → pkt.dst = d.myId → 1 ≤ pkt.pop → pkt.pop ≤ 6 →
          ∃ u, exec (.holdbackRelease h.src h.dest dropped) s = .next u ∧ u.dev.cxe.inbox = d.cxe.inbox ++ [(k, pkt)] ∧
            u.dev.mem = d.mem ∧ u.dev.regs = d.regs ∧ u.dev.cores = d.cores))) ∧
    (∀ (c : Collided) (rest : List Collided) (a : Nat) (bs : List Byte), d.hit = c :: rest → c.held.body = .bytes a bs → d.sys.phase ≠ .retain →
      (∀ n, InStore s n a bs.length → (∀ u, a / 16 * 16 ≤ u → u < a + bs.length → d.cleanAt u) →
        ∃ u, exec (.collisionReissue false) s = .next u ∧ u.dev.hit = rest ∧ u.dev.hold = d.hold ∧ u.dev.regs = d.regs ∧
          u.dev.peek a bs.length = bs ∧ SameOutside s u a bs.length) ∧
      (c.tries < 8 → ∃ u, exec (.collisionReissue true) s = .next u ∧ u.dev.hit = { c with tries := c.tries + 1 } :: rest ∧
        u.dev.rd F.COLLIDED_COUNT = min (d.rd F.COLLIDED_COUNT + 1) (2 ^ 32 - 1) ∧ u.dev.mem = d.mem ∧
        KeepsRegs s u [F.COLLIDED_COUNT]) ∧
      (8 ≤ c.tries → ∃ u, exec (.collisionReissue true) s = .next u ∧ u.dev.hit = rest ∧ u.dev.rd F.LS_WRITE_LOST = 1 ∧
        u.dev.rd F.COLLIDED_COUNT = min (d.rd F.COLLIDED_COUNT + 1) (2 ^ 32 - 1) ∧ u.dev.mem = d.mem ∧
        u.dev.recd.newest = nextSeq d.recd.newest)) ∧
    (∀ dropped, d.hit = [] → exec (.collisionReissue dropped) s = .next s)

/-- A 4 B read of BAR0 returns the word, and latches the high word where its offset is the low word of a 64-bit RO field; the next
4 B read of that high word returns the latched value; an 8 B read returns both words; a misaligned read returns all bits 1; a
read of the doorbell pages in BAR2 returns T at offset 0, H at 8 and zeros elsewhere; in recovery a word outside the identity
and the update and security block reads as all bits 1. A write, outside recovery and with no reserved bit set: an RW field
takes the value, an 8 B write both halves; each bit 1 of a W1C field clears that bit; an RO field ignores it; CFLAGS of a
present core clears the bits in the core. Every access of BAR0 drops the port's latch, and nothing else changes. -/
def Obligations.RegistersReadAndWrite : Prop :=
  ∀ (p : PciePort) (s : State),
    let d := s.dev
    let q := d.port p
    let rest := d.dropLatch p
    (d.hostReach p = true → ∀ off : Nat,
      (off % 4 = 0 → off + 4 ≤ 0x4000000 → (∀ v, q.latch ≠ some (off, v)) →
        let latch : Option (Nat × Word) := if isLowRo off then some (off + 4, BitVec.ofNat 32 (d.word (some p) (off + 4))) else none
        exec (.lowWordRead p ⟨false, off⟩ 4) s = .next { s with dev := d.setPort p { q with
          latch := latch, out := q.out ++ [.readData (leBytes 4 (d.word (some p) off))] } }) ∧
      (∀ v, off % 4 = 0 → off + 4 ≤ 0x4000000 → q.latch = some (off, v) → exec (.lowWordRead p ⟨false, off⟩ 4) s = .next { s with dev := d.setPort p { q with
        latch := none, out := q.out ++ [.readData (leBytes 4 v.toNat)] } }) ∧
      (off % 8 = 0 → off + 8 ≤ 0x4000000 → exec (.lowWordRead p ⟨false, off⟩ 8) s = .next { s with dev := d.setPort p { q with latch := none, out := q.out ++
        [.readData (leBytes 4 (d.word (some p) off) ++ leBytes 4 (d.word (some p) (off + 4)))] } }) ∧
      (∀ n, off % n ≠ 0 ∨ (n ≠ 4 ∧ n ≠ 8) → exec (.lowWordRead p ⟨false, off⟩ n) s = .next { s with dev := d.setPort p { q with
        latch := none, out := q.out ++ [.readData (List.replicate n 0xFF)] } }) ∧
      (∀ r j : Nat, r < 64 → j < 1024 → exec (.lowWordRead p ⟨true, 4096 * r + 4 * j⟩ 4) s =
        .next { s with dev := d.issued p (.readData (leBytes 4 (if j = 0 then d.cntT r else if j = 2 then d.cntH r else 0))) }) ∧
      (∀ n, off % n ≠ 0 ∨ (n ≠ 4 ∧ n ≠ 8) → exec (.lowWordRead p ⟨true, off⟩ n) s =
        .next { s with dev := d.issued p (.readData (List.replicate n 0xFF)) }) ∧
      (d.sys.phase = .recovery → 0x1000 ≤ off → off < 0x3000 ∨ 0x4000 ≤ off → d.word (some p) off = 0xFFFFFFFF)) ∧
    (d.updReach p = true → d.sys.phase ≠ .recovery →
      (∀ v, v < 2 ^ 32 → exec (.registerWrite p F.LINK_CLASS_LO.off 4 v) s = .next { s with dev := rest.wr F.LINK_CLASS_LO v }) ∧
      (∀ v, v < 2 ^ 64 → ∃ u, exec (.registerWrite p (F.HWIN_BASE (pnum p)).off 8 v) s = .next u ∧
        u = { s with dev := { rest with regs := u.dev.regs } } ∧ u.dev.rd (F.HWIN_BASE (pnum p)) = v ∧
        KeepsRegs s u [F.HWIN_BASE (pnum p)]) ∧
      (∀ v, v < 2 ^ 18 → ∃ u, exec (.registerWrite p F.SKID_SHORT.off 4 v) s = .next u ∧
        u = { s with dev := { rest with regs := u.dev.regs } } ∧ KeepsRegs s u [F.SKID_SHORT] ∧
        ∀ i, i < 18 → (u.dev.rd F.SKID_SHORT).testBit i = ((d.rd F.SKID_SHORT).testBit i && !v.testBit i)) ∧
      (∀ v, exec (.registerWrite p F.COLLIDED_COUNT.off 4 v) s = .next { s with dev := rest }) ∧
      (∀ (n : Fin 96) (v : Word), d.present n = true → exec (.registerWrite p (F.CFLAGS n).off 4 v.toNat) s = .next { s with
        dev := rest.setCore n { d.core n with cflags := (d.core n).cflags &&& ~~~v } }))

/-- By a port whose host reaches the registers, outside recovery, a 4 B write at route-table offset 4j gives the entries for
device IDs 4j to 4j + 3 the four bytes of its value, that of ID 4j the lowest, in one step; every other register keeps its
value, and nothing else changes but the port's latch. -/
def Obligations.RouteTableWritesFourEntries : Prop :=
  ∀ (p : PciePort) (j : Nat) (v : Word) (s : State), s.dev.updReach p = true → s.dev.sys.phase ≠ .recovery → j < 16384 →
    ∃ u, exec (.registerWrite p (0x20000 + 0x10000 + 4 * j) 4 v.toNat) s = .next u ∧
      u = { s with dev := { s.dev.dropLatch p with regs := u.dev.regs } } ∧
      (∀ i, i < 4 → u.dev.rd (F.ROUTE (4 * j + i)) = (v.extractLsb' (8 * i) 8).toNat) ∧
      KeepsRegs s u ((List.range 4).map (fun i => F.ROUTE (4 * j + i)))

/-- An image whose header fields, length, slots, SVN or component hashes are wrong is not accepted. FW_UPDATE from clean near-tier
bytes: LEN 0 does nothing, a LEN above 64 MiB completes SIGNATURE_BAD with REASON 1; one that fails a check SIGNATURE_BAD, or
ROLLBACK_REFUSED for REASON 6, with its REASON, version and SVN, and writes nothing; REASON 4 and 5 set SEC_FAIL. An accepted
one with no flash trouble fills the image area and nothing else, clears IMG_INCOMPLETE and sets FW_VER_STORED and SVN_STORED;
under NV_INHIBIT, or where the flash rail falls during a block, it completes NV_INHIBITED, and after a block that cannot be
written or an uncorrectable read-back MEM_UNCORRECTABLE, with IMG_INCOMPLETE set. A write that has come only as far as a block
is under way with IMG_INCOMPLETE set, and a later step ends it as one step would have. FW_ACTIVATE with COMPONENTS 0 answers
the running firmware version and changes nothing; with IMG_INCOMPLETE set, or a stored image that fails checks 1 to 3, it
activates nothing; else each named component's version becomes that of the stored header, the others keep theirs, and no core,
memory byte or link changes; a restart that takes a second step leaves its versions for that step. By a port that reaches the
block: outside recovery REC_GO only drops the port's latch. In recovery, with REC_LEN above 64 MiB, or with clean Ingot bytes
that fail R487, REC_STATUS gets SIGNATURE_BAD or ROLLBACK_REFUSED, REC_DONE is set, nothing is written and recovery goes on;
with accepted bytes REC_STATUS is NV_INHIBITED under NV_INHIBIT or where the flash rail falls during a block,
MEM_UNCORRECTABLE where a block cannot be written or the read-back fails, and recovery goes on with IMG_INCOMPLETE set; else
the image area holds them, REC_STATUS is OK, REC_DONE is set, RECOVER_NEXT cleared, and the device in Run with that image's
firmware version. RECOVER_NEXT takes the value written, committed at once, or under NV_INHIBIT uncommitted with NV_ABORTED
set. -/
def Obligations.ImagesUpdateActivateAndRecover : Prop :=
  (∀ (r : Fin 64) (k : Word) (y : Desc) (abort badAt : Option Nat) (bad : Bool) (s : State),
    let d := s.dev
    let img := d.peek y.addr y.len
    let why := d.imageReason img y.len
    let res (n : Nat) : List Byte := leBytes 1 n ++ leBytes 3 0 ++ leBytes 4 (field img 8 4) ++ leBytes 1 (field img 0xC 1 % 128)
    let up := Instr.fwUpdate r k ⟨abort, badAt, bad⟩ none
    let act := Instr.fwActivate r ⟨k, false⟩
    let names := y.at 0x18 1 % 16
    let h := getBytes d.mem.keep (0x4000 * 4096) 1024
    let vers := [F.FW_VER_RUN, F.SVN_RUN, F.TRANSLATOR_VER, F.ADECIA_MINOR, F.SFU_SET_VER, F.PHY_FW_VER]
    (∀ (i : List Byte) (n : Nat), i.length = n → d.imageReason i n = 0 → Acceptable s i n) ∧
    (AtEngine s r k 0x7A y →
      (y.len = 0 → ∃ u, exec up s = .next u ∧ OnlyRing s u r ∧ Ends u r k stOk []) ∧
      (67108864 < y.len → ∃ u, exec up s = .next u ∧ OnlyRing s u r ∧ Ends u r k stSigBad (leBytes 1 1)) ∧
      (y.len ≠ 0 → y.len ≤ 67108864 → NearClean s y.addr y.len →
        (why ≠ 0 → ∃ u, exec up s = .next u ∧ Ends u r k (if why = 6 then stRollback else stSigBad) (res why) ∧ u.dev.mem = d.mem ∧
          u.dev.cores = d.cores ∧ u.dev.rd F.IMG_INCOMPLETE = d.rd F.IMG_INCOMPLETE ∧ (why = 4 ∨ why = 5 → u.dev.rd F.SEC_FAIL = 1)) ∧
        (why = 0 → d.rd F.NV_INHIBIT = 1 → ∃ u, exec up s = .next u ∧ Ends u r k stNvInhibited (res 0) ∧ u.dev.mem = d.mem ∧
          u.dev.rd F.IMG_INCOMPLETE = 1 ∧ u.dev.rd F.NV_ABORTED = 1) ∧
        (∀ j, why = 0 → d.rd F.NV_INHIBIT ≠ 1 → abort = some j → 4096 * j < y.len → (∀ i, badAt = some i → j ≤ i) → ∃ u, exec up s = .next u ∧
          Ends u r k stNvInhibited (res 0) ∧ ImageOnly s u ∧ u.dev.rd F.IMG_INCOMPLETE = 1 ∧ u.dev.rd F.NV_INHIBIT = 1) ∧
        (∀ j, why = 0 → d.rd F.NV_INHIBIT ≠ 1 → badAt = some j → 4096 * j < y.len → (∀ i, abort = some i → j < i) → ∃ u, exec up s = .next u ∧
          Ends u r k stMemUnc (res 0) ∧ ImageOnly s u ∧ u.dev.rd F.IMG_INCOMPLETE = 1) ∧
        (∀ m, why = 0 → d.rd F.NV_INHIBIT ≠ 1 → 4096 * m < y.len → ∃ u, exec (.fwUpdate r k ⟨none, none, bad⟩ (some m)) s = .next u ∧
          (∃ z, u.dev.desc r k = some z ∧ z.taken = true ∧ z.outcome = none) ∧ u.dev.svc.job = some ⟨r, k, .update img m⟩ ∧
          ImageOnly s u ∧ imageAt u (4096 * m) = img.take (4096 * m) ∧ u.dev.rd F.IMG_INCOMPLETE = 1) ∧
        (why = 0 → d.rd F.NV_INHIBIT ≠ 1 → abort = none → badAt = none → bad = true → ∃ u, exec up s = .next u ∧ Ends u r k stMemUnc (res 0) ∧
          ImageOnly s u ∧ u.dev.rd F.IMG_INCOMPLETE = 1) ∧
        (why = 0 → d.rd F.NV_INHIBIT ≠ 1 → abort = none → badAt = none → bad = false → ∃ u, exec up s = .next u ∧ Ends u r k stOk (res 0) ∧
          ImageOnly s u ∧ imageAt u y.len = img ∧ u.dev.rd F.IMG_INCOMPLETE = 0 ∧ u.dev.rd F.FW_VER_STORED = field img 8 4 ∧
          u.dev.rd F.SVN_STORED = field img 0xC 1 % 128 ∧ ∀ f ∈ vers, u.dev.rd f = d.rd f))) ∧
    (∀ i m, d.svc.job = some ⟨r, k, .update i m⟩ → d.sys.phase = .run → d.desc r k = some y → d.rd F.NV_INHIBIT ≠ 1 → 4096 * m < i.length →
      imageAt s (4096 * m) = i.take (4096 * m) → ∃ u, exec (.fwUpdate r k ⟨none, none, false⟩ none) s = .next u ∧
        Ends u r k stOk (leBytes 4 0 ++ leBytes 4 (field i 8 4) ++ leBytes 1 (field i 0xC 1 % 128)) ∧ u.dev.svc.job = none ∧
        ImageOnly s u ∧ imageAt u i.length = i ∧ u.dev.rd F.IMG_INCOMPLETE = 0) ∧
    (AtEngine s r k 0x7B y →
      (names = 0 → ∃ u, exec act s = .next u ∧ OnlyRing s u r ∧ Ends u r k stOk (leBytes 4 0 ++ leBytes 4 (d.rd F.FW_VER_RUN))) ∧
      (names ≠ 0 → d.rd F.IMG_INCOMPLETE = 1 ∨ d.storedFormOk = false → ∃ u, exec act s = .next u ∧ OnlyRing s u r ∧
        Ends u r k stSigBad (leBytes 4 0 ++ leBytes 4 (d.rd F.FW_VER_RUN))) ∧
      (names ≠ 0 → d.rd F.IMG_INCOMPLETE ≠ 1 → d.storedFormOk = true → ∃ u, exec act s = .next u ∧
        Ends u r k stOk (leBytes 4 names ++ leBytes 4 (u.dev.rd F.FW_VER_RUN)) ∧ u.dev.mem = d.mem ∧ u.dev.cores = d.cores ∧
        u.dev.links = d.links ∧
        (if names.testBit 0 = true then u.dev.rd F.FW_VER_RUN = field h 8 4 ∧ u.dev.rd F.SVN_RUN = field h 0xC 1 % 128
          else u.dev.rd F.FW_VER_RUN = d.rd F.FW_VER_RUN ∧ u.dev.rd F.SVN_RUN = d.rd F.SVN_RUN) ∧
        (if names.testBit 1 = true then VersionOf h 2 (u.dev.rd F.TRANSLATOR_VER)
          else u.dev.rd F.TRANSLATOR_VER = d.rd F.TRANSLATOR_VER ∧ u.dev.rd F.ADECIA_MINOR = d.rd F.ADECIA_MINOR) ∧
        (if names.testBit 2 = true then VersionOf h 3 (u.dev.rd F.SFU_SET_VER) else u.dev.rd F.SFU_SET_VER = d.rd F.SFU_SET_VER) ∧
        (if names.testBit 3 = true then VersionOf h 4 (u.dev.rd F.PHY_FW_VER) else u.dev.rd F.PHY_FW_VER = d.rd F.PHY_FW_VER)) ∧
      (names.testBit 0 = true → d.rd F.IMG_INCOMPLETE ≠ 1 → d.storedFormOk = true → ∃ u, exec (.fwActivate r ⟨k, true⟩) s = .next u ∧
        (∃ z, u.dev.desc r k = some z ∧ z.taken = true ∧ z.outcome = none) ∧ u.dev.svc.job = some ⟨r, k, .restart names⟩ ∧
        u.dev.mem = d.mem ∧ u.dev.rd F.FW_VER_RUN = d.rd F.FW_VER_RUN ∧ u.dev.rd F.SVN_RUN = d.rd F.SVN_RUN)) ∧
    (∀ m b, d.svc.job = some ⟨r, k, .restart m⟩ → d.sys.phase = .run → d.desc r k = some y → ∃ u, exec (.fwActivate r ⟨k, b⟩) s = .next u ∧
      Ends u r k stOk (leBytes 1 m ++ leBytes 3 0 ++ leBytes 4 (u.dev.rd F.FW_VER_RUN)) ∧ u.dev.svc.job = none ∧ u.dev.mem = d.mem ∧
      u.dev.rd F.FW_VER_RUN = field h 8 4 ∧ u.dev.rd F.SVN_RUN = field h 0xC 1 % 128)) ∧
  (∀ (p : PciePort) (on : Bool) (abort badAt : Option Nat) (bad : Bool) (s : State), s.dev.updReach p = true →
    let d := s.dev
    let n := d.rd F.REC_LEN
    let img := d.peek ingotBase n
    let go := Instr.recGo ⟨p, abort, badAt, bad⟩
    let stays (u : State) (st : St) : Prop := u.dev.rd F.REC_STATUS = st.toNat ∧ u.dev.rd F.REC_DONE = 1 ∧ u.dev.sys.phase = .recovery ∧
      u.dev.fuses = d.fuses
    let failed (st : St) : Prop := ∃ u, exec go s = .next u ∧ stays u st ∧ u.dev.mem = d.mem
    let broken (st : St) : Prop := ∃ u, exec go s = .next u ∧ stays u st ∧ ImageOnly s u ∧ u.dev.rd F.IMG_INCOMPLETE = 1
    let good : Prop := d.sys.phase = .recovery ∧ n ≤ 67108864 ∧ IngotClean s ingotBase n ∧ d.imageReason img n = 0
    (d.sys.phase ≠ .recovery → exec go s = .next { s with dev := d.dropLatch p }) ∧
    (d.sys.phase = .recovery → 67108864 < n → failed stSigBad) ∧
    (d.sys.phase = .recovery → n ≤ 67108864 → IngotClean s ingotBase n → d.imageReason img n ≠ 0 →
      failed (if d.imageReason img n = 6 then stRollback else stSigBad)) ∧
    (good → d.rd F.NV_INHIBIT = 1 → broken stNvInhibited) ∧
    (∀ j, good → d.rd F.NV_INHIBIT ≠ 1 → abort = some j → 4096 * j < n → (∀ i, badAt = some i → j ≤ i) → broken stNvInhibited) ∧
    (∀ j, good → d.rd F.NV_INHIBIT ≠ 1 → badAt = some j → 4096 * j < n → (∀ i, abort = some i → j < i) → broken stMemUnc) ∧
    (good → d.rd F.NV_INHIBIT ≠ 1 → abort = none → badAt = none → bad = true → broken stMemUnc) ∧
    (good → d.rd F.NV_INHIBIT ≠ 1 → abort = none → badAt = none → bad = false →
      ∃ u, exec go s = .next u ∧ imageAt u n = img ∧ u.dev.rd F.REC_STATUS = 0 ∧ u.dev.rd F.REC_DONE = 1 ∧ u.dev.rd F.RECOVER_NEXT = 0 ∧
        u.dev.sys.phase = .run ∧ u.dev.rd F.FW_VER_RUN = field img 8 4 ∧ u.dev.svc.recovered = true ∧ u.dev.fuses = d.fuses) ∧
    (d.rd F.NV_INHIBIT ≠ 1 → exec (.recoverNext p on) s = .next { s with dev := { (d.dropLatch p).wr F.RECOVER_NEXT (b2n on) with
      svc := { d.svc with recStored := b2n on } } }) ∧
    (d.rd F.NV_INHIBIT = 1 → exec (.recoverNext p on) s = .next { s with dev := ((d.dropLatch p).wr F.RECOVER_NEXT (b2n on)).wr F.NV_ABORTED 1 }))

/-- CORE_SPARE of an absent core, or of one whose die has used both spares, completes ENGINE_ABSENT; of a core that does not run,
with a clean store and nothing waiting for it, maps it to the next spare of its die, leaves it IDLE with its CODE_BASE and
CODE_LEN and everything else as after power-up, keeps its store's bytes (zeros with FRESH), every other core and every other
byte, commits the repair record or under NV_INHIBIT keeps it pending with NV_INHIBITED, and sets CORE_SPARED. SVN_COMMIT
raises the counter to SVN_RUN, never lowers it, blows nothing under NV_INHIBIT, and sets IMG_WOULD_FAIL where the stored SVN
is lower. KEY_ADMIN refuses a slot that is not empty, not active or revoked, the last active or valid slot and a vendor slot
that authorises itself, with SIGNATURE_BAD, SEC_FAIL and no fuse blown; an operation that it allows changes its slot alone.
ATTEST with LEN below 512 writes nothing; else it writes the report with MAGIC, the core count, DEVICE_UID, the nonce, the
versions, the counter and the owner state, and the certificate where LEN has room. -/
def Obligations.SparesFusesAndReports : Prop :=
  ∀ (r : Fin 64) (k : Word) (y : Desc) (s : State),
    let d := s.dev
    let n := y.at 0x18 2
    let die := d.dieOf n
    let used := Tab.get d.tier.coreSpares die 0
    let map := Repair.coreMap n (24 + used)
    (AtEngine s r k 0x7C y →
      (d.present n = false → ∃ u, exec (.coreSpare r k) s = .next u ∧ Ends u r k stEngineAbsent [] ∧ u.dev.cores = d.cores ∧
        u.dev.tier = d.tier ∧ u.dev.mem = d.mem) ∧
      (d.present n = true → 2 ≤ used → ∃ u, exec (.coreSpare r k) s = .next u ∧ OnlyRing s u r ∧ Ends u r k stEngineAbsent []) ∧
      (used < 2 → (d.core n).status ≠ .running → (d.core n).runQ = [] → (d.core n).actions = [] → CleanLs s n →
        ∃ u, exec (.coreSpare r k) s = .next u ∧
          u.dev.core n = { Core.reset with
            phys := 25 + used, codeBase := (d.core n).codeBase, codeLen := (d.core n).codeLen, coast := decide (d.rd F.COASTING = 1) } ∧
          (∀ m, m ≠ n → u.dev.core m = d.core m) ∧ Tab.get u.dev.tier.coreSpares die 0 = used + 1 ∧ u.dev.rd F.CORE_SPARED = 1 ∧
          SameOutside s u (lsAddr n) 0x800000 ∧
          (∀ i, i < 0x800000 → u.dev.peek (lsAddr n + i) 1 = if bit (y.at 0x1A 1) 0 = true then [0] else d.peek (lsAddr n + i) 1) ∧
          Ends u r k (if d.rd F.NV_INHIBIT = 1 then stNvInhibited else stOk) (leBytes 1 (24 + used) ++ leBytes 1 (1 - used)) ∧
          (if d.rd F.NV_INHIBIT = 1 then u.dev.tier.pending = d.tier.pending ++ [map] ∧ u.dev.tier.committed = d.tier.committed
            else u.dev.tier.pending = [] ∧ u.dev.tier.committed = d.tier.committed ++ d.tier.pending ++ [map]))) ∧
    (AtEngine s r k 0x7D y → ∃ u, exec (.svnCommit r k) s = .next u ∧ u.dev.mem = d.mem ∧
      (let on := d.rd F.NV_INHIBIT ≠ 1 ∧ d.fuses.svnCounter < d.rd F.SVN_RUN
       u.dev.fuses = { d.fuses with svnCounter := u.dev.fuses.svnCounter } ∧
       (on → u.dev.fuses.svnCounter = d.rd F.SVN_RUN ∧ (d.rd F.SVN_STORED < d.rd F.SVN_RUN → u.dev.rd F.IMG_WOULD_FAIL = 1)) ∧
       (¬ on → u.dev.fuses.svnCounter = d.fuses.svnCounter) ∧
       Ends u r k (if d.rd F.NV_INHIBIT = 1 then stNvInhibited else stOk) (leBytes 1 u.dev.fuses.svnCounter))) ∧
    (AtEngine s r k 0x7E y →
      let op := y.at 0x18 1
      let slot := y.at 0x19 1
      let state (j : Nat) : Nat := Tab.get d.fuses.ownerState j 0
      let key := d.peek y.addr 64
      let ok := d.keyAllowed op slot (y.at 0x1A 1) key (d.peek (y.addr + 64) 64)
      (2 < op → ∃ u, exec (.keyAdmin r k) s = .next u ∧ OnlyRing s u r ∧ Ends u r k stBadOpcode []) ∧
      (op ≤ 2 → d.rd F.NV_INHIBIT = 1 → ∃ u, exec (.keyAdmin r k) s = .next u ∧ Ends u r k stNvInhibited [] ∧ u.dev.fuses = d.fuses) ∧
      (op ≤ 2 → d.rd F.NV_INHIBIT ≠ 1 → NearClean s y.addr 128 →
        (ok = false → ∃ u, exec (.keyAdmin r k) s = .next u ∧ Ends u r k stSigBad [] ∧ u.dev.fuses = d.fuses ∧ u.dev.rd F.SEC_FAIL = 1) ∧
        (ok = true → ∃ u, exec (.keyAdmin r k) s = .next u ∧ Ends u r k stOk [] ∧
          (op = 0 → u.dev.fuses = { d.fuses with ownerState := u.dev.fuses.ownerState, ownerKey := u.dev.fuses.ownerKey } ∧
            Tab.get u.dev.fuses.ownerState slot 0 = 1 ∧ (Tab.get u.dev.fuses.ownerKey slot 0).toNat = leNat key ∧
            ∀ j, j ≠ slot → Tab.get u.dev.fuses.ownerState j 0 = state j ∧
              Tab.get u.dev.fuses.ownerKey j 0 = Tab.get d.fuses.ownerKey j 0) ∧
          (op = 1 → u.dev.fuses = { d.fuses with ownerState := u.dev.fuses.ownerState } ∧ Tab.get u.dev.fuses.ownerState slot 0 = 2 ∧
            ∀ j, j ≠ slot → Tab.get u.dev.fuses.ownerState j 0 = state j) ∧
          (op = 2 → u.dev.fuses = { d.fuses with vendorRevoked := u.dev.fuses.vendorRevoked } ∧
            ∀ j, j ∈ u.dev.fuses.vendorRevoked ↔ j = slot ∨ j ∈ d.fuses.vendorRevoked))) ∧
      (op = 0 → 3 ≤ slot ∨ state slot ≠ 0 → ok = false) ∧
      (op = 1 → 3 ≤ slot ∨ state slot ≠ 1 ∨ (∀ j, j < 3 → j ≠ slot → state j ≠ 1) → ok = false) ∧
      (op = 2 → 4 ≤ slot ∨ slot ∈ d.fuses.vendorRevoked ∨ y.at 0x1A 1 = slot ∨
        (∀ j, j < 4 → j ≠ slot → j ∈ d.fuses.vendorRevoked) → ok = false)) ∧
    (AtEngine s r k 0x7F y →
      (y.len < 512 → ∃ u, exec (.attest r k []) s = .next u ∧ OnlyRing s u r ∧ Ends u r k stOk []) ∧
      (512 ≤ y.len → NearClean s y.addr (512 + d.fuses.cert.length) → ∃ u, exec (.attest r k []) s = .next u ∧
        let rep := u.dev.peek y.addr 512
        let room := 512 + d.fuses.cert.length ≤ y.len
        field rep 0 4 = 0x54535441 ∧ field rep 4 2 = 1 ∧ field rep 6 2 = d.coreCount ∧ field rep 8 16 = d.fuses.uid.toNat ∧
        (rep.drop 0x18).take 32 = ((y.raw.drop 0x18).take 32 ++ List.replicate 32 0).take 32 ∧
        field rep 0x38 4 = d.rd F.FW_VER_RUN % 2 ^ 32 ∧ field rep 0x48 1 = d.fuses.svnCounter % 256 ∧
        (∀ j, j < 3 → bits (field rep 0x4A 1) (2 * j) 2 = Tab.get d.fuses.ownerState j 0 % 4) ∧
        (rep.drop 0x50).take 32 = sha256 ((getBytes d.mem.keep (0x4000 * 4096) 1024).take 0x300) ∧
        field rep 0x9C 8 = d.rd F.OP_TIME_MS % 2 ^ 64 ∧
        (∀ q, q < 18 → field rep (0xA4 + 4 * q) 4 = (d.link q).phyVer.toNat) ∧
        (room → u.dev.peek (y.addr + 512) d.fuses.cert.length = d.fuses.cert ∧
          Ends u r k stOk (leBytes 2 d.fuses.cert.length ++ leBytes 1 1)) ∧
        (¬ room → Ends u r k stOk (leBytes 2 d.fuses.cert.length)) ∧
        SameOutside s u y.addr (512 + if room then d.fuses.cert.length else 0)))

/-- PERST, with the rails up, puts the port back to its reset state but for what it has sent, resets its registers, and makes each
of its rings DISABLED with ENABLE 0, what they had started and not finished running on; what waited for the port is discarded,
and a transfer or descriptor that it belonged to fails; no other ring, register, core or byte changes. Its release trains the
link at the given speed and width where the port's reference is present and the device serves its ports; else, or where the
link has its speed already, or at a speed or width that R378 does not list, the link stays as it is. A link that goes down
discards what waited for it in the same way. D3hot needs a link that is up; the return to D0 issues the held writes first,
then records and messages, in order, and what waited for them goes on. Unmasking a vector, for which the port's earlier BAR4
writes have landed, or enabling MSI-X, sends the pending messages in ascending vector order and clears their bits. -/
def Obligations.PortsResetSleepAndUnmask : Prop :=
  ∀ (p : PciePort) (s : State),
    let d := s.dev
    let q := d.port p
    let speed := F.LINK_SPEED (pnum p)
    let width := F.LINK_WIDTH (pnum p)
    (¬ RailsUp s → ∃ u, exec (.perstAssertion p) s = .next u ∧ TransfersDiscarded s u p ∧
      u = { s with dev := { d.setPort p { Port.reset with out := q.out } with rings := u.dev.rings, cores := u.dev.cores } } ∧
      ∀ r, u.dev.ring r = settledRing p true (d.ring r)) ∧
    (RailsUp s → ∃ u, exec (.perstAssertion p) s = .next u ∧ TransfersDiscarded s u p ∧
      u = { s with dev := { d.setPort p { Port.reset with out := q.out } with regs := u.dev.regs, rings := u.dev.rings, cores := u.dev.cores } } ∧
      (∀ f ∈ portFields p, u.dev.rd f = 0) ∧
      (∀ r, r < 64 → d.ringPort r = p → u.dev.rd (F.RING_STATE r) = 0 ∧ u.dev.rd (F.ENABLE r) = 0 ∧
        let x := settledRing p true (d.ring r)
        u.dev.ring r = { Ring.reset with orphans := x.orphans ++ x.started.filter (fun y => !y.finished) }) ∧
      (∀ r, r < 64 → d.ringPort r ≠ p → u.dev.ring r = settledRing p true (d.ring r)) ∧
      KeepsRegs s u (portFields p ++ (List.range 64).flatMap (fun r => [F.RING_STATE r, F.ENABLE r]))) ∧
    (∀ (sp : BitVec 3) (w : BitVec 4), sp = 1 ∨ sp = 2 ∨ sp = 3 → w = 4 ∨ w = 8 →
      (d.refOk p = true → ClocksRun s → d.rd speed = 0 → ∃ u, exec (.perstDeassertion p sp w) s = .next u ∧ (u.dev.port p).perst = false ∧
        u.dev.rd speed = sp.toNat ∧ u.dev.rd width = w.toNat ∧ u.dev.pcieUp p = true ∧ KeepsRegs s u [speed, width] ∧ u.dev.mem = d.mem) ∧
      (d.refOk p = false ∨ ¬ ClocksRun s ∨ d.rd speed ≠ 0 → exec (.perstDeassertion p sp w) s = .next { s with dev := d.setPort p { q with perst := false } })) ∧
    (∀ (sp : BitVec 3) (w : BitVec 4), ¬ ((sp = 1 ∨ sp = 2 ∨ sp = 3) ∧ (w = 4 ∨ w = 8)) →
      exec (.perstDeassertion p sp w) s = .next { s with dev := d.setPort p { q with perst := false } }) ∧
    (d.rd speed ≠ 0 → ∃ u, exec (.pcieLinkDown p) s = .next u ∧ u.dev.rd speed = 0 ∧ u.dev.rd width = 0 ∧ KeepsRegs s u [speed, width] ∧
      TransfersDiscarded s u p ∧ (∀ r, u.dev.ring r = settledRing p true (d.ring r)) ∧
      u = { s with dev := { d.setPort p { q with waiting := [] } with regs := u.dev.regs, rings := u.dev.rings, cores := u.dev.cores } }) ∧
    (d.rd speed = 0 → exec (.pcieLinkDown p) s = .next s) ∧
    (d.pcieUp p = true → exec (.d3hotEntry p) s = .next { s with dev := d.setPort p { q with d3hot := true } }) ∧
    (d.pcieUp p = false → exec (.d3hotEntry p) s = .next s) ∧
    (q.d3hot = true → ∃ u, exec (.d0Return p) s = .next u ∧ (u.dev.port p).d3hot = false ∧ (u.dev.port p).waiting = [] ∧
      (u.dev.port p).out = q.out ++ q.waiting.filter (fun o => match o with | .write _ _ _ => true | _ => false) ++
        q.waiting.filter (fun o => match o with | .write _ _ _ => false | _ => true) ∧
      u.dev.regs = d.regs ∧ u.dev.mem = d.mem ∧ (∀ r, u.dev.ring r = settledRing p false (d.ring r)) ∧ u.dev.cores = d.cores ∧ u.dev.port (otherPort p) = d.port (otherPort p)) ∧
    (q.d3hot = false → exec (.d0Return p) s = .next s) ∧
    (∀ v : Fin 64, d.regReach p = true → q.perst = false → ∃ u, exec (.msixUnmask p (some v)) s = .next u ∧
      (Tab.get (u.dev.port p).msix v MsixEntry.reset).masked = false ∧ u.dev.regs = d.regs ∧ u.dev.mem = d.mem ∧
      (if q.pba.getLsbD v = true ∧ q.msixOn = true ∧ q.funcMask = false then
        (u.dev.port p).out = q.out ++ [msgOf q v] ∧ (u.dev.port p).pba = q.pba &&& ~~~(BitVec.ofNat 64 (2 ^ v.val))
        else (u.dev.port p).out = q.out ∧ (u.dev.port p).pba = q.pba)) ∧
    (q.perst = true → exec (.msixUnmask p none) s = .next s) ∧
    (q.perst = false → ∃ u, exec (.msixUnmask p none) s = .next u ∧ (u.dev.port p).msixOn = true ∧ (u.dev.port p).funcMask = false ∧
      (u.dev.port p).msix = q.msix ∧ u.dev.regs = d.regs ∧ u.dev.mem = d.mem ∧
      (∀ v, v < 64 → (u.dev.port p).pba.getLsbD v = (q.pba.getLsbD v && (Tab.get q.msix v MsixEntry.reset).masked)) ∧
      (d.hostReach p = true → (u.dev.port p).out = q.out ++ (readyVecs q).map (msgOf q)))

/-- A write of REF_SEL to the selected reference, or to an absent one, changes nothing but the port's latch; to another it
switches, ends a coast, sets every multiple to 4 and loses every link that is up with cause 1. Losing the selected reference
starts a coast: its OK bit is 0, COASTING and CLK_COAST are 1, every multiple is 4, each present core shows COAST, the links
are lost, that port's link is down and EVT_COAST is set. A relock ends the coast. Losing the other reference takes down its
port's link alone. A reference that arrives while the device waits is selected, A before B, and the device boots into Run if
the stored image passes R487 and RECOVER_NEXT is 0, else into recovery; elsewhere it only becomes present. In Run, each update
steps a die's MULT_NOW down by one, or up by one at the fourth update in a row, toward the least of the request (36 while the
load of CAL_HOT runs), 32 with CAL_STALE outside that load, 4 with PWR_WARN or COASTING, the power cap's limit and the thermal
limit. A power above the cap lowers the cap's limit by one, not below 4; at 100 degrees or above the thermal limit falls by
one and THERM_THROTTLED is set; at 97 or below it rises by one, to 36. A core that does not run and has nothing in flight has
its clock gated, in Run alone. -/
def Obligations.ReferencesAndMultiples : Prop :=
  ∀ (s : State) (hot : Bool), (hot = true ↔ ∃ r k, s.dev.svc.job = some ⟨r, k, .calHot⟩) →
    let d := s.dev
    let sel := d.selected
    let ok (p : PciePort) : Field := match p with | .a => F.REF_A_OK | .b => F.REF_B_OK
    let slow (u : State) : Prop := ∀ k, k < 4 → u.dev.rd (F.MULT_NOW k) = 4
    (∀ p q, d.regReach p = true →
      (d.rd (ok q) ≠ 1 ∨ q = sel → exec (.refSelWrite p q) s = .next { s with dev := d.dropLatch p }) ∧
      (d.rd (ok q) = 1 → q ≠ sel → ∃ u, exec (.refSelWrite p q) s = .next u ∧ u.dev.rd F.REF_SEL = pnum q ∧ u.dev.rd F.COASTING = 0 ∧
        slow u ∧ LinksLost s u)) ∧
    (ClocksRun s → d.rd (ok sel) = 1 → ∃ u, exec .referenceLoss s = .next u ∧ u.dev.rd (ok sel) = 0 ∧ u.dev.rd F.COASTING = 1 ∧
      u.dev.rd F.CLK_COAST = 1 ∧ u.dev.rd F.EVT_COAST = 1 ∧ slow u ∧ LinksLost s u ∧ (∀ n, n < d.coreCount → (u.dev.core n).coast = true) ∧
      (d.rd (F.LINK_SPEED (pnum sel)) ≠ 0 → u.dev.rd (F.LINK_SPEED (pnum sel)) = 0)) ∧
    (¬ ClocksRun s ∨ d.rd (ok sel) ≠ 1 → exec .referenceLoss s = .next s) ∧
    (ClocksRun s → d.rd F.COASTING = 1 → ∃ u, exec .referenceRelock s = .next u ∧ u.dev.rd (ok sel) = 1 ∧ u.dev.rd F.COASTING = 0 ∧
      KeepsRegs s u [ok sel, F.COASTING, F.LINK_SPEED (pnum sel), F.LINK_WIDTH (pnum sel)] ∧ u.dev.mem = d.mem ∧ u.dev.cores = d.cores) ∧
    (¬ ClocksRun s ∨ d.rd F.COASTING ≠ 1 → exec .referenceRelock s = .next s) ∧
    (ClocksRun s → d.rd (ok (otherPort sel)) = 1 → ∃ u, exec .otherReferenceLoss s = .next u ∧ u.dev.rd (ok (otherPort sel)) = 0 ∧
      u.dev.rd (F.LINK_SPEED (pnum (otherPort sel))) = 0 ∧ u.dev.mem = d.mem ∧
      (if d.rd (F.LINK_SPEED (pnum (otherPort sel))) = 0 then u.dev.cores = d.cores else TransfersDiscarded s u (otherPort sel)) ∧
      KeepsRegs s u [ok (otherPort sel), F.LINK_SPEED (pnum (otherPort sel)), F.LINK_WIDTH (pnum (otherPort sel))]) ∧
    (¬ ClocksRun s ∨ d.rd (ok (otherPort sel)) ≠ 1 → exec .otherReferenceLoss s = .next s) ∧
    (∀ p, (d.rd (ok p) = 1 ∨ ¬ RailsUp s → exec (.referenceArrival p) s = .next s) ∧
      (ClocksRun s → d.rd (ok p) ≠ 1 → ∃ u, exec (.referenceArrival p) s = .next u ∧ u.dev.rd (ok p) = 1 ∧ u.dev.sys = d.sys ∧
        u.dev.mem = d.mem ∧ u.dev.cores = d.cores ∧ KeepsRegs s u [ok p, F.LINK_SPEED (pnum p), F.LINK_WIDTH (pnum p)]) ∧
      (d.sys.phase = .waitRef → d.rd (ok p) ≠ 1 → ∃ u, exec (.referenceArrival p) s = .next u ∧ u.dev.rd (ok p) = 1 ∧
        u.dev.rd F.REF_SEL = (if p = .a ∨ d.rd F.REF_A_OK = 1 then 0 else 1) ∧
        u.dev.sys.phase = (if d.storedReason = 0 ∧ d.rd F.RECOVER_NEXT = 0 then .run else .recovery))) ∧
    (d.sys.phase = .run → (∀ k, k < 4 → d.rd (F.MULT_NOW k) ≤ 36) → ∃ u, exec .multipleUpdate s = .next u ∧ u.dev.mem = d.mem ∧
      KeepsRegs s u ((List.range 4).map F.MULT_NOW) ∧ ∀ k, k < 4 →
        let now := d.rd (F.MULT_NOW k)
        let goal := if d.rd F.COASTING = 1 then 4 else allowedMult d hot k
        u.dev.rd (F.MULT_NOW k) = (if goal < now then now - 1 else if now < goal ∧ Tab.get d.sys.stepUp k 0 = 3 then now + 1 else now) ∧
        Tab.get u.dev.sys.stepUp k 0 = (if now < goal ∧ Tab.get d.sys.stepUp k 0 ≠ 3 then Tab.get d.sys.stepUp k 0 + 1 else 0)) ∧
    (d.sys.phase ≠ .run → exec .multipleUpdate s = .next s) ∧
    (∀ (k : Fin 4) (w : BitVec 16) (below : Bool),
      let cap := d.rd (F.DIE_PWR_CAP k)
      let want := wantedMult d hot k
      let now := min (Tab.get d.sys.pcap k 36) want
      (ClocksRun s → ∃ u, exec (.diePowerMeasure k w below) s = .next u ∧ u.dev.rd (F.DIE_POWER_W k) = w.toNat ∧
        KeepsRegs s u [F.DIE_POWER_W k] ∧ Tab.get u.dev.sys.pcap k 36 = (if cap = 0 then Tab.get d.sys.pcap k 36
          else if cap < w.toNat then max 4 (now - 1) else if below = true then min (now + 1) want else now)) ∧
      (¬ ClocksRun s → exec (.diePowerMeasure k w below) s = .next s)) ∧
    (∀ (k : Fin 4) (c : BitVec 8),
      let lim := Tab.get d.sys.therm k 36
      (ClocksRun s → ∃ u, exec (.thermalStep k c) s = .next u ∧ u.dev.rd (F.DIE_TEMP_C k) = c.toNat ∧ u.dev.mem = d.mem ∧
        u.dev.cores = d.cores ∧ (100 ≤ c.toNat → 4 < lim → u.dev.rd F.THERM_THROTTLED = 1) ∧ Tab.get u.dev.sys.therm k 36 =
          (if 100 ≤ c.toNat ∧ 4 < lim then lim - 1 else if c.toNat ≤ 97 ∧ lim < 36 then lim + 1 else lim)) ∧
      (¬ ClocksRun s → exec (.thermalStep k c) s = .next s)) ∧
    (∀ n : Fin 96,
      let c := d.core n
      let quiet : Prop := d.present n = true ∧ d.sys.phase = .run ∧ c.status ≠ .running ∧ c.queue = [] ∧ c.xfers = []
      (quiet → exec (.coreClockGated n) s = .next { s with dev := d.setCore n { c with gated := true } }) ∧
      (¬ quiet → exec (.coreClockGated n) s = .next s))

/-- By a port whose registers its host reaches, PWR_REQ takes 2, 3 (and the start of descriptors stops) or 0, and 0 wakes a device
in Retain. In Run, with PWR_REQ 2, no ring with a started descriptor unposted and no core running, the device enters Retain;
otherwise nothing happens. The end of a Sleep entry, a loss of power, an overvoltage and a thermal trip remove the rails:
cores, rings, links, stores and every volatile register are as after power-up, while fuses, keep tier, committed event log and
stored values stay; a Sleep entry first commits the pending repairs, unless NV_INHIBIT is set. A reading below a sensor's
threshold, or for a device without rails, does nothing. P54V with P3V3_AUX present, or KZ_WAKE_N in Sleep while both supplies
allow it, brings the rails up (a wake that finds P54V outside its range waits for it): the device waits for a reference,
POWER_CYCLES advances by one, OP_TIME_MS resumes from the saved value and a POWER_UP record is accepted. Losing P3V3_AUX is
remembered while the rails are up. -/
def Obligations.PowerStatesComeAndGo : Prop :=
  ∀ (s : State),
    let d := s.dev
    let ph := d.sys.phase
    let starts (u : State) : Prop := u.dev.sys.phase = .waitRef ∧ u.dev.rd F.POWER_CYCLES = (d.rd F.POWER_CYCLES + 1) % 2 ^ 32 ∧
      u.dev.rd F.OP_TIME_MS = d.recd.saved.2 % 2 ^ 64 ∧ u.dev.recd.newest = nextSeq d.recd.resumeSeq ∧ u.dev.mem = d.mem ∧ u.dev.fuses = d.fuses
    (∀ p, d.regReach p = true →
      let e := d.dropLatch p
      exec (.pwrReqRetain p) s = .next { s with dev := e.wr F.PWR_REQ 2 } ∧
      exec (.pwrReqSleep p) s = .next { s with dev := { e.wr F.PWR_REQ 3 with sys := { d.sys with sleepReq := true } } } ∧
      (ph ≠ .retain → exec (.pwrReqRun p) s = .next { s with dev := e.wr F.PWR_REQ 0 }) ∧
      (ph = .retain → ∃ u, exec (.pwrReqRun p) s = .next u ∧ u.dev.sys = { d.sys with phase := .run } ∧ u.dev.rd F.PWR_REQ = 0 ∧
        u.dev.rd F.PWR_STATE = 0 ∧ KeepsRegs s u [F.PWR_REQ, F.PWR_STATE] ∧ u.dev.mem = d.mem ∧ u.dev.cores = d.cores)) ∧
    (let idle : Prop := ph = .run ∧ d.rd F.PWR_REQ = 2 ∧ (∀ r, r < 64 → d.cntP r = d.cntS r) ∧ ∀ n, n < d.coreCount → (d.core n).status ≠ .running
     (idle → exec .retainEntry s = .next { s with dev := { d.wr F.PWR_STATE 2 with sys := { d.sys with phase := .retain } } }) ∧
     (¬ idle → exec .retainEntry s = .next s)) ∧
    (d.sys.sleepReq = true → ph = .run ∨ ph = .retain → ∃ u, exec .sleepDrainEnd s = .next u ∧ RailsRemoved s u .sleep ∧
      u.dev.sys.alertN = true ∧ u.dev.tier.committed = (if d.rd F.NV_INHIBIT = 1 then d.tier.committed else d.tier.committed ++ d.tier.pending)) ∧
    (d.sys.sleepReq = false ∨ ¬ (ph = .run ∨ ph = .retain) → exec .sleepDrainEnd s = .next s) ∧
    (RailsUp s → ∃ u, exec .railRemoval s = .next u ∧ RailsRemoved s u .off ∧ u.dev.recd.log = d.recd.log ∧
      u.dev.tier.committed = d.tier.committed ∧ u.dev.sys.p54vOk = false) ∧
    (ph = .sleep → exec .railRemoval s = .next { s with dev := { d with sys := { d.sys with p54vOk := false, auxLatch := false } } }) ∧
    (ph = .off → exec .railRemoval s = .next { s with dev := { d with sys := { d.sys with p54vOk := false } } }) ∧
    (RailsUp s → ∃ u, exec .overvoltage s = .next u ∧ RailsRemoved s u .off ∧ u.dev.recd.log = d.recd.log ∧
      u.dev.tier.committed = d.tier.committed ∧ u.dev.sys.p54vOk = false) ∧
    (¬ RailsUp s → exec .overvoltage s = .next { s with dev := { d with sys := { d.sys with p54vOk := false } } }) ∧
    (∀ (sensor c : BitVec 8) (t : Nat),
      (sensor.toNat < 9 ∧ t = 115) ∨ (0x10 ≤ sensor.toNat ∧ sensor.toNat < 0x24 ∧ t = 105) ∨
        (0x30 ≤ sensor.toNat ∧ sensor.toNat < 0x44 ∧ t = 100) ∨ (sensor.toNat = 0x50 ∧ t = 95) →
      (t ≤ c.toNat → RailsUp s → ∃ u, exec (.thermalTrip sensor c) s = .next u ∧ RailsRemoved s u .sleep ∧ u.dev.sys.tripN = false ∧
        u.dev.sys.tripped = true ∧ u.dev.tier.committed = d.tier.committed) ∧
      (c.toNat < t ∨ ¬ RailsUp s → exec (.thermalTrip sensor c) s = .next s)) ∧
    (let can : Prop := ph = .sleep ∧ d.sys.auxOk = true ∧ d.sys.auxLatch = false
     (can → d.sys.p54vOk = true → ∃ u, exec .kzWakeN s = .next u ∧ starts u ∧ u.dev.sys.tripN = true) ∧
     (can → d.sys.p54vOk = false → exec .kzWakeN s = .next { s with dev := { d with sys := { d.sys with kzLow := true } } }) ∧
     (¬ can → exec .kzWakeN s = .next s) ∧
     (can → d.sys.p54vOk = false → ∃ u, exec .powerUp s = .next u ∧ starts u ∧ u.dev.sys.p54vOk = true ∧
        u.dev.sys.tripN = (d.sys.kzLow || d.sys.tripN)) ∧
     (ph = .sleep → ¬ can → d.sys.p54vOk = false →
        exec .powerUp s = .next { s with dev := { d with sys := { d.sys with p54vOk := true, kzLow := false } } })) ∧
    (ph = .off → d.sys.auxOk = true → ∃ u, exec .powerUp s = .next u ∧ starts u ∧ u.dev.sys.p54vOk = true) ∧
    (ph = .off → d.sys.auxOk = false → exec .powerUp s = .next { s with dev := { d with sys := { d.sys with p54vOk := true } } }) ∧
    (RailsUp s ∨ (ph = .sleep ∧ d.sys.p54vOk = true) → exec .powerUp s = .next s) ∧
    (d.sys.auxOk = false → exec .p3v3AuxLoss s = .next s) ∧
    (d.sys.auxOk = true → ∃ u, exec .p3v3AuxLoss s = .next u ∧ u = { s with dev := { d with sys := u.dev.sys } } ∧
      u.dev.sys = { d.sys with auxOk := false, tripN := true, auxLatch := u.dev.sys.auxLatch } ∧
      (u.dev.sys.auxLatch = true ↔ d.sys.auxLatch = true ∨ RailsUp s)) ∧
    exec .p3v3AuxRestore s = .next { s with dev := { d with sys := { d.sys with auxOk := true } } }

/-- While the clocks run, the assertion of PWR_WARN_N sets PWR_WARN, INPUT_CV, SAG_SEEN and EVT_SAG_ON, wakes a device in Retain,
ends a CAL_HOT whose load runs with NV_INHIBITED, accepts a record and, unless NV_INHIBIT is set, leaves no record
uncommitted; no core and no byte changes. Its release clears PWR_WARN and sets EVT_SAG_OFF. NV_INHIBIT comes alone, or during
a commit of records or of a pending repair, or while FW_UPDATE writes: what is under way is aborted with NV_ABORTED set, and
FW_UPDATE ends NV_INHIBITED. When it clears, pending repairs and records are committed and RECOVER_NEXT with them. Where the
pin or the state is already so, or the clocks do not run, nothing changes. -/
def Obligations.SagsAndInhibits : Prop :=
  ∀ (s : State),
    let d := s.dev
    (∀ v : BitVec 16,
      (ClocksRun s → d.rd F.PWR_WARN ≠ 1 → ∃ u, exec (.pwrWarnNAssert v) s = .next u ∧ u.dev.rd F.PWR_WARN = 1 ∧ u.dev.rd F.INPUT_CV = v.toNat ∧
        u.dev.rd F.SAG_SEEN = 1 ∧ u.dev.rd F.EVT_SAG_ON = 1 ∧ u.dev.recd.newest = nextSeq d.recd.newest ∧
        u.dev.sys.phase = (if d.sys.phase = .retain then .run else d.sys.phase) ∧ u.dev.mem = d.mem ∧ u.dev.cores = d.cores ∧
        (d.rd F.NV_INHIBIT ≠ 1 → ∀ x ∈ u.dev.recd.buf, x.2 ≠ .pending) ∧
        ∀ r k y, d.svc.job = some ⟨r, k, .calHot⟩ → d.desc r k = some y → u.dev.svc.job = none ∧ Ends u r k stNvInhibited []) ∧
      (¬ ClocksRun s ∨ d.rd F.PWR_WARN = 1 → exec (.pwrWarnNAssert v) s = .next s)) ∧
    (ClocksRun s → d.rd F.PWR_WARN = 1 → ∃ u, exec .pwrWarnNRelease s = .next u ∧ u.dev.rd F.PWR_WARN = 0 ∧ u.dev.rd F.EVT_SAG_OFF = 1 ∧
      KeepsRegs s u [F.PWR_WARN, F.EVT_SAG_OFF] ∧ u.dev.mem = d.mem ∧ u.dev.cores = d.cores) ∧
    (¬ ClocksRun s ∨ d.rd F.PWR_WARN ≠ 1 → exec .pwrWarnNRelease s = .next s) ∧
    (∀ c : NvWrite,
      let writing : Prop := ∃ r k i m, d.svc.job = some ⟨r, k, .update i m⟩
      let aborts : Prop := (∃ k, c = .records k) ∨ (c = .repair ∧ d.tier.pending ≠ []) ∨ writing
      (ClocksRun s → d.rd F.NV_INHIBIT ≠ 1 → ∃ u, exec (.nvInhibitSet c) s = .next u ∧ u.dev.rd F.NV_INHIBIT = 1 ∧ u.dev.mem = d.mem ∧
        u.dev.recd.newest = d.recd.newest ∧ u.dev.tier = d.tier ∧ (aborts → u.dev.rd F.NV_ABORTED = 1) ∧
        (¬ aborts → u = { s with dev := d.wr F.NV_INHIBIT 1 }) ∧
        ∀ r k i m y, d.svc.job = some ⟨r, k, .update i m⟩ → d.desc r k = some y → u.dev.svc.job = none ∧
          Ends u r k stNvInhibited (leBytes 4 0 ++ leBytes 4 (field i 8 4) ++ leBytes 1 (field i 0xC 1 % 128))) ∧
      (¬ ClocksRun s ∨ d.rd F.NV_INHIBIT = 1 → exec (.nvInhibitSet c) s = .next s)) ∧
    (ClocksRun s → d.rd F.NV_INHIBIT = 1 → ∃ u, exec .nvInhibitClear s = .next u ∧ u.dev.rd F.NV_INHIBIT = 0 ∧ u.dev.tier.pending = [] ∧
      u.dev.tier.committed = d.tier.committed ++ d.tier.pending ∧ u.dev.svc.recStored = d.rd F.RECOVER_NEXT ∧ u.dev.mem = d.mem ∧
      (∀ x ∈ u.dev.recd.buf, x.2 ≠ .pending)) ∧
    (¬ ClocksRun s ∨ d.rd F.NV_INHIBIT ≠ 1 → exec .nvInhibitClear s = .next s)

/-- While the clocks run, a mean power and the input voltage give INPUT_CV and LOAD_NOW, round(255 W / 3,700) up to 255, and each
droop guardband follows it by R477; the other items stay. A retrim check makes an item due after a period, unless the period
is 0, or once its temperature has moved; due and four periods past makes it overdue, the first time with RETRIM_OVERDUE.
CAL_WINDOW re-trims, in item order, the due items (all with FORCE; link ports only while up) as long as the next one fits and
no sag is on or comes in it, reports how many, how many remain and the time used, and gives each the value measured at
LOAD_NOW; the others stay. Each island among them runs at multiple 4 from then on, which its cores show, and each link port
that had not stopped its neighbour counts one stop. CAL_HOT in a sag completes NV_INHIBITED; else it waits while a core runs;
its load runs the islands at what R462 allows with 36 requested; a sag during the load ends it with NV_INHIBITED; below load
index 230 it stores nothing; else, without NV_INHIBIT, it sets HOT_LOAD, clears CAL_STALE and stores as each item's offset the
hot value less the cold one. -/
def Obligations.CalibrationFollowsTheLoad : Prop :=
  ∀ (s : State),
    let d := s.dev
    (∀ w v : BitVec 16,
      let load := min 255 ((510 * w.toNat + 3700) / 7400)
      (ClocksRun s → ∃ u, exec (.guardbandUpdate ⟨w, v⟩) s = .next u ∧ u.dev.rd F.LOAD_NOW = load ∧ u.dev.rd F.MOD_POWER_W = w.toNat ∧
        u.dev.rd F.INPUT_CV = v.toNat ∧ KeepsRegs s u [F.LOAD_NOW, F.MOD_POWER_W, F.INPUT_CV] ∧ u.dev.mem = d.mem ∧
        (∀ i, i < 4 → Follows (u.dev.calItem i) load d.svc.hotLoad ∧ (u.dev.calItem i).cold = (d.calItem i).cold ∧
          (u.dev.calItem i).offset = (d.calItem i).offset) ∧
        (∀ i, 4 ≤ i → u.dev.calItem i = d.calItem i)) ∧
      (¬ ClocksRun s → exec (.guardbandUpdate ⟨w, v⟩) s = .next s)) ∧
    (∀ (i : Fin 26) (n : Nat) (moved : Bool),
      let c := d.calItem i
      let timed : Prop := d.rd F.RETRIM_PERIOD_S ≠ 0
      (ClocksRun s → ∃ u, exec (.retrimDueCheck i n moved) s = .next u ∧ u.dev.mem = d.mem ∧ u.dev.cores = d.cores ∧
        ((u.dev.calItem i).due = true ↔ c.due = true ∨ (timed ∧ 1 ≤ n) ∨ moved = true) ∧
        ((u.dev.calItem i).overdue = true ↔ c.overdue = true ∨ (timed ∧ 4 ≤ n)) ∧
        (timed → 4 ≤ n → c.overdue = false → u.dev.rd F.RETRIM_OVERDUE = 1 ∧ u.dev.recd.newest = nextSeq d.recd.newest) ∧
        (∀ j, j ≠ i.val → u.dev.calItem j = d.calItem j)) ∧
      (¬ ClocksRun s → exec (.retrimDueCheck i n moved) s = .next s)) ∧
    (∀ (r : Fin 64) (k : Word) (y : Desc) (meas : List CalMeas) (sag : Option Nat), AtEngine s r k 0x78 y →
      let window := y.at 0x18 4
      let is := (List.range 26).filter (fun i => (bit (y.at 0x1C 1) 0 || (d.calItem i).due) && (decide (i < 8) || d.linkUp (i - 8)))
      (window = 0 → ∃ u, exec (.calWindow r k meas sag) s = .next u ∧ OnlyRing s u r ∧ Ends u r k stOk []) ∧
      (window ≠ 0 → ∃ u n, exec (.calWindow r k meas sag) s = .next u ∧ n ≤ is.length ∧
        windowTime (is.take n) ≤ window ∧ (d.rd F.PWR_WARN = 1 → n = 0) ∧ (∀ a, sag = some a → n ≤ a) ∧
        (n < is.length → window < windowTime (is.take (n + 1)) ∨ d.rd F.PWR_WARN = 1 ∨ sag = some n) ∧
        Ends u r k stOk (leBytes 2 n ++ leBytes 2 (is.length - n) ++ leBytes 4 (windowTime (is.take n))) ∧
        u.dev.mem = d.mem ∧ (∀ m, u.dev.core m = { d.core m with multChg := (u.dev.core m).multChg }) ∧
        (∀ i, i < 4 →
          (i ∉ is.take n → u.dev.rd (F.MULT_NOW i) = d.rd (F.MULT_NOW i)) ∧
          (i ∈ is.take n → u.dev.rd (F.MULT_NOW i) = 4 ∧
            (d.rd (F.MULT_NOW i) ≠ 4 → ∀ m, m < d.coreCount → d.dieOf m = i → (u.dev.core m).multChg = true))) ∧
        (∀ p, p < 18 → u.dev.rd (F.STOPS_SENT p) =
          (if 8 + p ∈ is.take n ∧ (d.link p).stopOut = false then satAdd 32 (d.rd (F.STOPS_SENT p)) 1 else d.rd (F.STOPS_SENT p))) ∧
        (∀ i ∈ is.take n, (u.dev.calItem i).due = false ∧ (u.dev.calItem i).lc = d.rd F.LOAD_NOW ∧
          (u.dev.calItem i).offset = (d.calItem i).offset ∧
          ∀ m, meas.find? (fun x => x.item.val == i) = some m → (u.dev.calItem i).cold = m.value) ∧
        (∀ i, i ∉ is.take n → u.dev.calItem i = d.calItem i))) ∧
    (∀ (r : Fin 64) (k : Word) (y : Desc) (meas hot : List CalMeas) (load : BitVec 8) (how : HotStep),
      let stays (u : State) : Prop := u.dev.rd F.CAL_STALE = d.rd F.CAL_STALE ∧ u.dev.rd F.HOT_LOAD = d.rd F.HOT_LOAD ∧
        u.dev.svc = { d.svc with job := none }
      let ends (u : State) : Prop := u.dev.fuses = d.fuses ∧ u.dev.svc.job = none ∧
        (how = .sag → Ends u r k stNvInhibited [] ∧ stays u) ∧
        (how ≠ .sag → load.toNat < 230 → stays u ∧ ∃ res, Ends u r k stOk res ∧ field res 0 1 = 1 ∧ field res 1 1 = load.toNat) ∧
        (how ≠ .sag → 230 ≤ load.toNat → d.rd F.NV_INHIBIT = 1 → Ends u r k stNvInhibited [] ∧ stays u ∧ u.dev.rd F.NV_ABORTED = 1) ∧
        (how ≠ .sag → 230 ≤ load.toNat → d.rd F.NV_INHIBIT ≠ 1 →
          (∃ res, Ends u r k stOk res ∧ field res 0 1 = 0 ∧ field res 1 1 = load.toNat) ∧
          u.dev.rd F.CAL_STALE = 0 ∧ u.dev.rd F.HOT_LOAD = load.toNat ∧ u.dev.svc.hotLoad = load.toNat ∧
          (∀ i, i < 26 → i < 8 ∨ d.linkUp (i - 8) = true →
            ∀ x z, meas.find? (fun m => m.item.val == i) = some x → hot.find? (fun m => m.item.val == i) = some z →
              (u.dev.calItem i).cold = x.value ∧ (u.dev.calItem i).offset = z.value - x.value) ∧
          (∀ p, p < 18 → d.linkUp p = false → (u.dev.calItem (8 + p)).offset = 0))
      let untouched (u : State) : Prop := (∀ x, x < lsBase → u.dev.peek x 1 = d.peek x 1) ∧
        ∀ n, (u.dev.core n).codeBase = (d.core n).codeBase ∧ (u.dev.core n).codeLen = (d.core n).codeLen ∧
          (u.dev.core n).status = (d.core n).status
      let busy : Prop := ∃ n, n < d.coreCount ∧ (d.core n).status = .running
      (AtEngine s r k 0x79 y →
        (d.rd F.PWR_WARN = 1 → ∃ u, exec (.calHot r k meas hot load how) s = .next u ∧ OnlyRing s u r ∧ Ends u r k stNvInhibited []) ∧
        (d.rd F.PWR_WARN ≠ 1 → busy → exec (.calHot r k meas hot load how) s = .next s) ∧
        (d.rd F.PWR_WARN ≠ 1 → ¬ busy → how ≠ .begins → ∃ u, exec (.calHot r k meas hot load how) s = .next u ∧ ends u ∧ untouched u ∧
          ∀ i, i < 4 → u.dev.rd (F.MULT_NOW i) = (if d.rd F.COASTING = 1 then 4 else allowedMult d true i)) ∧
        (d.rd F.PWR_WARN ≠ 1 → ¬ busy → ∃ u, exec (.calHot r k meas hot load .begins) s = .next u ∧ untouched u ∧
          (∃ z, u.dev.desc r k = some z ∧ z.taken = true ∧ z.outcome = none) ∧ u.dev.svc = { d.svc with job := some ⟨r, k, .calHot⟩ } ∧
          u.dev.regs = d.regs)) ∧
      (d.svc.job = some ⟨r, k, .calHot⟩ → d.sys.phase = .run → d.desc r k = some y →
        ∃ u, exec (.calHot r k meas hot load how) s = .next u ∧ ends u ∧ u.dev.mem = d.mem ∧ u.dev.cores = d.cores))

/-- A die that first throttles hands in a Warning record: its SEQ is the next one, its counts those of now; the buffer takes it at
its end, pending unless NV_MIN_SEV is above it; a full buffer gives up its oldest free slot, else its oldest uncommitted
record of the lowest severity not above Warning, else drops the record and counts it; SMB_ALERT_N is asserted where SB_CURSOR
is 0 or not past it, and EVT_SEV set where EVT_MIN_SEV allows. A commit, while the clocks run, the Bronze core does not
restart and NV_INHIBIT is clear, takes the first uncommitted record: a log with room takes it, a full one gives up the oldest
record of the lowest severity not above its own, else refuses it and counts it; else nothing changes. A save keeps both
counts, or sets NV_ABORTED under NV_INHIBIT. The end of a hold-off sends merged causes as one message on each port whose
EVT_EN is 1. -/
def Obligations.RecordsAreAcceptedAndCommitted : Prop :=
  ∀ (s : State),
    let d := s.dev
    let x := d.recd
    (∀ (die : Fin 4) (c : BitVec 8) (u : State), ClocksRun s → 100 ≤ c.toNat → 4 < Tab.get d.sys.therm die 36 → d.rd F.THERM_THROTTLED ≠ 1 →
      exec (.thermalStep die c) s = .next u →
      let new := (throttleRec d die c.toNat, if 2 < d.rd F.NV_MIN_SEV then BufState.exempt else BufState.pending)
      u.dev.recd.newest = nextSeq x.newest ∧ u.dev.recd.log = x.log ∧
      (x.buf.length < 4096 → u.dev.recd.buf = x.buf ++ [new]) ∧
      (∀ pre o post, 4096 ≤ x.buf.length → x.buf = pre ++ o :: post → (∀ e ∈ pre, e.2 = .pending) → o.2 ≠ .pending →
        u.dev.recd.buf = pre ++ post ++ [new]) ∧
      (∀ pre o post, 4096 ≤ x.buf.length → x.buf = pre ++ o :: post → (∀ e ∈ x.buf, e.2 = .pending) → o.1.sev ≤ 2 →
        (∀ e ∈ pre, o.1.sev < e.1.sev) → (∀ e ∈ post, o.1.sev ≤ e.1.sev) → u.dev.recd.buf = pre ++ post ++ [new]) ∧
      (4096 ≤ x.buf.length → (∀ e ∈ x.buf, e.2 = .pending ∧ 2 < e.1.sev) → u.dev.recd.buf = x.buf ∧ u.dev.rd F.LOG_DROPPED = 1 ∧
        u.dev.rd (F.DROPPED_SEV 2) = min (d.rd (F.DROPPED_SEV 2) + 1) (2 ^ 32 - 1)) ∧
      (u.dev.sys.alertN = (d.sys.alertN && !decide (d.rd F.SB_CURSOR % 2 ^ 32 = 0 ∨
        (nextSeq x.newest - BitVec.ofNat 32 (d.rd F.SB_CURSOR)).toNat < 2 ^ 31))) ∧
      (d.rd F.EVT_MIN_SEV ≤ 2 → u.dev.rd F.EVT_SEV = 1)) ∧
    (∀ pre r post, ClocksRun s → ¬ Restarting s → d.rd F.NV_INHIBIT ≠ 1 → x.buf = pre ++ (r, .pending) :: post → (∀ e ∈ pre, e.2 ≠ .pending) →
      ∃ u, exec .recordCommit s = .next u ∧ u = { s with dev := { d with regs := u.dev.regs, recd := { x with
          log := u.dev.recd.log, buf := u.dev.recd.buf } } } ∧
        (let marked (b : BufState) : Prop := u.dev.recd.buf = x.buf.map (fun e => if e.1.seq = r.seq then (e.1, b) else e)
         (x.log.length < 1048576 → marked .committed ∧ u.dev.regs = d.regs ∧ ∀ j, Tab.get u.dev.recd.log j none =
           if j = r.seq.toNat then some r else Tab.get x.log j none) ∧
         (1048576 ≤ x.log.length → Tab.wf x.log none = true → (∀ j, Tab.get x.log j none ≠ none → j < 2 ^ 32) → ∀ k w,
           GivenUp x r.sev k w → k ≠ r.seq.toNat → marked .committed ∧ u.dev.regs = d.regs ∧ ∀ j, Tab.get u.dev.recd.log j none =
             if j = r.seq.toNat then some r else if j = k then none else Tab.get x.log j none) ∧
         (1048576 ≤ x.log.length → (∀ j v, Tab.get x.log j none = some v → r.sev < v.sev) → Tab.wf x.log none = true →
           marked .refused ∧ u.dev.recd.log = x.log ∧ u.dev.rd F.LOG_DROPPED = 1 ∧
           u.dev.rd (F.DROPPED_SEV r.sev) = min (d.rd (F.DROPPED_SEV r.sev) + 1) (2 ^ 32 - 1)))) ∧
    (¬ ClocksRun s ∨ Restarting s ∨ d.rd F.NV_INHIBIT = 1 ∨ (∀ e ∈ x.buf, e.2 ≠ .pending) → exec .recordCommit s = .next s) ∧
    (ClocksRun s → exec .opTimeSave s = .next { s with dev := if d.rd F.NV_INHIBIT = 1 then d.wr F.NV_ABORTED 1
      else { d with recd := { x with saved := (d.rd F.POWER_CYCLES, d.rd F.OP_TIME_MS) } } }) ∧
    (¬ ClocksRun s → exec .opTimeSave s = .next s) ∧
    (x.holdoff = false → exec .evtHoldoffEnd s = .next s) ∧
    (x.holdoff = true → x.merged = false → exec .evtHoldoffEnd s = .next { s with dev := { d with recd := { x with holdoff := false } } }) ∧
    (x.holdoff = true → x.merged = true → ∃ u, exec .evtHoldoffEnd s = .next u ∧ u.dev.regs = d.regs ∧ u.dev.mem = d.mem ∧
      u.dev.recd.merged = false ∧ u.dev.recd.holdoff = decide (d.rd F.EVT_HOLDOFF_US ≠ 0) ∧
      ∀ p, let v := d.rd (F.EVT_VEC (pnum p))
        (d.rd (F.EVT_EN (pnum p)) ≠ 1 → u.dev.port p = d.port p) ∧
        (d.rd (F.EVT_EN (pnum p)) = 1 → d.hostReach p = true → d.vecSends p v = true →
          (u.dev.port p).out = (d.port p).out ++ [msgOf (d.port p) v]))

/-- By a port whose registers its host reaches, a HOST_CURSOR write sets the cursor, clears WIN_READY and starts the window's
load; the load's end sets WIN_READY, or SB_WIN_READY, and a window that is not loading does not change. While the sideband
answers: OFFSET with a right PEC sets its offset, bits [1:0] cleared; READ returns 32 B of BAR0 from the offset and advances
it by 32; CURSOR with a right PEC sets SB_CURSOR, clears SB_WIN_READY, starts the load, and releases SMB_ALERT_N where it
stands past the newest record; the Alert Response Address is answered with 0x10 + SLOT_ID where SMB_ALERT_N is asserted, which
releases it. A wrong PEC, an alert that is not asserted, or a sideband that does not answer changes nothing. A window reads
zeros until it is ready, and then, in slot i, the record numbered i past the cursor, from the buffer before the log. -/
def Obligations.WindowsAndTheSideband : Prop :=
  ∀ (s : State) (v : Word) (pec : Bool),
    let d := s.dev
    let x := d.recd
    (∀ p, d.regReach p = true → exec (.hostCursor p v) s = .next { s with dev := { ((d.dropLatch p).wr F.HOST_CURSOR v.toNat).wr F.WIN_READY 0 with
      recd := { x with loading := true } } }) ∧
    (x.loading = true → exec (.winReady false) s = .next { s with dev := { d.wr F.WIN_READY 1 with recd := { x with loading := false } } }) ∧
    (x.loading = false → exec (.winReady false) s = .next s) ∧
    (x.sbLoading = true → exec (.winReady true) s = .next { s with dev := { d.wr F.SB_WIN_READY 1 with recd := { x with sbLoading := false } } }) ∧
    (x.sbLoading = false → exec (.winReady true) s = .next s) ∧
    (SidebandOn s → pec = true →
      exec (.sbOffset v pec) s = .next { s with dev := { d with recd := { x with sbOffset := v.toNat / 4 * 4 } } } ∧
      ∃ u, exec (.sbCursor v pec) s = .next u ∧ u.dev.rd F.SB_CURSOR = v.toNat ∧ u.dev.rd F.SB_WIN_READY = 0 ∧
        KeepsRegs s u [F.SB_CURSOR, F.SB_WIN_READY] ∧ u.dev.recd = { x with sbLoading := true } ∧
        u = { s with dev := { d with regs := u.dev.regs, recd := u.dev.recd, sys := { d.sys with alertN := u.dev.sys.alertN } } } ∧
        u.dev.sys.alertN = (d.sys.alertN || decide (v ≠ 0 ∧ v ≠ x.newest ∧ (v - x.newest).toNat < 2 ^ 31))) ∧
    (SidebandOn s → exec .sbRead s = .next { s with dev := { d with recd := { x with
      sbOut := x.sbOut ++ [(List.range 8).flatMap (fun i => leBytes 4 (d.word none (x.sbOffset + 4 * i)))],
      sbOffset := (x.sbOffset + 32) % 2 ^ 32 } } }) ∧
    (SidebandOn s → d.sys.alertN = false → exec .alertResponseAddress s = .next { s with dev := { d with
      recd := { x with sbOut := x.sbOut ++ [leBytes 1 (0x10 + d.sys.strapSlot.toNat)] }, sys := { d.sys with alertN := true } } }) ∧
    (¬ SidebandOn s ∨ d.sys.alertN = true → exec .alertResponseAddress s = .next s) ∧
    (¬ SidebandOn s → exec .sbRead s = .next s) ∧
    (¬ SidebandOn s ∨ pec = false → exec (.sbOffset v pec) s = .next s ∧ exec (.sbCursor v pec) s = .next s) ∧
    (∀ i k, i < 64 → k < 16 → d.sys.phase ≠ .recovery →
      (d.rd F.SB_WIN_READY = 0 → d.word none (0x5000 + 64 * i + 4 * k) = 0) ∧
      (d.rd F.SB_WIN_READY ≠ 0 → d.rd F.SB_CURSOR ≠ 0 → d.rd F.SB_CURSOR < 2 ^ 32 →
        let n := (d.rd F.SB_CURSOR - 1 + i) % (2 ^ 32 - 1) + 1
        (∀ r b, x.buf.find? (fun e => e.1.seq == BitVec.ofNat 32 n) = some (r, b) → d.word none (0x5000 + 64 * i + 4 * k) = field r.bytes (4 * k) 4) ∧
        (∀ r, x.buf.find? (fun e => e.1.seq == BitVec.ofNat 32 n) = none → Tab.get x.log n none = some r →
          d.word none (0x5000 + 64 * i + 4 * k) = field r.bytes (4 * k) 4) ∧
        (x.buf.find? (fun e => e.1.seq == BitVec.ofNat 32 n) = none → Tab.get x.log n none = none →
          d.word none (0x5000 + 64 * i + 4 * k) = 0)))

/-- In every state whose memories (the device's own stores, the keep tier, and the memory behind each port) list rising addresses
and no byte that equals what an unlisted one reads as, a step that answers a next state leaves them in that form. So equal
memories stay equal as data. That an unlisted byte reads as 0 is the model's choice (log 3). -/
def Obligations.MemoryStaysCanonical : Prop :=
  ∀ s t : State, s.dev.mem.wf = true → s.dev.env.wf = true → step s = .next t → t.dev.mem.wf = true ∧ t.dev.env.wf = true

/-- Whatever the command and the state, over one step that answers a next state: the grade, the device's identity, its certificate
and the vendor keys stand; the version counter does not fall; a revoked vendor slot stays revoked; and each owner slot keeps
its state and key, or goes from empty to active, or from active to revoked with its key. Loss of power, Sleep, recovery and
every update are steps among them. -/
def Obligations.FusesNeverGoBack : Prop :=
  ∀ s t : State, step s = .next t → FusesGo s.dev.fuses t.dev.fuses

/-- The state after reset has an empty queue, waits for a reference, and meets the canonical form of its memories. Every core is
IDLE with CODE_LEN and CFLAGS 0; each ring is DISABLED; the registers of the table below read the values the spec gives: MY_ID
0xFFFF, every VC_CRED 256, CORE_MULT 36 and MULT_NOW 4 of each die, REBUILD_GBPS 16, UE_LIMIT 4, CE_LIMIT 4,096, HEARTBEAT_MS
10, PARTNER_MISS_LIMIT 3, NV_MIN_SEV 1, EVT_MIN_SEV 3, EVT_HOLDOFF_US 100, RETRIM_PERIOD_S 600, NEAR_TOP_GIB 1,264 and
SPARES_LEFT 8. -/
def Obligations.ResetStartsTheMachine : Prop :=
  State.reset.pending = [] ∧ State.reset.dev.sys.phase = .waitRef ∧ State.reset.dev.mem.wf = true ∧ State.reset.dev.env.wf = true ∧
  (∀ n, (State.reset.dev.core n).status = .idle ∧ (State.reset.dev.core n).codeLen = 0 ∧ (State.reset.dev.core n).cflags = 0) ∧
  (∀ r, State.reset.dev.rd (F.RING_STATE r) = 0 ∧ State.reset.dev.rd (F.ENABLE r) = 0) ∧
  (∀ p, State.reset.dev.rd (F.VC_CRED p) = 256) ∧
  (∀ k, State.reset.dev.rd (F.CORE_MULT k) = 36 ∧ State.reset.dev.rd (F.MULT_NOW k) = 4) ∧
  ∀ x ∈ [(F.MY_ID, 0xFFFF), (F.REBUILD_GBPS, 16), (F.UE_LIMIT, 4), (F.CE_LIMIT, 4096), (F.HEARTBEAT_MS, 10), (F.PARTNER_MISS_LIMIT, 3),
      (F.NV_MIN_SEV, 1), (F.EVT_MIN_SEV, 3), (F.EVT_HOLDOFF_US, 100), (F.RETRIM_PERIOD_S, 600), (F.NEAR_TOP_GIB, 1264), (F.SPARES_LEFT, 8)],
    State.reset.dev.rd x.1 = x.2
end

