-- ==== Sys2Proof/Laws/Tab.lean ====
section
/-! SUPPORT. The laws of the sparse tables: what reads back after a write, and that writes keep the canonical form. -/
namespace Sys2Proof

@[simp] theorem Tab.get_nil {α : Type} (k : Nat) (d : α) : Tab.get [] k d = d := rfl

theorem Tab.get_put_same {α : Type} (t : Tab α) (k : Nat) (v d : α) : Tab.get (Tab.put t k v) k d = v := by
  induction t with
  | nil => simp [Tab.put, Tab.get]
  | cons x r ih =>
    obtain ⟨j, w⟩ := x
    simp only [Tab.put]
    split
    · simp [Tab.get]
    · split <;> simp_all [Tab.get]

theorem Tab.get_put_ne {α : Type} (t : Tab α) (k k' : Nat) (v d : α) (h : k' ≠ k) : Tab.get (Tab.put t k v) k' d = Tab.get t k' d := by
  have h' : k ≠ k' := fun e => h e.symm
  induction t with
  | nil => simp [Tab.put, Tab.get, h']
  | cons x r ih =>
    obtain ⟨j, w⟩ := x
    simp only [Tab.put]
    split
    · subst_vars; simp [Tab.get, h']
    · split <;> simp_all [Tab.get]

theorem Tab.get_erase_same {α : Type} (t : Tab α) (k : Nat) (d : α) : Tab.get (Tab.erase t k) k d = d := by
  induction t with
  | nil => rfl
  | cons x r ih =>
    obtain ⟨j, w⟩ := x
    simp only [Tab.erase]
    split <;> simp_all [Tab.get]

theorem Tab.get_erase_ne {α : Type} (t : Tab α) (k k' : Nat) (d : α) (h : k' ≠ k) : Tab.get (Tab.erase t k) k' d = Tab.get t k' d := by
  induction t with
  | nil => rfl
  | cons x r ih =>
    obtain ⟨j, w⟩ := x
    simp only [Tab.erase]
    split
    · subst_vars; simp_all [Tab.get, Ne.symm h]
    · simp_all [Tab.get]

/-- What was written reads back. -/
@[simp] theorem Tab.get_set_same {α : Type} [DecidableEq α] (t : Tab α) (k : Nat) (v d : α) : Tab.get (Tab.set t k v d) k d = v := by
  unfold Tab.set
  split
  · rename_i h; rw [Tab.get_erase_same]; exact h.symm
  · exact Tab.get_put_same t k v d

/-- Other entries read as before. -/
theorem Tab.get_set_ne {α : Type} [DecidableEq α] (t : Tab α) (k k' : Nat) (v d e : α) (h : k' ≠ k) :
    Tab.get (Tab.set t k v d) k' e = Tab.get t k' e := by
  unfold Tab.set
  split
  · exact Tab.get_erase_ne t k k' e h
  · exact Tab.get_put_ne t k k' v e h

/-- An entry after a write, by whether it is the one written. -/
theorem Tab.get_set {α : Type} [DecidableEq α] (t : Tab α) (k k' : Nat) (v d : α) :
    Tab.get (Tab.set t k v d) k' d = if k' = k then v else Tab.get t k' d := by
  split
  · subst_vars; simp
  · rename_i h; exact Tab.get_set_ne t k k' v d d h

/-- The canonical form from a higher number on is one from a lower number on. -/
theorem Tab.wfFrom_le {α : Type} [DecidableEq α] (t : Tab α) (lo lo' : Nat) (d : α) (h : lo ≤ lo') (w : Tab.wfFrom t lo' d = true) :
    Tab.wfFrom t lo d = true := by
  cases t with
  | nil => rfl
  | cons x r => obtain ⟨k, v⟩ := x; simp_all [Tab.wfFrom]; omega

theorem Tab.wfFrom_erase {α : Type} [DecidableEq α] (t : Tab α) (lo k : Nat) (d : α) (w : Tab.wfFrom t lo d = true) :
    Tab.wfFrom (Tab.erase t k) lo d = true := by
  induction t generalizing lo with
  | nil => rfl
  | cons x r ih =>
    obtain ⟨j, v⟩ := x
    simp only [Tab.wfFrom, Bool.and_eq_true, decide_eq_true_eq] at w
    simp only [Tab.erase]
    split
    · exact Tab.wfFrom_le _ lo (j + 1) d (by omega) (ih (j + 1) w.2)
    · simp [Tab.wfFrom, w.1.1, w.1.2, ih (j + 1) w.2]

theorem Tab.wfFrom_put {α : Type} [DecidableEq α] (t : Tab α) (lo k : Nat) (v d : α) (w : Tab.wfFrom t lo d = true) (hk : lo ≤ k)
    (hv : v ≠ d) : Tab.wfFrom (Tab.put t k v) lo d = true := by
  induction t generalizing lo with
  | nil => simp [Tab.put, Tab.wfFrom, hk, hv]
  | cons x r ih =>
    obtain ⟨j, u⟩ := x
    simp only [Tab.wfFrom, Bool.and_eq_true, decide_eq_true_eq] at w
    simp only [Tab.put]
    split
    · subst_vars; simp [Tab.wfFrom, hv, w.1.1, w.2]
    · split
      · rename_i h; simp [Tab.wfFrom, hk, hv, w.1.2, w.2]; omega
      · rename_i h1 h2; simp only [Tab.wfFrom, Bool.and_eq_true, decide_eq_true_eq]
        exact ⟨w.1, ih (j + 1) w.2 (by omega)⟩

/-- A write keeps the canonical form. -/
theorem Tab.wf_set {α : Type} [DecidableEq α] (t : Tab α) (k : Nat) (v d : α) (w : Tab.wf t d = true) : Tab.wf (Tab.set t k v d) d = true := by
  unfold Tab.set Tab.wf at *
  split
  · exact Tab.wfFrom_erase t 0 k d w
  · rename_i h; exact Tab.wfFrom_put t 0 k v d w (Nat.zero_le _) h

@[simp] theorem NatSet.mem_ins (t : NatSet) (k j : Nat) : j ∈ NatSet.ins t k ↔ j = k ∨ j ∈ t := by
  induction t with
  | nil => simp [NatSet.ins]
  | cons x r ih =>
    simp only [NatSet.ins]
    split
    · subst_vars; simp
    · split
      · simp_all
      · simp_all; constructor <;> (rintro (h | h | h) <;> simp [h])

@[simp] theorem NatSet.mem_del (t : NatSet) (k j : Nat) : j ∈ NatSet.del t k ↔ j ∈ t ∧ j ≠ k := by simp [NatSet.del]

end Sys2Proof
end

