-- ==== Sys2Proof/Laws/Bytes.lean ====
section
/-! SUPPORT. The laws of byte strings and of byte tables: little-endian numbers, what reads back after a write, and that a write
leaves the other bytes and the canonical form. -/
namespace Sys2Proof

@[simp] theorem leBytes_length (n v : Nat) : (leBytes n v).length = n := by simp [leBytes]

/-- The low byte first, then the rest. -/
theorem leBytes_succ (n v : Nat) : leBytes (n + 1) v = BitVec.ofNat 8 v :: leBytes n (v / 256) := by
  simp only [leBytes, List.range_succ_eq_map, List.map_cons, List.map_map, Nat.mul_zero, Nat.shiftRight_zero]
  refine congrArg _ (List.map_congr_left fun i _ => ?_)
  simp only [Function.comp, Nat.succ_eq_add_one, Nat.mul_add, Nat.mul_one, Nat.shiftRight_eq_div_pow, Nat.pow_add, Nat.div_div_eq_div_mul]
  rw [Nat.mul_comm]

/-- Bytes spell the number that was cut into them, cut to their width. -/
@[simp] theorem leNat_leBytes (n v : Nat) : leNat (leBytes n v) = v % 2 ^ (8 * n) := by
  induction n generalizing v with
  | zero => simp [leBytes, leNat, Nat.mod_one]
  | succ n ih =>
    rw [leBytes_succ, leNat, ih, Nat.mul_add, Nat.pow_add, BitVec.toNat_ofNat]
    rw [show (2 ^ (8 * n) * 2 ^ (8 * 1) : Nat) = 256 * 2 ^ (8 * n) from Nat.mul_comm _ _, Nat.mod_mul]

theorem leNat_lt (bs : List Byte) : leNat bs < 2 ^ (8 * bs.length) := by
  induction bs with
  | nil => simp [leNat]
  | cons b r ih =>
    have hb : b.toNat < 256 := b.isLt
    rw [leNat, List.length_cons, Nat.mul_add, Nat.pow_add]
    omega

/-- A field that starts where an appended part starts. -/
theorem field_append (xs ys : List Byte) (n : Nat) : field (xs ++ ys) xs.length n = leNat (ys.take n) := by
  simp [field]

@[simp] theorem Machine.getBytes_length (t : List Host.Cell) (a n : Nat) : (Machine.getBytes t a n).length = n := by
  simp [Machine.getBytes]

/-- A byte outside the bytes written reads as before. -/
theorem Machine.get_putBytes_out (t : List Host.Cell) (a : Nat) (bs : List Byte) (k : Nat) (h : k < a ∨ a + bs.length ≤ k) :
    Tab.get (Machine.putBytes t a bs) k 0 = Tab.get t k 0 := by
  induction bs generalizing t a with
  | nil => rfl
  | cons b r ih =>
    rw [List.length_cons] at h
    rw [Machine.putBytes, ih _ _ (by omega), Tab.get_set_ne _ _ _ _ _ _ (by omega)]

/-- A byte that is written reads back. -/
theorem Machine.get_putBytes_in (t : List Host.Cell) (a : Nat) (bs : List Byte) (i : Nat) (h : i < bs.length) :
    Tab.get (Machine.putBytes t a bs) (a + i) 0 = bs.getD i 0 := by
  induction bs generalizing t a i with
  | nil => exact absurd h (Nat.not_lt_zero i)
  | cons b r ih =>
    rw [Machine.putBytes]
    cases i with
    | zero => rw [Machine.get_putBytes_out _ _ _ _ (Or.inl (by omega))]; simp
    | succ j =>
      rw [show a + (j + 1) = a + 1 + j by omega, ih _ _ _ (by simpa using h)]; simp

/-- What was written reads back. -/
@[simp] theorem Machine.getBytes_putBytes (t : List Host.Cell) (a : Nat) (bs : List Byte) :
    Machine.getBytes (Machine.putBytes t a bs) a bs.length = bs := by
  refine List.ext_getElem (by simp) fun i h _ => ?_
  have hi : i < bs.length := by simpa using h
  simp only [Machine.getBytes, List.getElem_map, List.getElem_range]
  rw [Machine.get_putBytes_in t a bs i hi]
  simp [hi]

/-- Bytes apart from those written read as before. -/
theorem Machine.getBytes_putBytes_apart (t : List Host.Cell) (a : Nat) (bs : List Byte) (b n : Nat) (h : b + n ≤ a ∨ a + bs.length ≤ b) :
    Machine.getBytes (Machine.putBytes t a bs) b n = Machine.getBytes t b n := by
  refine List.map_congr_left fun i hi => Machine.get_putBytes_out t a bs (b + i) ?_
  have := List.mem_range.1 hi
  omega

/-- Writing bytes keeps the canonical form. -/
theorem Machine.wf_putBytes (t : List Host.Cell) (a : Nat) (bs : List Byte) (h : Tab.wf t 0 = true) :
    Tab.wf (Machine.putBytes t a bs) 0 = true := by
  induction bs generalizing t a with
  | nil => exact h
  | cons b r ih => exact ih _ _ (Tab.wf_set _ _ _ _ h)

end Sys2Proof
end

