-- ==== Sys2Proof/Laws/State.lean ====
section
/-! SUPPORT. What the elementary updates of the state leave alone, field by field and reader by reader, and what reads back after
them. -/
namespace Sys2Proof.Machine
open Sys2Proof


/-! ### `Dev.wr` -/

@[simp] theorem Dev.wr_fuses (d : Dev) (f : Field) (v : Nat) : (d.wr f v).fuses = d.fuses := rfl
@[simp] theorem Dev.wr_sys (d : Dev) (f : Field) (v : Nat) : (d.wr f v).sys = d.sys := rfl
@[simp] theorem Dev.wr_cores (d : Dev) (f : Field) (v : Nat) : (d.wr f v).cores = d.cores := rfl
@[simp] theorem Dev.wr_mem (d : Dev) (f : Field) (v : Nat) : (d.wr f v).mem = d.mem := rfl
@[simp] theorem Dev.wr_tier (d : Dev) (f : Field) (v : Nat) : (d.wr f v).tier = d.tier := rfl
@[simp] theorem Dev.wr_rings (d : Dev) (f : Field) (v : Nat) : (d.wr f v).rings = d.rings := rfl
@[simp] theorem Dev.wr_turn (d : Dev) (f : Field) (v : Nat) : (d.wr f v).turn = d.turn := rfl
@[simp] theorem Dev.wr_portA (d : Dev) (f : Field) (v : Nat) : (d.wr f v).portA = d.portA := rfl
@[simp] theorem Dev.wr_portB (d : Dev) (f : Field) (v : Nat) : (d.wr f v).portB = d.portB := rfl
@[simp] theorem Dev.wr_hold (d : Dev) (f : Field) (v : Nat) : (d.wr f v).hold = d.hold := rfl
@[simp] theorem Dev.wr_hit (d : Dev) (f : Field) (v : Nat) : (d.wr f v).hit = d.hit := rfl
@[simp] theorem Dev.wr_links (d : Dev) (f : Field) (v : Nat) : (d.wr f v).links = d.links := rfl
@[simp] theorem Dev.wr_cxe (d : Dev) (f : Field) (v : Nat) : (d.wr f v).cxe = d.cxe := rfl
@[simp] theorem Dev.wr_twin (d : Dev) (f : Field) (v : Nat) : (d.wr f v).twin = d.twin := rfl
@[simp] theorem Dev.wr_svc (d : Dev) (f : Field) (v : Nat) : (d.wr f v).svc = d.svc := rfl
@[simp] theorem Dev.wr_recd (d : Dev) (f : Field) (v : Nat) : (d.wr f v).recd = d.recd := rfl
@[simp] theorem Dev.wr_env (d : Dev) (f : Field) (v : Nat) : (d.wr f v).env = d.env := rfl
@[simp] theorem Dev.wr_runDone (d : Dev) (f : Field) (v : Nat) : (d.wr f v).runDone = d.runDone := rfl
@[simp] theorem Dev.wr_acks (d : Dev) (f : Field) (v : Nat) : (d.wr f v).acks = d.acks := rfl
@[simp] theorem Dev.wr_nextOrd (d : Dev) (f : Field) (v : Nat) : (d.wr f v).nextOrd = d.nextOrd := rfl
@[simp] theorem Dev.wr_free (d : Dev) (f : Field) (v : Nat) : (d.wr f v).free = d.free := rfl
@[simp] theorem Dev.wr_core (d : Dev) (f : Field) (v : Nat) (m : Nat) : (d.wr f v).core m = d.core m := rfl
@[simp] theorem Dev.wr_ring (d : Dev) (f : Field) (v : Nat) (q : Nat) : (d.wr f v).ring q = d.ring q := rfl
@[simp] theorem Dev.wr_port (d : Dev) (f : Field) (v : Nat) (q : PciePort) : (d.wr f v).port q = d.port q := rfl
@[simp] theorem Dev.wr_link (d : Dev) (f : Field) (v : Nat) (q : Nat) : (d.wr f v).link q = d.link q := rfl
@[simp] theorem Dev.wr_peek (d : Dev) (f : Field) (v : Nat) (y k : Nat) : (d.wr f v).peek y k = d.peek y k := rfl
@[simp] theorem Dev.wr_hostMem (d : Dev) (f : Field) (v : Nat) (q : PciePort) : (d.wr f v).hostMem q = d.hostMem q := rfl
@[simp] theorem Dev.wr_calItem (d : Dev) (f : Field) (v : Nat) (k : Nat) : (d.wr f v).calItem k = d.calItem k := rfl

/-! ### `Dev.setCore` -/

@[simp] theorem Dev.setCore_regs (d : Dev) (n : Nat) (c : Core) : (d.setCore n c).regs = d.regs := rfl
@[simp] theorem Dev.setCore_fuses (d : Dev) (n : Nat) (c : Core) : (d.setCore n c).fuses = d.fuses := rfl
@[simp] theorem Dev.setCore_sys (d : Dev) (n : Nat) (c : Core) : (d.setCore n c).sys = d.sys := rfl
@[simp] theorem Dev.setCore_mem (d : Dev) (n : Nat) (c : Core) : (d.setCore n c).mem = d.mem := rfl
@[simp] theorem Dev.setCore_tier (d : Dev) (n : Nat) (c : Core) : (d.setCore n c).tier = d.tier := rfl
@[simp] theorem Dev.setCore_rings (d : Dev) (n : Nat) (c : Core) : (d.setCore n c).rings = d.rings := rfl
@[simp] theorem Dev.setCore_turn (d : Dev) (n : Nat) (c : Core) : (d.setCore n c).turn = d.turn := rfl
@[simp] theorem Dev.setCore_portA (d : Dev) (n : Nat) (c : Core) : (d.setCore n c).portA = d.portA := rfl
@[simp] theorem Dev.setCore_portB (d : Dev) (n : Nat) (c : Core) : (d.setCore n c).portB = d.portB := rfl
@[simp] theorem Dev.setCore_hold (d : Dev) (n : Nat) (c : Core) : (d.setCore n c).hold = d.hold := rfl
@[simp] theorem Dev.setCore_hit (d : Dev) (n : Nat) (c : Core) : (d.setCore n c).hit = d.hit := rfl
@[simp] theorem Dev.setCore_links (d : Dev) (n : Nat) (c : Core) : (d.setCore n c).links = d.links := rfl
@[simp] theorem Dev.setCore_cxe (d : Dev) (n : Nat) (c : Core) : (d.setCore n c).cxe = d.cxe := rfl
@[simp] theorem Dev.setCore_twin (d : Dev) (n : Nat) (c : Core) : (d.setCore n c).twin = d.twin := rfl
@[simp] theorem Dev.setCore_svc (d : Dev) (n : Nat) (c : Core) : (d.setCore n c).svc = d.svc := rfl
@[simp] theorem Dev.setCore_recd (d : Dev) (n : Nat) (c : Core) : (d.setCore n c).recd = d.recd := rfl
@[simp] theorem Dev.setCore_env (d : Dev) (n : Nat) (c : Core) : (d.setCore n c).env = d.env := rfl
@[simp] theorem Dev.setCore_runDone (d : Dev) (n : Nat) (c : Core) : (d.setCore n c).runDone = d.runDone := rfl
@[simp] theorem Dev.setCore_acks (d : Dev) (n : Nat) (c : Core) : (d.setCore n c).acks = d.acks := rfl
@[simp] theorem Dev.setCore_nextOrd (d : Dev) (n : Nat) (c : Core) : (d.setCore n c).nextOrd = d.nextOrd := rfl
@[simp] theorem Dev.setCore_free (d : Dev) (n : Nat) (c : Core) : (d.setCore n c).free = d.free := rfl
@[simp] theorem Dev.setCore_rd (d : Dev) (n : Nat) (c : Core) (h : Field) : (d.setCore n c).rd h = d.rd h := rfl
@[simp] theorem Dev.setCore_ring (d : Dev) (n : Nat) (c : Core) (q : Nat) : (d.setCore n c).ring q = d.ring q := rfl
@[simp] theorem Dev.setCore_port (d : Dev) (n : Nat) (c : Core) (q : PciePort) : (d.setCore n c).port q = d.port q := rfl
@[simp] theorem Dev.setCore_link (d : Dev) (n : Nat) (c : Core) (q : Nat) : (d.setCore n c).link q = d.link q := rfl
@[simp] theorem Dev.setCore_peek (d : Dev) (n : Nat) (c : Core) (y k : Nat) : (d.setCore n c).peek y k = d.peek y k := rfl
@[simp] theorem Dev.setCore_hostMem (d : Dev) (n : Nat) (c : Core) (q : PciePort) : (d.setCore n c).hostMem q = d.hostMem q := rfl
@[simp] theorem Dev.setCore_calItem (d : Dev) (n : Nat) (c : Core) (k : Nat) : (d.setCore n c).calItem k = d.calItem k := rfl

/-! ### `Dev.setRing` -/

@[simp] theorem Dev.setRing_regs (d : Dev) (r : Nat) (x : Ring) : (d.setRing r x).regs = d.regs := rfl
@[simp] theorem Dev.setRing_fuses (d : Dev) (r : Nat) (x : Ring) : (d.setRing r x).fuses = d.fuses := rfl
@[simp] theorem Dev.setRing_sys (d : Dev) (r : Nat) (x : Ring) : (d.setRing r x).sys = d.sys := rfl
@[simp] theorem Dev.setRing_cores (d : Dev) (r : Nat) (x : Ring) : (d.setRing r x).cores = d.cores := rfl
@[simp] theorem Dev.setRing_mem (d : Dev) (r : Nat) (x : Ring) : (d.setRing r x).mem = d.mem := rfl
@[simp] theorem Dev.setRing_tier (d : Dev) (r : Nat) (x : Ring) : (d.setRing r x).tier = d.tier := rfl
@[simp] theorem Dev.setRing_turn (d : Dev) (r : Nat) (x : Ring) : (d.setRing r x).turn = d.turn := rfl
@[simp] theorem Dev.setRing_portA (d : Dev) (r : Nat) (x : Ring) : (d.setRing r x).portA = d.portA := rfl
@[simp] theorem Dev.setRing_portB (d : Dev) (r : Nat) (x : Ring) : (d.setRing r x).portB = d.portB := rfl
@[simp] theorem Dev.setRing_hold (d : Dev) (r : Nat) (x : Ring) : (d.setRing r x).hold = d.hold := rfl
@[simp] theorem Dev.setRing_hit (d : Dev) (r : Nat) (x : Ring) : (d.setRing r x).hit = d.hit := rfl
@[simp] theorem Dev.setRing_links (d : Dev) (r : Nat) (x : Ring) : (d.setRing r x).links = d.links := rfl
@[simp] theorem Dev.setRing_cxe (d : Dev) (r : Nat) (x : Ring) : (d.setRing r x).cxe = d.cxe := rfl
@[simp] theorem Dev.setRing_twin (d : Dev) (r : Nat) (x : Ring) : (d.setRing r x).twin = d.twin := rfl
@[simp] theorem Dev.setRing_svc (d : Dev) (r : Nat) (x : Ring) : (d.setRing r x).svc = d.svc := rfl
@[simp] theorem Dev.setRing_recd (d : Dev) (r : Nat) (x : Ring) : (d.setRing r x).recd = d.recd := rfl
@[simp] theorem Dev.setRing_env (d : Dev) (r : Nat) (x : Ring) : (d.setRing r x).env = d.env := rfl
@[simp] theorem Dev.setRing_runDone (d : Dev) (r : Nat) (x : Ring) : (d.setRing r x).runDone = d.runDone := rfl
@[simp] theorem Dev.setRing_acks (d : Dev) (r : Nat) (x : Ring) : (d.setRing r x).acks = d.acks := rfl
@[simp] theorem Dev.setRing_nextOrd (d : Dev) (r : Nat) (x : Ring) : (d.setRing r x).nextOrd = d.nextOrd := rfl
@[simp] theorem Dev.setRing_free (d : Dev) (r : Nat) (x : Ring) : (d.setRing r x).free = d.free := rfl
@[simp] theorem Dev.setRing_rd (d : Dev) (r : Nat) (x : Ring) (h : Field) : (d.setRing r x).rd h = d.rd h := rfl
@[simp] theorem Dev.setRing_core (d : Dev) (r : Nat) (x : Ring) (m : Nat) : (d.setRing r x).core m = d.core m := rfl
@[simp] theorem Dev.setRing_port (d : Dev) (r : Nat) (x : Ring) (q : PciePort) : (d.setRing r x).port q = d.port q := rfl
@[simp] theorem Dev.setRing_link (d : Dev) (r : Nat) (x : Ring) (q : Nat) : (d.setRing r x).link q = d.link q := rfl
@[simp] theorem Dev.setRing_peek (d : Dev) (r : Nat) (x : Ring) (y k : Nat) : (d.setRing r x).peek y k = d.peek y k := rfl
@[simp] theorem Dev.setRing_hostMem (d : Dev) (r : Nat) (x : Ring) (q : PciePort) : (d.setRing r x).hostMem q = d.hostMem q := rfl
@[simp] theorem Dev.setRing_calItem (d : Dev) (r : Nat) (x : Ring) (k : Nat) : (d.setRing r x).calItem k = d.calItem k := rfl

/-! ### `Dev.setPort` -/

@[simp] theorem Dev.setPort_regs (d : Dev) (p : PciePort) (x : Port) : (d.setPort p x).regs = d.regs := by cases p <;> rfl
@[simp] theorem Dev.setPort_fuses (d : Dev) (p : PciePort) (x : Port) : (d.setPort p x).fuses = d.fuses := by cases p <;> rfl
@[simp] theorem Dev.setPort_sys (d : Dev) (p : PciePort) (x : Port) : (d.setPort p x).sys = d.sys := by cases p <;> rfl
@[simp] theorem Dev.setPort_cores (d : Dev) (p : PciePort) (x : Port) : (d.setPort p x).cores = d.cores := by cases p <;> rfl
@[simp] theorem Dev.setPort_mem (d : Dev) (p : PciePort) (x : Port) : (d.setPort p x).mem = d.mem := by cases p <;> rfl
@[simp] theorem Dev.setPort_tier (d : Dev) (p : PciePort) (x : Port) : (d.setPort p x).tier = d.tier := by cases p <;> rfl
@[simp] theorem Dev.setPort_rings (d : Dev) (p : PciePort) (x : Port) : (d.setPort p x).rings = d.rings := by cases p <;> rfl
@[simp] theorem Dev.setPort_turn (d : Dev) (p : PciePort) (x : Port) : (d.setPort p x).turn = d.turn := by cases p <;> rfl
@[simp] theorem Dev.setPort_hold (d : Dev) (p : PciePort) (x : Port) : (d.setPort p x).hold = d.hold := by cases p <;> rfl
@[simp] theorem Dev.setPort_hit (d : Dev) (p : PciePort) (x : Port) : (d.setPort p x).hit = d.hit := by cases p <;> rfl
@[simp] theorem Dev.setPort_links (d : Dev) (p : PciePort) (x : Port) : (d.setPort p x).links = d.links := by cases p <;> rfl
@[simp] theorem Dev.setPort_cxe (d : Dev) (p : PciePort) (x : Port) : (d.setPort p x).cxe = d.cxe := by cases p <;> rfl
@[simp] theorem Dev.setPort_twin (d : Dev) (p : PciePort) (x : Port) : (d.setPort p x).twin = d.twin := by cases p <;> rfl
@[simp] theorem Dev.setPort_svc (d : Dev) (p : PciePort) (x : Port) : (d.setPort p x).svc = d.svc := by cases p <;> rfl
@[simp] theorem Dev.setPort_recd (d : Dev) (p : PciePort) (x : Port) : (d.setPort p x).recd = d.recd := by cases p <;> rfl
@[simp] theorem Dev.setPort_env (d : Dev) (p : PciePort) (x : Port) : (d.setPort p x).env = d.env := by cases p <;> rfl
@[simp] theorem Dev.setPort_runDone (d : Dev) (p : PciePort) (x : Port) : (d.setPort p x).runDone = d.runDone := by cases p <;> rfl
@[simp] theorem Dev.setPort_acks (d : Dev) (p : PciePort) (x : Port) : (d.setPort p x).acks = d.acks := by cases p <;> rfl
@[simp] theorem Dev.setPort_nextOrd (d : Dev) (p : PciePort) (x : Port) : (d.setPort p x).nextOrd = d.nextOrd := by cases p <;> rfl
@[simp] theorem Dev.setPort_free (d : Dev) (p : PciePort) (x : Port) : (d.setPort p x).free = d.free := by cases p <;> rfl
@[simp] theorem Dev.setPort_rd (d : Dev) (p : PciePort) (x : Port) (h : Field) : (d.setPort p x).rd h = d.rd h := by cases p <;> rfl
@[simp] theorem Dev.setPort_core (d : Dev) (p : PciePort) (x : Port) (m : Nat) : (d.setPort p x).core m = d.core m := by cases p <;> rfl
@[simp] theorem Dev.setPort_ring (d : Dev) (p : PciePort) (x : Port) (q : Nat) : (d.setPort p x).ring q = d.ring q := by cases p <;> rfl
@[simp] theorem Dev.setPort_link (d : Dev) (p : PciePort) (x : Port) (q : Nat) : (d.setPort p x).link q = d.link q := by cases p <;> rfl
@[simp] theorem Dev.setPort_peek (d : Dev) (p : PciePort) (x : Port) (y k : Nat) : (d.setPort p x).peek y k = d.peek y k :=
    by cases p <;> rfl
@[simp] theorem Dev.setPort_hostMem (d : Dev) (p : PciePort) (x : Port) (q : PciePort) : (d.setPort p x).hostMem q = d.hostMem q :=
    by cases p <;> rfl
@[simp] theorem Dev.setPort_calItem (d : Dev) (p : PciePort) (x : Port) (k : Nat) : (d.setPort p x).calItem k = d.calItem k :=
    by cases p <;> rfl

/-! ### `Dev.setLink` -/

@[simp] theorem Dev.setLink_regs (d : Dev) (p : Nat) (l : Link) : (d.setLink p l).regs = d.regs := rfl
@[simp] theorem Dev.setLink_fuses (d : Dev) (p : Nat) (l : Link) : (d.setLink p l).fuses = d.fuses := rfl
@[simp] theorem Dev.setLink_sys (d : Dev) (p : Nat) (l : Link) : (d.setLink p l).sys = d.sys := rfl
@[simp] theorem Dev.setLink_cores (d : Dev) (p : Nat) (l : Link) : (d.setLink p l).cores = d.cores := rfl
@[simp] theorem Dev.setLink_mem (d : Dev) (p : Nat) (l : Link) : (d.setLink p l).mem = d.mem := rfl
@[simp] theorem Dev.setLink_tier (d : Dev) (p : Nat) (l : Link) : (d.setLink p l).tier = d.tier := rfl
@[simp] theorem Dev.setLink_rings (d : Dev) (p : Nat) (l : Link) : (d.setLink p l).rings = d.rings := rfl
@[simp] theorem Dev.setLink_turn (d : Dev) (p : Nat) (l : Link) : (d.setLink p l).turn = d.turn := rfl
@[simp] theorem Dev.setLink_portA (d : Dev) (p : Nat) (l : Link) : (d.setLink p l).portA = d.portA := rfl
@[simp] theorem Dev.setLink_portB (d : Dev) (p : Nat) (l : Link) : (d.setLink p l).portB = d.portB := rfl
@[simp] theorem Dev.setLink_hold (d : Dev) (p : Nat) (l : Link) : (d.setLink p l).hold = d.hold := rfl
@[simp] theorem Dev.setLink_hit (d : Dev) (p : Nat) (l : Link) : (d.setLink p l).hit = d.hit := rfl
@[simp] theorem Dev.setLink_cxe (d : Dev) (p : Nat) (l : Link) : (d.setLink p l).cxe = d.cxe := rfl
@[simp] theorem Dev.setLink_twin (d : Dev) (p : Nat) (l : Link) : (d.setLink p l).twin = d.twin := rfl
@[simp] theorem Dev.setLink_svc (d : Dev) (p : Nat) (l : Link) : (d.setLink p l).svc = d.svc := rfl
@[simp] theorem Dev.setLink_recd (d : Dev) (p : Nat) (l : Link) : (d.setLink p l).recd = d.recd := rfl
@[simp] theorem Dev.setLink_env (d : Dev) (p : Nat) (l : Link) : (d.setLink p l).env = d.env := rfl
@[simp] theorem Dev.setLink_runDone (d : Dev) (p : Nat) (l : Link) : (d.setLink p l).runDone = d.runDone := rfl
@[simp] theorem Dev.setLink_acks (d : Dev) (p : Nat) (l : Link) : (d.setLink p l).acks = d.acks := rfl
@[simp] theorem Dev.setLink_nextOrd (d : Dev) (p : Nat) (l : Link) : (d.setLink p l).nextOrd = d.nextOrd := rfl
@[simp] theorem Dev.setLink_free (d : Dev) (p : Nat) (l : Link) : (d.setLink p l).free = d.free := rfl
@[simp] theorem Dev.setLink_rd (d : Dev) (p : Nat) (l : Link) (h : Field) : (d.setLink p l).rd h = d.rd h := rfl
@[simp] theorem Dev.setLink_core (d : Dev) (p : Nat) (l : Link) (m : Nat) : (d.setLink p l).core m = d.core m := rfl
@[simp] theorem Dev.setLink_ring (d : Dev) (p : Nat) (l : Link) (q : Nat) : (d.setLink p l).ring q = d.ring q := rfl
@[simp] theorem Dev.setLink_port (d : Dev) (p : Nat) (l : Link) (q : PciePort) : (d.setLink p l).port q = d.port q := rfl
@[simp] theorem Dev.setLink_peek (d : Dev) (p : Nat) (l : Link) (y k : Nat) : (d.setLink p l).peek y k = d.peek y k := rfl
@[simp] theorem Dev.setLink_hostMem (d : Dev) (p : Nat) (l : Link) (q : PciePort) : (d.setLink p l).hostMem q = d.hostMem q := rfl
@[simp] theorem Dev.setLink_calItem (d : Dev) (p : Nat) (l : Link) (k : Nat) : (d.setLink p l).calItem k = d.calItem k := rfl

/-! ### `Dev.poke` -/

@[simp] theorem Dev.poke_regs (d : Dev) (a : Nat) (bs : List Byte) : (d.poke a bs).regs = d.regs := rfl
@[simp] theorem Dev.poke_fuses (d : Dev) (a : Nat) (bs : List Byte) : (d.poke a bs).fuses = d.fuses := rfl
@[simp] theorem Dev.poke_sys (d : Dev) (a : Nat) (bs : List Byte) : (d.poke a bs).sys = d.sys := rfl
@[simp] theorem Dev.poke_cores (d : Dev) (a : Nat) (bs : List Byte) : (d.poke a bs).cores = d.cores := rfl
@[simp] theorem Dev.poke_tier (d : Dev) (a : Nat) (bs : List Byte) : (d.poke a bs).tier = d.tier := rfl
@[simp] theorem Dev.poke_rings (d : Dev) (a : Nat) (bs : List Byte) : (d.poke a bs).rings = d.rings := rfl
@[simp] theorem Dev.poke_turn (d : Dev) (a : Nat) (bs : List Byte) : (d.poke a bs).turn = d.turn := rfl
@[simp] theorem Dev.poke_portA (d : Dev) (a : Nat) (bs : List Byte) : (d.poke a bs).portA = d.portA := rfl
@[simp] theorem Dev.poke_portB (d : Dev) (a : Nat) (bs : List Byte) : (d.poke a bs).portB = d.portB := rfl
@[simp] theorem Dev.poke_hold (d : Dev) (a : Nat) (bs : List Byte) : (d.poke a bs).hold = d.hold := rfl
@[simp] theorem Dev.poke_hit (d : Dev) (a : Nat) (bs : List Byte) : (d.poke a bs).hit = d.hit := rfl
@[simp] theorem Dev.poke_links (d : Dev) (a : Nat) (bs : List Byte) : (d.poke a bs).links = d.links := rfl
@[simp] theorem Dev.poke_cxe (d : Dev) (a : Nat) (bs : List Byte) : (d.poke a bs).cxe = d.cxe := rfl
@[simp] theorem Dev.poke_twin (d : Dev) (a : Nat) (bs : List Byte) : (d.poke a bs).twin = d.twin := rfl
@[simp] theorem Dev.poke_svc (d : Dev) (a : Nat) (bs : List Byte) : (d.poke a bs).svc = d.svc := rfl
@[simp] theorem Dev.poke_recd (d : Dev) (a : Nat) (bs : List Byte) : (d.poke a bs).recd = d.recd := rfl
@[simp] theorem Dev.poke_env (d : Dev) (a : Nat) (bs : List Byte) : (d.poke a bs).env = d.env := rfl
@[simp] theorem Dev.poke_runDone (d : Dev) (a : Nat) (bs : List Byte) : (d.poke a bs).runDone = d.runDone := rfl
@[simp] theorem Dev.poke_acks (d : Dev) (a : Nat) (bs : List Byte) : (d.poke a bs).acks = d.acks := rfl
@[simp] theorem Dev.poke_nextOrd (d : Dev) (a : Nat) (bs : List Byte) : (d.poke a bs).nextOrd = d.nextOrd := rfl
@[simp] theorem Dev.poke_free (d : Dev) (a : Nat) (bs : List Byte) : (d.poke a bs).free = d.free := rfl
@[simp] theorem Dev.poke_rd (d : Dev) (a : Nat) (bs : List Byte) (h : Field) : (d.poke a bs).rd h = d.rd h := rfl
@[simp] theorem Dev.poke_core (d : Dev) (a : Nat) (bs : List Byte) (m : Nat) : (d.poke a bs).core m = d.core m := rfl
@[simp] theorem Dev.poke_ring (d : Dev) (a : Nat) (bs : List Byte) (q : Nat) : (d.poke a bs).ring q = d.ring q := rfl
@[simp] theorem Dev.poke_port (d : Dev) (a : Nat) (bs : List Byte) (q : PciePort) : (d.poke a bs).port q = d.port q := rfl
@[simp] theorem Dev.poke_link (d : Dev) (a : Nat) (bs : List Byte) (q : Nat) : (d.poke a bs).link q = d.link q := rfl
@[simp] theorem Dev.poke_hostMem (d : Dev) (a : Nat) (bs : List Byte) (q : PciePort) : (d.poke a bs).hostMem q = d.hostMem q := rfl
@[simp] theorem Dev.poke_calItem (d : Dev) (a : Nat) (bs : List Byte) (k : Nat) : (d.poke a bs).calItem k = d.calItem k := rfl

/-! ### `Dev.hostLand` -/

@[simp] theorem Dev.hostLand_regs (d : Dev) (p : PciePort) (a : Nat) (bs : List Byte) : (d.hostLand p a bs).regs = d.regs :=
    by cases p <;> rfl
@[simp] theorem Dev.hostLand_fuses (d : Dev) (p : PciePort) (a : Nat) (bs : List Byte) : (d.hostLand p a bs).fuses = d.fuses :=
    by cases p <;> rfl
@[simp] theorem Dev.hostLand_sys (d : Dev) (p : PciePort) (a : Nat) (bs : List Byte) : (d.hostLand p a bs).sys = d.sys :=
    by cases p <;> rfl
@[simp] theorem Dev.hostLand_cores (d : Dev) (p : PciePort) (a : Nat) (bs : List Byte) : (d.hostLand p a bs).cores = d.cores :=
    by cases p <;> rfl
@[simp] theorem Dev.hostLand_mem (d : Dev) (p : PciePort) (a : Nat) (bs : List Byte) : (d.hostLand p a bs).mem = d.mem :=
    by cases p <;> rfl
@[simp] theorem Dev.hostLand_tier (d : Dev) (p : PciePort) (a : Nat) (bs : List Byte) : (d.hostLand p a bs).tier = d.tier :=
    by cases p <;> rfl
@[simp] theorem Dev.hostLand_rings (d : Dev) (p : PciePort) (a : Nat) (bs : List Byte) : (d.hostLand p a bs).rings = d.rings :=
    by cases p <;> rfl
@[simp] theorem Dev.hostLand_turn (d : Dev) (p : PciePort) (a : Nat) (bs : List Byte) : (d.hostLand p a bs).turn = d.turn :=
    by cases p <;> rfl
@[simp] theorem Dev.hostLand_portA (d : Dev) (p : PciePort) (a : Nat) (bs : List Byte) : (d.hostLand p a bs).portA = d.portA :=
    by cases p <;> rfl
@[simp] theorem Dev.hostLand_portB (d : Dev) (p : PciePort) (a : Nat) (bs : List Byte) : (d.hostLand p a bs).portB = d.portB :=
    by cases p <;> rfl
@[simp] theorem Dev.hostLand_hold (d : Dev) (p : PciePort) (a : Nat) (bs : List Byte) : (d.hostLand p a bs).hold = d.hold :=
    by cases p <;> rfl
@[simp] theorem Dev.hostLand_hit (d : Dev) (p : PciePort) (a : Nat) (bs : List Byte) : (d.hostLand p a bs).hit = d.hit :=
    by cases p <;> rfl
@[simp] theorem Dev.hostLand_links (d : Dev) (p : PciePort) (a : Nat) (bs : List Byte) : (d.hostLand p a bs).links = d.links :=
    by cases p <;> rfl
@[simp] theorem Dev.hostLand_cxe (d : Dev) (p : PciePort) (a : Nat) (bs : List Byte) : (d.hostLand p a bs).cxe = d.cxe :=
    by cases p <;> rfl
@[simp] theorem Dev.hostLand_twin (d : Dev) (p : PciePort) (a : Nat) (bs : List Byte) : (d.hostLand p a bs).twin = d.twin :=
    by cases p <;> rfl
@[simp] theorem Dev.hostLand_svc (d : Dev) (p : PciePort) (a : Nat) (bs : List Byte) : (d.hostLand p a bs).svc = d.svc :=
    by cases p <;> rfl
@[simp] theorem Dev.hostLand_recd (d : Dev) (p : PciePort) (a : Nat) (bs : List Byte) : (d.hostLand p a bs).recd = d.recd :=
    by cases p <;> rfl
@[simp] theorem Dev.hostLand_runDone (d : Dev) (p : PciePort) (a : Nat) (bs : List Byte) : (d.hostLand p a bs).runDone = d.runDone :=
    by cases p <;> rfl
@[simp] theorem Dev.hostLand_acks (d : Dev) (p : PciePort) (a : Nat) (bs : List Byte) : (d.hostLand p a bs).acks = d.acks :=
    by cases p <;> rfl
@[simp] theorem Dev.hostLand_nextOrd (d : Dev) (p : PciePort) (a : Nat) (bs : List Byte) : (d.hostLand p a bs).nextOrd = d.nextOrd :=
    by cases p <;> rfl
@[simp] theorem Dev.hostLand_free (d : Dev) (p : PciePort) (a : Nat) (bs : List Byte) : (d.hostLand p a bs).free = d.free :=
    by cases p <;> rfl
@[simp] theorem Dev.hostLand_rd (d : Dev) (p : PciePort) (a : Nat) (bs : List Byte) (h : Field) : (d.hostLand p a bs).rd h = d.rd h :=
    by cases p <;> rfl
@[simp] theorem Dev.hostLand_core (d : Dev) (p : PciePort) (a : Nat) (bs : List Byte) (m : Nat) : (d.hostLand p a bs).core m = d.core m :=
    by cases p <;> rfl
@[simp] theorem Dev.hostLand_ring (d : Dev) (p : PciePort) (a : Nat) (bs : List Byte) (q : Nat) : (d.hostLand p a bs).ring q = d.ring q :=
    by cases p <;> rfl
@[simp] theorem Dev.hostLand_port (d : Dev) (p : PciePort) (a : Nat) (bs : List Byte) (q : PciePort) :
    (d.hostLand p a bs).port q = d.port q := by cases p <;> rfl
@[simp] theorem Dev.hostLand_link (d : Dev) (p : PciePort) (a : Nat) (bs : List Byte) (q : Nat) : (d.hostLand p a bs).link q = d.link q :=
    by cases p <;> rfl
@[simp] theorem Dev.hostLand_peek (d : Dev) (p : PciePort) (a : Nat) (bs : List Byte) (y k : Nat) :
    (d.hostLand p a bs).peek y k = d.peek y k := by cases p <;> rfl
@[simp] theorem Dev.hostLand_calItem (d : Dev) (p : PciePort) (a : Nat) (bs : List Byte) (k : Nat) :
    (d.hostLand p a bs).calItem k = d.calItem k := by cases p <;> rfl

/-! ### `Dev.keepPut` -/

@[simp] theorem Dev.keepPut_regs (d : Dev) (b : Nat) (bs : List Byte) : (d.keepPut b bs).regs = d.regs := rfl
@[simp] theorem Dev.keepPut_fuses (d : Dev) (b : Nat) (bs : List Byte) : (d.keepPut b bs).fuses = d.fuses := rfl
@[simp] theorem Dev.keepPut_sys (d : Dev) (b : Nat) (bs : List Byte) : (d.keepPut b bs).sys = d.sys := rfl
@[simp] theorem Dev.keepPut_cores (d : Dev) (b : Nat) (bs : List Byte) : (d.keepPut b bs).cores = d.cores := rfl
@[simp] theorem Dev.keepPut_tier (d : Dev) (b : Nat) (bs : List Byte) : (d.keepPut b bs).tier = d.tier := rfl
@[simp] theorem Dev.keepPut_rings (d : Dev) (b : Nat) (bs : List Byte) : (d.keepPut b bs).rings = d.rings := rfl
@[simp] theorem Dev.keepPut_turn (d : Dev) (b : Nat) (bs : List Byte) : (d.keepPut b bs).turn = d.turn := rfl
@[simp] theorem Dev.keepPut_portA (d : Dev) (b : Nat) (bs : List Byte) : (d.keepPut b bs).portA = d.portA := rfl
@[simp] theorem Dev.keepPut_portB (d : Dev) (b : Nat) (bs : List Byte) : (d.keepPut b bs).portB = d.portB := rfl
@[simp] theorem Dev.keepPut_hold (d : Dev) (b : Nat) (bs : List Byte) : (d.keepPut b bs).hold = d.hold := rfl
@[simp] theorem Dev.keepPut_hit (d : Dev) (b : Nat) (bs : List Byte) : (d.keepPut b bs).hit = d.hit := rfl
@[simp] theorem Dev.keepPut_links (d : Dev) (b : Nat) (bs : List Byte) : (d.keepPut b bs).links = d.links := rfl
@[simp] theorem Dev.keepPut_cxe (d : Dev) (b : Nat) (bs : List Byte) : (d.keepPut b bs).cxe = d.cxe := rfl
@[simp] theorem Dev.keepPut_twin (d : Dev) (b : Nat) (bs : List Byte) : (d.keepPut b bs).twin = d.twin := rfl
@[simp] theorem Dev.keepPut_svc (d : Dev) (b : Nat) (bs : List Byte) : (d.keepPut b bs).svc = d.svc := rfl
@[simp] theorem Dev.keepPut_recd (d : Dev) (b : Nat) (bs : List Byte) : (d.keepPut b bs).recd = d.recd := rfl
@[simp] theorem Dev.keepPut_env (d : Dev) (b : Nat) (bs : List Byte) : (d.keepPut b bs).env = d.env := rfl
@[simp] theorem Dev.keepPut_runDone (d : Dev) (b : Nat) (bs : List Byte) : (d.keepPut b bs).runDone = d.runDone := rfl
@[simp] theorem Dev.keepPut_acks (d : Dev) (b : Nat) (bs : List Byte) : (d.keepPut b bs).acks = d.acks := rfl
@[simp] theorem Dev.keepPut_nextOrd (d : Dev) (b : Nat) (bs : List Byte) : (d.keepPut b bs).nextOrd = d.nextOrd := rfl
@[simp] theorem Dev.keepPut_free (d : Dev) (b : Nat) (bs : List Byte) : (d.keepPut b bs).free = d.free := rfl
@[simp] theorem Dev.keepPut_rd (d : Dev) (b : Nat) (bs : List Byte) (h : Field) : (d.keepPut b bs).rd h = d.rd h := rfl
@[simp] theorem Dev.keepPut_core (d : Dev) (b : Nat) (bs : List Byte) (m : Nat) : (d.keepPut b bs).core m = d.core m := rfl
@[simp] theorem Dev.keepPut_ring (d : Dev) (b : Nat) (bs : List Byte) (q : Nat) : (d.keepPut b bs).ring q = d.ring q := rfl
@[simp] theorem Dev.keepPut_port (d : Dev) (b : Nat) (bs : List Byte) (q : PciePort) : (d.keepPut b bs).port q = d.port q := rfl
@[simp] theorem Dev.keepPut_link (d : Dev) (b : Nat) (bs : List Byte) (q : Nat) : (d.keepPut b bs).link q = d.link q := rfl
@[simp] theorem Dev.keepPut_peek (d : Dev) (b : Nat) (bs : List Byte) (y k : Nat) : (d.keepPut b bs).peek y k = d.peek y k := rfl
@[simp] theorem Dev.keepPut_hostMem (d : Dev) (b : Nat) (bs : List Byte) (q : PciePort) : (d.keepPut b bs).hostMem q = d.hostMem q := rfl
@[simp] theorem Dev.keepPut_calItem (d : Dev) (b : Nat) (bs : List Byte) (k : Nat) : (d.keepPut b bs).calItem k = d.calItem k := rfl

/-! ### `Dev.setCal` -/

@[simp] theorem Dev.setCal_regs (d : Dev) (i : Nat) (c : CalItem) : (d.setCal i c).regs = d.regs := rfl
@[simp] theorem Dev.setCal_fuses (d : Dev) (i : Nat) (c : CalItem) : (d.setCal i c).fuses = d.fuses := rfl
@[simp] theorem Dev.setCal_sys (d : Dev) (i : Nat) (c : CalItem) : (d.setCal i c).sys = d.sys := rfl
@[simp] theorem Dev.setCal_cores (d : Dev) (i : Nat) (c : CalItem) : (d.setCal i c).cores = d.cores := rfl
@[simp] theorem Dev.setCal_mem (d : Dev) (i : Nat) (c : CalItem) : (d.setCal i c).mem = d.mem := rfl
@[simp] theorem Dev.setCal_tier (d : Dev) (i : Nat) (c : CalItem) : (d.setCal i c).tier = d.tier := rfl
@[simp] theorem Dev.setCal_rings (d : Dev) (i : Nat) (c : CalItem) : (d.setCal i c).rings = d.rings := rfl
@[simp] theorem Dev.setCal_turn (d : Dev) (i : Nat) (c : CalItem) : (d.setCal i c).turn = d.turn := rfl
@[simp] theorem Dev.setCal_portA (d : Dev) (i : Nat) (c : CalItem) : (d.setCal i c).portA = d.portA := rfl
@[simp] theorem Dev.setCal_portB (d : Dev) (i : Nat) (c : CalItem) : (d.setCal i c).portB = d.portB := rfl
@[simp] theorem Dev.setCal_hold (d : Dev) (i : Nat) (c : CalItem) : (d.setCal i c).hold = d.hold := rfl
@[simp] theorem Dev.setCal_hit (d : Dev) (i : Nat) (c : CalItem) : (d.setCal i c).hit = d.hit := rfl
@[simp] theorem Dev.setCal_links (d : Dev) (i : Nat) (c : CalItem) : (d.setCal i c).links = d.links := rfl
@[simp] theorem Dev.setCal_cxe (d : Dev) (i : Nat) (c : CalItem) : (d.setCal i c).cxe = d.cxe := rfl
@[simp] theorem Dev.setCal_twin (d : Dev) (i : Nat) (c : CalItem) : (d.setCal i c).twin = d.twin := rfl
@[simp] theorem Dev.setCal_recd (d : Dev) (i : Nat) (c : CalItem) : (d.setCal i c).recd = d.recd := rfl
@[simp] theorem Dev.setCal_env (d : Dev) (i : Nat) (c : CalItem) : (d.setCal i c).env = d.env := rfl
@[simp] theorem Dev.setCal_runDone (d : Dev) (i : Nat) (c : CalItem) : (d.setCal i c).runDone = d.runDone := rfl
@[simp] theorem Dev.setCal_acks (d : Dev) (i : Nat) (c : CalItem) : (d.setCal i c).acks = d.acks := rfl
@[simp] theorem Dev.setCal_nextOrd (d : Dev) (i : Nat) (c : CalItem) : (d.setCal i c).nextOrd = d.nextOrd := rfl
@[simp] theorem Dev.setCal_free (d : Dev) (i : Nat) (c : CalItem) : (d.setCal i c).free = d.free := rfl
@[simp] theorem Dev.setCal_rd (d : Dev) (i : Nat) (c : CalItem) (h : Field) : (d.setCal i c).rd h = d.rd h := rfl
@[simp] theorem Dev.setCal_core (d : Dev) (i : Nat) (c : CalItem) (m : Nat) : (d.setCal i c).core m = d.core m := rfl
@[simp] theorem Dev.setCal_ring (d : Dev) (i : Nat) (c : CalItem) (q : Nat) : (d.setCal i c).ring q = d.ring q := rfl
@[simp] theorem Dev.setCal_port (d : Dev) (i : Nat) (c : CalItem) (q : PciePort) : (d.setCal i c).port q = d.port q := rfl
@[simp] theorem Dev.setCal_link (d : Dev) (i : Nat) (c : CalItem) (q : Nat) : (d.setCal i c).link q = d.link q := rfl
@[simp] theorem Dev.setCal_peek (d : Dev) (i : Nat) (c : CalItem) (y k : Nat) : (d.setCal i c).peek y k = d.peek y k := rfl
@[simp] theorem Dev.setCal_hostMem (d : Dev) (i : Nat) (c : CalItem) (q : PciePort) : (d.setCal i c).hostMem q = d.hostMem q := rfl

/-! ### `Dev.mapCxe` -/

@[simp] theorem Dev.mapCxe_regs (d : Dev) (g : Cxe → Cxe) : (d.mapCxe g).regs = d.regs := rfl
@[simp] theorem Dev.mapCxe_fuses (d : Dev) (g : Cxe → Cxe) : (d.mapCxe g).fuses = d.fuses := rfl
@[simp] theorem Dev.mapCxe_sys (d : Dev) (g : Cxe → Cxe) : (d.mapCxe g).sys = d.sys := rfl
@[simp] theorem Dev.mapCxe_cores (d : Dev) (g : Cxe → Cxe) : (d.mapCxe g).cores = d.cores := rfl
@[simp] theorem Dev.mapCxe_mem (d : Dev) (g : Cxe → Cxe) : (d.mapCxe g).mem = d.mem := rfl
@[simp] theorem Dev.mapCxe_tier (d : Dev) (g : Cxe → Cxe) : (d.mapCxe g).tier = d.tier := rfl
@[simp] theorem Dev.mapCxe_rings (d : Dev) (g : Cxe → Cxe) : (d.mapCxe g).rings = d.rings := rfl
@[simp] theorem Dev.mapCxe_turn (d : Dev) (g : Cxe → Cxe) : (d.mapCxe g).turn = d.turn := rfl
@[simp] theorem Dev.mapCxe_portA (d : Dev) (g : Cxe → Cxe) : (d.mapCxe g).portA = d.portA := rfl
@[simp] theorem Dev.mapCxe_portB (d : Dev) (g : Cxe → Cxe) : (d.mapCxe g).portB = d.portB := rfl
@[simp] theorem Dev.mapCxe_hold (d : Dev) (g : Cxe → Cxe) : (d.mapCxe g).hold = d.hold := rfl
@[simp] theorem Dev.mapCxe_hit (d : Dev) (g : Cxe → Cxe) : (d.mapCxe g).hit = d.hit := rfl
@[simp] theorem Dev.mapCxe_links (d : Dev) (g : Cxe → Cxe) : (d.mapCxe g).links = d.links := rfl
@[simp] theorem Dev.mapCxe_twin (d : Dev) (g : Cxe → Cxe) : (d.mapCxe g).twin = d.twin := rfl
@[simp] theorem Dev.mapCxe_svc (d : Dev) (g : Cxe → Cxe) : (d.mapCxe g).svc = d.svc := rfl
@[simp] theorem Dev.mapCxe_recd (d : Dev) (g : Cxe → Cxe) : (d.mapCxe g).recd = d.recd := rfl
@[simp] theorem Dev.mapCxe_env (d : Dev) (g : Cxe → Cxe) : (d.mapCxe g).env = d.env := rfl
@[simp] theorem Dev.mapCxe_runDone (d : Dev) (g : Cxe → Cxe) : (d.mapCxe g).runDone = d.runDone := rfl
@[simp] theorem Dev.mapCxe_acks (d : Dev) (g : Cxe → Cxe) : (d.mapCxe g).acks = d.acks := rfl
@[simp] theorem Dev.mapCxe_nextOrd (d : Dev) (g : Cxe → Cxe) : (d.mapCxe g).nextOrd = d.nextOrd := rfl
@[simp] theorem Dev.mapCxe_free (d : Dev) (g : Cxe → Cxe) : (d.mapCxe g).free = d.free := rfl
@[simp] theorem Dev.mapCxe_rd (d : Dev) (g : Cxe → Cxe) (h : Field) : (d.mapCxe g).rd h = d.rd h := rfl
@[simp] theorem Dev.mapCxe_core (d : Dev) (g : Cxe → Cxe) (m : Nat) : (d.mapCxe g).core m = d.core m := rfl
@[simp] theorem Dev.mapCxe_ring (d : Dev) (g : Cxe → Cxe) (q : Nat) : (d.mapCxe g).ring q = d.ring q := rfl
@[simp] theorem Dev.mapCxe_port (d : Dev) (g : Cxe → Cxe) (q : PciePort) : (d.mapCxe g).port q = d.port q := rfl
@[simp] theorem Dev.mapCxe_link (d : Dev) (g : Cxe → Cxe) (q : Nat) : (d.mapCxe g).link q = d.link q := rfl
@[simp] theorem Dev.mapCxe_peek (d : Dev) (g : Cxe → Cxe) (y k : Nat) : (d.mapCxe g).peek y k = d.peek y k := rfl
@[simp] theorem Dev.mapCxe_hostMem (d : Dev) (g : Cxe → Cxe) (q : PciePort) : (d.mapCxe g).hostMem q = d.hostMem q := rfl
@[simp] theorem Dev.mapCxe_calItem (d : Dev) (g : Cxe → Cxe) (k : Nat) : (d.mapCxe g).calItem k = d.calItem k := rfl

/-! ### `Dev.mapTier` -/

@[simp] theorem Dev.mapTier_regs (d : Dev) (g : Tier → Tier) : (d.mapTier g).regs = d.regs := rfl
@[simp] theorem Dev.mapTier_fuses (d : Dev) (g : Tier → Tier) : (d.mapTier g).fuses = d.fuses := rfl
@[simp] theorem Dev.mapTier_sys (d : Dev) (g : Tier → Tier) : (d.mapTier g).sys = d.sys := rfl
@[simp] theorem Dev.mapTier_cores (d : Dev) (g : Tier → Tier) : (d.mapTier g).cores = d.cores := rfl
@[simp] theorem Dev.mapTier_mem (d : Dev) (g : Tier → Tier) : (d.mapTier g).mem = d.mem := rfl
@[simp] theorem Dev.mapTier_rings (d : Dev) (g : Tier → Tier) : (d.mapTier g).rings = d.rings := rfl
@[simp] theorem Dev.mapTier_turn (d : Dev) (g : Tier → Tier) : (d.mapTier g).turn = d.turn := rfl
@[simp] theorem Dev.mapTier_portA (d : Dev) (g : Tier → Tier) : (d.mapTier g).portA = d.portA := rfl
@[simp] theorem Dev.mapTier_portB (d : Dev) (g : Tier → Tier) : (d.mapTier g).portB = d.portB := rfl
@[simp] theorem Dev.mapTier_hold (d : Dev) (g : Tier → Tier) : (d.mapTier g).hold = d.hold := rfl
@[simp] theorem Dev.mapTier_hit (d : Dev) (g : Tier → Tier) : (d.mapTier g).hit = d.hit := rfl
@[simp] theorem Dev.mapTier_links (d : Dev) (g : Tier → Tier) : (d.mapTier g).links = d.links := rfl
@[simp] theorem Dev.mapTier_cxe (d : Dev) (g : Tier → Tier) : (d.mapTier g).cxe = d.cxe := rfl
@[simp] theorem Dev.mapTier_twin (d : Dev) (g : Tier → Tier) : (d.mapTier g).twin = d.twin := rfl
@[simp] theorem Dev.mapTier_svc (d : Dev) (g : Tier → Tier) : (d.mapTier g).svc = d.svc := rfl
@[simp] theorem Dev.mapTier_recd (d : Dev) (g : Tier → Tier) : (d.mapTier g).recd = d.recd := rfl
@[simp] theorem Dev.mapTier_env (d : Dev) (g : Tier → Tier) : (d.mapTier g).env = d.env := rfl
@[simp] theorem Dev.mapTier_runDone (d : Dev) (g : Tier → Tier) : (d.mapTier g).runDone = d.runDone := rfl
@[simp] theorem Dev.mapTier_acks (d : Dev) (g : Tier → Tier) : (d.mapTier g).acks = d.acks := rfl
@[simp] theorem Dev.mapTier_nextOrd (d : Dev) (g : Tier → Tier) : (d.mapTier g).nextOrd = d.nextOrd := rfl
@[simp] theorem Dev.mapTier_free (d : Dev) (g : Tier → Tier) : (d.mapTier g).free = d.free := rfl
@[simp] theorem Dev.mapTier_rd (d : Dev) (g : Tier → Tier) (h : Field) : (d.mapTier g).rd h = d.rd h := rfl
@[simp] theorem Dev.mapTier_core (d : Dev) (g : Tier → Tier) (m : Nat) : (d.mapTier g).core m = d.core m := rfl
@[simp] theorem Dev.mapTier_ring (d : Dev) (g : Tier → Tier) (q : Nat) : (d.mapTier g).ring q = d.ring q := rfl
@[simp] theorem Dev.mapTier_port (d : Dev) (g : Tier → Tier) (q : PciePort) : (d.mapTier g).port q = d.port q := rfl
@[simp] theorem Dev.mapTier_link (d : Dev) (g : Tier → Tier) (q : Nat) : (d.mapTier g).link q = d.link q := rfl
@[simp] theorem Dev.mapTier_peek (d : Dev) (g : Tier → Tier) (y k : Nat) : (d.mapTier g).peek y k = d.peek y k := rfl
@[simp] theorem Dev.mapTier_hostMem (d : Dev) (g : Tier → Tier) (q : PciePort) : (d.mapTier g).hostMem q = d.hostMem q := rfl
@[simp] theorem Dev.mapTier_calItem (d : Dev) (g : Tier → Tier) (k : Nat) : (d.mapTier g).calItem k = d.calItem k := rfl

/-! ### `Dev.mapTwin` -/

@[simp] theorem Dev.mapTwin_regs (d : Dev) (g : Twin → Twin) : (d.mapTwin g).regs = d.regs := rfl
@[simp] theorem Dev.mapTwin_fuses (d : Dev) (g : Twin → Twin) : (d.mapTwin g).fuses = d.fuses := rfl
@[simp] theorem Dev.mapTwin_sys (d : Dev) (g : Twin → Twin) : (d.mapTwin g).sys = d.sys := rfl
@[simp] theorem Dev.mapTwin_cores (d : Dev) (g : Twin → Twin) : (d.mapTwin g).cores = d.cores := rfl
@[simp] theorem Dev.mapTwin_mem (d : Dev) (g : Twin → Twin) : (d.mapTwin g).mem = d.mem := rfl
@[simp] theorem Dev.mapTwin_tier (d : Dev) (g : Twin → Twin) : (d.mapTwin g).tier = d.tier := rfl
@[simp] theorem Dev.mapTwin_rings (d : Dev) (g : Twin → Twin) : (d.mapTwin g).rings = d.rings := rfl
@[simp] theorem Dev.mapTwin_turn (d : Dev) (g : Twin → Twin) : (d.mapTwin g).turn = d.turn := rfl
@[simp] theorem Dev.mapTwin_portA (d : Dev) (g : Twin → Twin) : (d.mapTwin g).portA = d.portA := rfl
@[simp] theorem Dev.mapTwin_portB (d : Dev) (g : Twin → Twin) : (d.mapTwin g).portB = d.portB := rfl
@[simp] theorem Dev.mapTwin_hold (d : Dev) (g : Twin → Twin) : (d.mapTwin g).hold = d.hold := rfl
@[simp] theorem Dev.mapTwin_hit (d : Dev) (g : Twin → Twin) : (d.mapTwin g).hit = d.hit := rfl
@[simp] theorem Dev.mapTwin_links (d : Dev) (g : Twin → Twin) : (d.mapTwin g).links = d.links := rfl
@[simp] theorem Dev.mapTwin_cxe (d : Dev) (g : Twin → Twin) : (d.mapTwin g).cxe = d.cxe := rfl
@[simp] theorem Dev.mapTwin_svc (d : Dev) (g : Twin → Twin) : (d.mapTwin g).svc = d.svc := rfl
@[simp] theorem Dev.mapTwin_recd (d : Dev) (g : Twin → Twin) : (d.mapTwin g).recd = d.recd := rfl
@[simp] theorem Dev.mapTwin_env (d : Dev) (g : Twin → Twin) : (d.mapTwin g).env = d.env := rfl
@[simp] theorem Dev.mapTwin_runDone (d : Dev) (g : Twin → Twin) : (d.mapTwin g).runDone = d.runDone := rfl
@[simp] theorem Dev.mapTwin_acks (d : Dev) (g : Twin → Twin) : (d.mapTwin g).acks = d.acks := rfl
@[simp] theorem Dev.mapTwin_nextOrd (d : Dev) (g : Twin → Twin) : (d.mapTwin g).nextOrd = d.nextOrd := rfl
@[simp] theorem Dev.mapTwin_free (d : Dev) (g : Twin → Twin) : (d.mapTwin g).free = d.free := rfl
@[simp] theorem Dev.mapTwin_rd (d : Dev) (g : Twin → Twin) (h : Field) : (d.mapTwin g).rd h = d.rd h := rfl
@[simp] theorem Dev.mapTwin_core (d : Dev) (g : Twin → Twin) (m : Nat) : (d.mapTwin g).core m = d.core m := rfl
@[simp] theorem Dev.mapTwin_ring (d : Dev) (g : Twin → Twin) (q : Nat) : (d.mapTwin g).ring q = d.ring q := rfl
@[simp] theorem Dev.mapTwin_port (d : Dev) (g : Twin → Twin) (q : PciePort) : (d.mapTwin g).port q = d.port q := rfl
@[simp] theorem Dev.mapTwin_link (d : Dev) (g : Twin → Twin) (q : Nat) : (d.mapTwin g).link q = d.link q := rfl
@[simp] theorem Dev.mapTwin_peek (d : Dev) (g : Twin → Twin) (y k : Nat) : (d.mapTwin g).peek y k = d.peek y k := rfl
@[simp] theorem Dev.mapTwin_hostMem (d : Dev) (g : Twin → Twin) (q : PciePort) : (d.mapTwin g).hostMem q = d.hostMem q := rfl
@[simp] theorem Dev.mapTwin_calItem (d : Dev) (g : Twin → Twin) (k : Nat) : (d.mapTwin g).calItem k = d.calItem k := rfl

/-! ### `Dev.mapRecd` -/

@[simp] theorem Dev.mapRecd_regs (d : Dev) (g : Recorder → Recorder) : (d.mapRecd g).regs = d.regs := rfl
@[simp] theorem Dev.mapRecd_fuses (d : Dev) (g : Recorder → Recorder) : (d.mapRecd g).fuses = d.fuses := rfl
@[simp] theorem Dev.mapRecd_sys (d : Dev) (g : Recorder → Recorder) : (d.mapRecd g).sys = d.sys := rfl
@[simp] theorem Dev.mapRecd_cores (d : Dev) (g : Recorder → Recorder) : (d.mapRecd g).cores = d.cores := rfl
@[simp] theorem Dev.mapRecd_mem (d : Dev) (g : Recorder → Recorder) : (d.mapRecd g).mem = d.mem := rfl
@[simp] theorem Dev.mapRecd_tier (d : Dev) (g : Recorder → Recorder) : (d.mapRecd g).tier = d.tier := rfl
@[simp] theorem Dev.mapRecd_rings (d : Dev) (g : Recorder → Recorder) : (d.mapRecd g).rings = d.rings := rfl
@[simp] theorem Dev.mapRecd_turn (d : Dev) (g : Recorder → Recorder) : (d.mapRecd g).turn = d.turn := rfl
@[simp] theorem Dev.mapRecd_portA (d : Dev) (g : Recorder → Recorder) : (d.mapRecd g).portA = d.portA := rfl
@[simp] theorem Dev.mapRecd_portB (d : Dev) (g : Recorder → Recorder) : (d.mapRecd g).portB = d.portB := rfl
@[simp] theorem Dev.mapRecd_hold (d : Dev) (g : Recorder → Recorder) : (d.mapRecd g).hold = d.hold := rfl
@[simp] theorem Dev.mapRecd_hit (d : Dev) (g : Recorder → Recorder) : (d.mapRecd g).hit = d.hit := rfl
@[simp] theorem Dev.mapRecd_links (d : Dev) (g : Recorder → Recorder) : (d.mapRecd g).links = d.links := rfl
@[simp] theorem Dev.mapRecd_cxe (d : Dev) (g : Recorder → Recorder) : (d.mapRecd g).cxe = d.cxe := rfl
@[simp] theorem Dev.mapRecd_twin (d : Dev) (g : Recorder → Recorder) : (d.mapRecd g).twin = d.twin := rfl
@[simp] theorem Dev.mapRecd_svc (d : Dev) (g : Recorder → Recorder) : (d.mapRecd g).svc = d.svc := rfl
@[simp] theorem Dev.mapRecd_env (d : Dev) (g : Recorder → Recorder) : (d.mapRecd g).env = d.env := rfl
@[simp] theorem Dev.mapRecd_runDone (d : Dev) (g : Recorder → Recorder) : (d.mapRecd g).runDone = d.runDone := rfl
@[simp] theorem Dev.mapRecd_acks (d : Dev) (g : Recorder → Recorder) : (d.mapRecd g).acks = d.acks := rfl
@[simp] theorem Dev.mapRecd_nextOrd (d : Dev) (g : Recorder → Recorder) : (d.mapRecd g).nextOrd = d.nextOrd := rfl
@[simp] theorem Dev.mapRecd_free (d : Dev) (g : Recorder → Recorder) : (d.mapRecd g).free = d.free := rfl
@[simp] theorem Dev.mapRecd_rd (d : Dev) (g : Recorder → Recorder) (h : Field) : (d.mapRecd g).rd h = d.rd h := rfl
@[simp] theorem Dev.mapRecd_core (d : Dev) (g : Recorder → Recorder) (m : Nat) : (d.mapRecd g).core m = d.core m := rfl
@[simp] theorem Dev.mapRecd_ring (d : Dev) (g : Recorder → Recorder) (q : Nat) : (d.mapRecd g).ring q = d.ring q := rfl
@[simp] theorem Dev.mapRecd_port (d : Dev) (g : Recorder → Recorder) (q : PciePort) : (d.mapRecd g).port q = d.port q := rfl
@[simp] theorem Dev.mapRecd_link (d : Dev) (g : Recorder → Recorder) (q : Nat) : (d.mapRecd g).link q = d.link q := rfl
@[simp] theorem Dev.mapRecd_peek (d : Dev) (g : Recorder → Recorder) (y k : Nat) : (d.mapRecd g).peek y k = d.peek y k := rfl
@[simp] theorem Dev.mapRecd_hostMem (d : Dev) (g : Recorder → Recorder) (q : PciePort) : (d.mapRecd g).hostMem q = d.hostMem q := rfl
@[simp] theorem Dev.mapRecd_calItem (d : Dev) (g : Recorder → Recorder) (k : Nat) : (d.mapRecd g).calItem k = d.calItem k := rfl

/-! ### `Dev.setSweep` -/

@[simp] theorem Dev.setSweep_regs (d : Dev) (x : Sweep) : (d.setSweep x).regs = d.regs := rfl
@[simp] theorem Dev.setSweep_fuses (d : Dev) (x : Sweep) : (d.setSweep x).fuses = d.fuses := rfl
@[simp] theorem Dev.setSweep_sys (d : Dev) (x : Sweep) : (d.setSweep x).sys = d.sys := rfl
@[simp] theorem Dev.setSweep_cores (d : Dev) (x : Sweep) : (d.setSweep x).cores = d.cores := rfl
@[simp] theorem Dev.setSweep_mem (d : Dev) (x : Sweep) : (d.setSweep x).mem = d.mem := rfl
@[simp] theorem Dev.setSweep_rings (d : Dev) (x : Sweep) : (d.setSweep x).rings = d.rings := rfl
@[simp] theorem Dev.setSweep_turn (d : Dev) (x : Sweep) : (d.setSweep x).turn = d.turn := rfl
@[simp] theorem Dev.setSweep_portA (d : Dev) (x : Sweep) : (d.setSweep x).portA = d.portA := rfl
@[simp] theorem Dev.setSweep_portB (d : Dev) (x : Sweep) : (d.setSweep x).portB = d.portB := rfl
@[simp] theorem Dev.setSweep_hold (d : Dev) (x : Sweep) : (d.setSweep x).hold = d.hold := rfl
@[simp] theorem Dev.setSweep_hit (d : Dev) (x : Sweep) : (d.setSweep x).hit = d.hit := rfl
@[simp] theorem Dev.setSweep_links (d : Dev) (x : Sweep) : (d.setSweep x).links = d.links := rfl
@[simp] theorem Dev.setSweep_cxe (d : Dev) (x : Sweep) : (d.setSweep x).cxe = d.cxe := rfl
@[simp] theorem Dev.setSweep_twin (d : Dev) (x : Sweep) : (d.setSweep x).twin = d.twin := rfl
@[simp] theorem Dev.setSweep_svc (d : Dev) (x : Sweep) : (d.setSweep x).svc = d.svc := rfl
@[simp] theorem Dev.setSweep_recd (d : Dev) (x : Sweep) : (d.setSweep x).recd = d.recd := rfl
@[simp] theorem Dev.setSweep_env (d : Dev) (x : Sweep) : (d.setSweep x).env = d.env := rfl
@[simp] theorem Dev.setSweep_runDone (d : Dev) (x : Sweep) : (d.setSweep x).runDone = d.runDone := rfl
@[simp] theorem Dev.setSweep_acks (d : Dev) (x : Sweep) : (d.setSweep x).acks = d.acks := rfl
@[simp] theorem Dev.setSweep_nextOrd (d : Dev) (x : Sweep) : (d.setSweep x).nextOrd = d.nextOrd := rfl
@[simp] theorem Dev.setSweep_free (d : Dev) (x : Sweep) : (d.setSweep x).free = d.free := rfl
@[simp] theorem Dev.setSweep_rd (d : Dev) (x : Sweep) (h : Field) : (d.setSweep x).rd h = d.rd h := rfl
@[simp] theorem Dev.setSweep_core (d : Dev) (x : Sweep) (m : Nat) : (d.setSweep x).core m = d.core m := rfl
@[simp] theorem Dev.setSweep_ring (d : Dev) (x : Sweep) (q : Nat) : (d.setSweep x).ring q = d.ring q := rfl
@[simp] theorem Dev.setSweep_port (d : Dev) (x : Sweep) (q : PciePort) : (d.setSweep x).port q = d.port q := rfl
@[simp] theorem Dev.setSweep_link (d : Dev) (x : Sweep) (q : Nat) : (d.setSweep x).link q = d.link q := rfl
@[simp] theorem Dev.setSweep_peek (d : Dev) (x : Sweep) (y k : Nat) : (d.setSweep x).peek y k = d.peek y k := rfl
@[simp] theorem Dev.setSweep_hostMem (d : Dev) (x : Sweep) (q : PciePort) : (d.setSweep x).hostMem q = d.hostMem q := rfl
@[simp] theorem Dev.setSweep_calItem (d : Dev) (x : Sweep) (k : Nat) : (d.setSweep x).calItem k = d.calItem k := rfl

/-! ### What reads back -/

/-- A field after a write of a field, by whether they stand in the same place. -/
theorem Dev.rd_wr (d : Dev) (f g : Field) (v : Nat) :
    (d.wr f v).rd g = if g.key = f.key then Tab.get (d.wr f v).regs f.key g.reset else d.rd g := by
  unfold Dev.rd Dev.wr
  split
  · rename_i h; rw [h]
  · rename_i h; exact Tab.get_set_ne _ _ _ _ _ _ h

/-- A field that was written reads as the value cut to its width. -/
@[simp] theorem Dev.rd_wr_same (d : Dev) (f : Field) (v : Nat) : (d.wr f v).rd f = v % 2 ^ f.w := Tab.get_set_same _ _ _ _

/-- A field of another place reads as before. -/
theorem Dev.rd_wr_ne (d : Dev) (f g : Field) (v : Nat) (h : g.key ≠ f.key) : (d.wr f v).rd g = d.rd g := Tab.get_set_ne _ _ _ _ _ _ h

theorem Dev.core_setCore (d : Dev) (n m : Nat) (c : Core) : (d.setCore n c).core m = if m = n then c else d.core m := Tab.get_set _ _ _ _ _

@[simp] theorem Dev.core_setCore_same (d : Dev) (n : Nat) (c : Core) : (d.setCore n c).core n = c := Tab.get_set_same _ _ _ _

theorem Dev.ring_setRing (d : Dev) (r q : Nat) (x : Ring) : (d.setRing r x).ring q = if q = r then x else d.ring q := Tab.get_set _ _ _ _ _

@[simp] theorem Dev.ring_setRing_same (d : Dev) (r : Nat) (x : Ring) : (d.setRing r x).ring r = x := Tab.get_set_same _ _ _ _

theorem Dev.link_setLink (d : Dev) (p q : Nat) (l : Link) : (d.setLink p l).link q = if q = p then l else d.link q := Tab.get_set _ _ _ _ _

@[simp] theorem Dev.link_setLink_same (d : Dev) (p : Nat) (l : Link) : (d.setLink p l).link p = l := Tab.get_set_same _ _ _ _

theorem Dev.calItem_setCal (d : Dev) (i k : Nat) (c : CalItem) : (d.setCal i c).calItem k = if k = i then c else d.calItem k :=
  Tab.get_set _ _ _ _ _

@[simp] theorem Dev.calItem_setCal_same (d : Dev) (i : Nat) (c : CalItem) : (d.setCal i c).calItem i = c := Tab.get_set_same _ _ _ _

@[simp] theorem Dev.port_setPort_same (d : Dev) (p : PciePort) (x : Port) : (d.setPort p x).port p = x := by cases p <;> rfl

@[simp] theorem Dev.port_setPort_other (d : Dev) (p : PciePort) (x : Port) : (d.setPort p x).port (otherPort p) = d.port (otherPort p) := by
  cases p <;> rfl

theorem Dev.port_setPort (d : Dev) (p q : PciePort) (x : Port) : (d.setPort p x).port q = if q = p then x else d.port q := by
  cases p <;> cases q <;> rfl

@[simp] theorem Dev.peek_poke (d : Dev) (a : Nat) (bs : List Byte) : (d.poke a bs).peek a bs.length = bs := getBytes_putBytes _ _ _

/-- Bytes apart from those put stay. -/
theorem Dev.peek_poke_apart (d : Dev) (a b n : Nat) (bs : List Byte) (h : b + n ≤ a ∨ a + bs.length ≤ b) :
    (d.poke a bs).peek b n = d.peek b n := getBytes_putBytes_apart _ _ _ _ _ h

@[simp] theorem Dev.peek_length (d : Dev) (a n : Nat) : (d.peek a n).length = n := getBytes_length _ _ _

/-! ### Cores -/


@[simp] theorem Core.setS_status (c : Core) (i : Nat) (w : Word) : (c.setS i w).status = c.status := rfl
@[simp] theorem Core.setS_phys (c : Core) (i : Nat) (w : Word) : (c.setS i w).phys = c.phys := rfl
@[simp] theorem Core.setS_pc (c : Core) (i : Nat) (w : Word) : (c.setS i w).pc = c.pc := rfl
@[simp] theorem Core.setS_codeBase (c : Core) (i : Nat) (w : Word) : (c.setS i w).codeBase = c.codeBase := rfl
@[simp] theorem Core.setS_codeLen (c : Core) (i : Nat) (w : Word) : (c.setS i w).codeLen = c.codeLen := rfl
@[simp] theorem Core.setS_cache (c : Core) (i : Nat) (w : Word) : (c.setS i w).cache = c.cache := rfl
@[simp] theorem Core.setS_v (c : Core) (i : Nat) (w : Word) : (c.setS i w).v = c.v := rfl
@[simp] theorem Core.setS_m (c : Core) (i : Nat) (w : Word) : (c.setS i w).m = c.m := rfl
@[simp] theorem Core.setS_a (c : Core) (i : Nat) (w : Word) : (c.setS i w).a = c.a := rfl
@[simp] theorem Core.setS_acc (c : Core) (i : Nat) (w : Word) : (c.setS i w).acc = c.acc := rfl
@[simp] theorem Core.setS_savedTags (c : Core) (i : Nat) (w : Word) : (c.setS i w).savedTags = c.savedTags := rfl
@[simp] theorem Core.setS_slots (c : Core) (i : Nat) (w : Word) : (c.setS i w).slots = c.slots := rfl
@[simp] theorem Core.setS_ew (c : Core) (i : Nat) (w : Word) : (c.setS i w).ew = c.ew := rfl
@[simp] theorem Core.setS_loops (c : Core) (i : Nat) (w : Word) : (c.setS i w).loops = c.loops := rfl
@[simp] theorem Core.setS_queue (c : Core) (i : Nat) (w : Word) : (c.setS i w).queue = c.queue := rfl
@[simp] theorem Core.setS_nextSeq (c : Core) (i : Nat) (w : Word) : (c.setS i w).nextSeq = c.nextSeq := rfl
@[simp] theorem Core.setS_wait (c : Core) (i : Nat) (w : Word) : (c.setS i w).wait = c.wait := rfl
@[simp] theorem Core.setS_halt (c : Core) (i : Nat) (w : Word) : (c.setS i w).halt = c.halt := rfl
@[simp] theorem Core.setS_stopReq (c : Core) (i : Nat) (w : Word) : (c.setS i w).stopReq = c.stopReq := rfl
@[simp] theorem Core.setS_actions (c : Core) (i : Nat) (w : Word) : (c.setS i w).actions = c.actions := rfl
@[simp] theorem Core.setS_run (c : Core) (i : Nat) (w : Word) : (c.setS i w).run = c.run := rfl
@[simp] theorem Core.setS_runQ (c : Core) (i : Nat) (w : Word) : (c.setS i w).runQ = c.runQ := rfl
@[simp] theorem Core.setS_cflags (c : Core) (i : Nat) (w : Word) : (c.setS i w).cflags = c.cflags := rfl
@[simp] theorem Core.setS_lastPc (c : Core) (i : Nat) (w : Word) : (c.setS i w).lastPc = c.lastPc := rfl
@[simp] theorem Core.setS_lastWhy (c : Core) (i : Nat) (w : Word) : (c.setS i w).lastWhy = c.lastWhy := rfl
@[simp] theorem Core.setS_tsLive (c : Core) (i : Nat) (w : Word) : (c.setS i w).tsLive = c.tsLive := rfl
@[simp] theorem Core.setS_tsStaged (c : Core) (i : Nat) (w : Word) : (c.setS i w).tsStaged = c.tsStaged := rfl
@[simp] theorem Core.setS_mpLive (c : Core) (i : Nat) (w : Word) : (c.setS i w).mpLive = c.mpLive := rfl
@[simp] theorem Core.setS_mpStaged (c : Core) (i : Nat) (w : Word) : (c.setS i w).mpStaged = c.mpStaged := rfl
@[simp] theorem Core.setS_staging (c : Core) (i : Nat) (w : Word) : (c.setS i w).staging = c.staging := rfl
@[simp] theorem Core.setS_pewter (c : Core) (i : Nat) (w : Word) : (c.setS i w).pewter = c.pewter := rfl
@[simp] theorem Core.setS_rows (c : Core) (i : Nat) (w : Word) : (c.setS i w).rows = c.rows := rfl
@[simp] theorem Core.setS_merged (c : Core) (i : Nat) (w : Word) : (c.setS i w).merged = c.merged := rfl
@[simp] theorem Core.setS_rsmDet (c : Core) (i : Nat) (w : Word) : (c.setS i w).rsmDet = c.rsmDet := rfl
@[simp] theorem Core.setS_curTag (c : Core) (i : Nat) (w : Word) : (c.setS i w).curTag = c.curTag := rfl
@[simp] theorem Core.setS_cyc (c : Core) (i : Nat) (w : Word) : (c.setS i w).cyc = c.cyc := rfl
@[simp] theorem Core.setS_time (c : Core) (i : Nat) (w : Word) : (c.setS i w).time = c.time := rfl
@[simp] theorem Core.setS_coast (c : Core) (i : Nat) (w : Word) : (c.setS i w).coast = c.coast := rfl
@[simp] theorem Core.setS_multChg (c : Core) (i : Nat) (w : Word) : (c.setS i w).multChg = c.multChg := rfl
@[simp] theorem Core.setS_satd (c : Core) (i : Nat) (w : Word) : (c.setS i w).satd = c.satd := rfl
@[simp] theorem Core.setS_xfers (c : Core) (i : Nat) (w : Word) : (c.setS i w).xfers = c.xfers := rfl
@[simp] theorem Core.setS_stage (c : Core) (i : Nat) (w : Word) : (c.setS i w).stage = c.stage := rfl
@[simp] theorem Core.setS_retained (c : Core) (i : Nat) (w : Word) : (c.setS i w).retained = c.retained := rfl
@[simp] theorem Core.setS_gated (c : Core) (i : Nat) (w : Word) : (c.setS i w).gated = c.gated := rfl

@[simp] theorem Core.setA_status (c : Core) (i : Nat) (w : Word) : (c.setA i w).status = c.status := rfl
@[simp] theorem Core.setA_phys (c : Core) (i : Nat) (w : Word) : (c.setA i w).phys = c.phys := rfl
@[simp] theorem Core.setA_pc (c : Core) (i : Nat) (w : Word) : (c.setA i w).pc = c.pc := rfl
@[simp] theorem Core.setA_codeBase (c : Core) (i : Nat) (w : Word) : (c.setA i w).codeBase = c.codeBase := rfl
@[simp] theorem Core.setA_codeLen (c : Core) (i : Nat) (w : Word) : (c.setA i w).codeLen = c.codeLen := rfl
@[simp] theorem Core.setA_cache (c : Core) (i : Nat) (w : Word) : (c.setA i w).cache = c.cache := rfl
@[simp] theorem Core.setA_v (c : Core) (i : Nat) (w : Word) : (c.setA i w).v = c.v := rfl
@[simp] theorem Core.setA_m (c : Core) (i : Nat) (w : Word) : (c.setA i w).m = c.m := rfl
@[simp] theorem Core.setA_s (c : Core) (i : Nat) (w : Word) : (c.setA i w).s = c.s := rfl
@[simp] theorem Core.setA_acc (c : Core) (i : Nat) (w : Word) : (c.setA i w).acc = c.acc := rfl
@[simp] theorem Core.setA_savedTags (c : Core) (i : Nat) (w : Word) : (c.setA i w).savedTags = c.savedTags := rfl
@[simp] theorem Core.setA_slots (c : Core) (i : Nat) (w : Word) : (c.setA i w).slots = c.slots := rfl
@[simp] theorem Core.setA_ew (c : Core) (i : Nat) (w : Word) : (c.setA i w).ew = c.ew := rfl
@[simp] theorem Core.setA_loops (c : Core) (i : Nat) (w : Word) : (c.setA i w).loops = c.loops := rfl
@[simp] theorem Core.setA_queue (c : Core) (i : Nat) (w : Word) : (c.setA i w).queue = c.queue := rfl
@[simp] theorem Core.setA_nextSeq (c : Core) (i : Nat) (w : Word) : (c.setA i w).nextSeq = c.nextSeq := rfl
@[simp] theorem Core.setA_wait (c : Core) (i : Nat) (w : Word) : (c.setA i w).wait = c.wait := rfl
@[simp] theorem Core.setA_halt (c : Core) (i : Nat) (w : Word) : (c.setA i w).halt = c.halt := rfl
@[simp] theorem Core.setA_stopReq (c : Core) (i : Nat) (w : Word) : (c.setA i w).stopReq = c.stopReq := rfl
@[simp] theorem Core.setA_actions (c : Core) (i : Nat) (w : Word) : (c.setA i w).actions = c.actions := rfl
@[simp] theorem Core.setA_run (c : Core) (i : Nat) (w : Word) : (c.setA i w).run = c.run := rfl
@[simp] theorem Core.setA_runQ (c : Core) (i : Nat) (w : Word) : (c.setA i w).runQ = c.runQ := rfl
@[simp] theorem Core.setA_cflags (c : Core) (i : Nat) (w : Word) : (c.setA i w).cflags = c.cflags := rfl
@[simp] theorem Core.setA_lastPc (c : Core) (i : Nat) (w : Word) : (c.setA i w).lastPc = c.lastPc := rfl
@[simp] theorem Core.setA_lastWhy (c : Core) (i : Nat) (w : Word) : (c.setA i w).lastWhy = c.lastWhy := rfl
@[simp] theorem Core.setA_tsLive (c : Core) (i : Nat) (w : Word) : (c.setA i w).tsLive = c.tsLive := rfl
@[simp] theorem Core.setA_tsStaged (c : Core) (i : Nat) (w : Word) : (c.setA i w).tsStaged = c.tsStaged := rfl
@[simp] theorem Core.setA_mpLive (c : Core) (i : Nat) (w : Word) : (c.setA i w).mpLive = c.mpLive := rfl
@[simp] theorem Core.setA_mpStaged (c : Core) (i : Nat) (w : Word) : (c.setA i w).mpStaged = c.mpStaged := rfl
@[simp] theorem Core.setA_staging (c : Core) (i : Nat) (w : Word) : (c.setA i w).staging = c.staging := rfl
@[simp] theorem Core.setA_pewter (c : Core) (i : Nat) (w : Word) : (c.setA i w).pewter = c.pewter := rfl
@[simp] theorem Core.setA_rows (c : Core) (i : Nat) (w : Word) : (c.setA i w).rows = c.rows := rfl
@[simp] theorem Core.setA_merged (c : Core) (i : Nat) (w : Word) : (c.setA i w).merged = c.merged := rfl
@[simp] theorem Core.setA_rsmDet (c : Core) (i : Nat) (w : Word) : (c.setA i w).rsmDet = c.rsmDet := rfl
@[simp] theorem Core.setA_curTag (c : Core) (i : Nat) (w : Word) : (c.setA i w).curTag = c.curTag := rfl
@[simp] theorem Core.setA_cyc (c : Core) (i : Nat) (w : Word) : (c.setA i w).cyc = c.cyc := rfl
@[simp] theorem Core.setA_time (c : Core) (i : Nat) (w : Word) : (c.setA i w).time = c.time := rfl
@[simp] theorem Core.setA_coast (c : Core) (i : Nat) (w : Word) : (c.setA i w).coast = c.coast := rfl
@[simp] theorem Core.setA_multChg (c : Core) (i : Nat) (w : Word) : (c.setA i w).multChg = c.multChg := rfl
@[simp] theorem Core.setA_satd (c : Core) (i : Nat) (w : Word) : (c.setA i w).satd = c.satd := rfl
@[simp] theorem Core.setA_xfers (c : Core) (i : Nat) (w : Word) : (c.setA i w).xfers = c.xfers := rfl
@[simp] theorem Core.setA_stage (c : Core) (i : Nat) (w : Word) : (c.setA i w).stage = c.stage := rfl
@[simp] theorem Core.setA_retained (c : Core) (i : Nat) (w : Word) : (c.setA i w).retained = c.retained := rfl
@[simp] theorem Core.setA_gated (c : Core) (i : Nat) (w : Word) : (c.setA i w).gated = c.gated := rfl

@[simp] theorem Core.setLane_status (c : Core) (r l : Nat) (w : Word) : (c.setLane r l w).status = c.status := rfl
@[simp] theorem Core.setLane_phys (c : Core) (r l : Nat) (w : Word) : (c.setLane r l w).phys = c.phys := rfl
@[simp] theorem Core.setLane_pc (c : Core) (r l : Nat) (w : Word) : (c.setLane r l w).pc = c.pc := rfl
@[simp] theorem Core.setLane_codeBase (c : Core) (r l : Nat) (w : Word) : (c.setLane r l w).codeBase = c.codeBase := rfl
@[simp] theorem Core.setLane_codeLen (c : Core) (r l : Nat) (w : Word) : (c.setLane r l w).codeLen = c.codeLen := rfl
@[simp] theorem Core.setLane_cache (c : Core) (r l : Nat) (w : Word) : (c.setLane r l w).cache = c.cache := rfl
@[simp] theorem Core.setLane_m (c : Core) (r l : Nat) (w : Word) : (c.setLane r l w).m = c.m := rfl
@[simp] theorem Core.setLane_s (c : Core) (r l : Nat) (w : Word) : (c.setLane r l w).s = c.s := rfl
@[simp] theorem Core.setLane_a (c : Core) (r l : Nat) (w : Word) : (c.setLane r l w).a = c.a := rfl
@[simp] theorem Core.setLane_acc (c : Core) (r l : Nat) (w : Word) : (c.setLane r l w).acc = c.acc := rfl
@[simp] theorem Core.setLane_savedTags (c : Core) (r l : Nat) (w : Word) : (c.setLane r l w).savedTags = c.savedTags := rfl
@[simp] theorem Core.setLane_slots (c : Core) (r l : Nat) (w : Word) : (c.setLane r l w).slots = c.slots := rfl
@[simp] theorem Core.setLane_ew (c : Core) (r l : Nat) (w : Word) : (c.setLane r l w).ew = c.ew := rfl
@[simp] theorem Core.setLane_loops (c : Core) (r l : Nat) (w : Word) : (c.setLane r l w).loops = c.loops := rfl
@[simp] theorem Core.setLane_queue (c : Core) (r l : Nat) (w : Word) : (c.setLane r l w).queue = c.queue := rfl
@[simp] theorem Core.setLane_nextSeq (c : Core) (r l : Nat) (w : Word) : (c.setLane r l w).nextSeq = c.nextSeq := rfl
@[simp] theorem Core.setLane_wait (c : Core) (r l : Nat) (w : Word) : (c.setLane r l w).wait = c.wait := rfl
@[simp] theorem Core.setLane_halt (c : Core) (r l : Nat) (w : Word) : (c.setLane r l w).halt = c.halt := rfl
@[simp] theorem Core.setLane_stopReq (c : Core) (r l : Nat) (w : Word) : (c.setLane r l w).stopReq = c.stopReq := rfl
@[simp] theorem Core.setLane_actions (c : Core) (r l : Nat) (w : Word) : (c.setLane r l w).actions = c.actions := rfl
@[simp] theorem Core.setLane_run (c : Core) (r l : Nat) (w : Word) : (c.setLane r l w).run = c.run := rfl
@[simp] theorem Core.setLane_runQ (c : Core) (r l : Nat) (w : Word) : (c.setLane r l w).runQ = c.runQ := rfl
@[simp] theorem Core.setLane_cflags (c : Core) (r l : Nat) (w : Word) : (c.setLane r l w).cflags = c.cflags := rfl
@[simp] theorem Core.setLane_lastPc (c : Core) (r l : Nat) (w : Word) : (c.setLane r l w).lastPc = c.lastPc := rfl
@[simp] theorem Core.setLane_lastWhy (c : Core) (r l : Nat) (w : Word) : (c.setLane r l w).lastWhy = c.lastWhy := rfl
@[simp] theorem Core.setLane_tsLive (c : Core) (r l : Nat) (w : Word) : (c.setLane r l w).tsLive = c.tsLive := rfl
@[simp] theorem Core.setLane_tsStaged (c : Core) (r l : Nat) (w : Word) : (c.setLane r l w).tsStaged = c.tsStaged := rfl
@[simp] theorem Core.setLane_mpLive (c : Core) (r l : Nat) (w : Word) : (c.setLane r l w).mpLive = c.mpLive := rfl
@[simp] theorem Core.setLane_mpStaged (c : Core) (r l : Nat) (w : Word) : (c.setLane r l w).mpStaged = c.mpStaged := rfl
@[simp] theorem Core.setLane_staging (c : Core) (r l : Nat) (w : Word) : (c.setLane r l w).staging = c.staging := rfl
@[simp] theorem Core.setLane_pewter (c : Core) (r l : Nat) (w : Word) : (c.setLane r l w).pewter = c.pewter := rfl
@[simp] theorem Core.setLane_rows (c : Core) (r l : Nat) (w : Word) : (c.setLane r l w).rows = c.rows := rfl
@[simp] theorem Core.setLane_merged (c : Core) (r l : Nat) (w : Word) : (c.setLane r l w).merged = c.merged := rfl
@[simp] theorem Core.setLane_rsmDet (c : Core) (r l : Nat) (w : Word) : (c.setLane r l w).rsmDet = c.rsmDet := rfl
@[simp] theorem Core.setLane_curTag (c : Core) (r l : Nat) (w : Word) : (c.setLane r l w).curTag = c.curTag := rfl
@[simp] theorem Core.setLane_cyc (c : Core) (r l : Nat) (w : Word) : (c.setLane r l w).cyc = c.cyc := rfl
@[simp] theorem Core.setLane_time (c : Core) (r l : Nat) (w : Word) : (c.setLane r l w).time = c.time := rfl
@[simp] theorem Core.setLane_coast (c : Core) (r l : Nat) (w : Word) : (c.setLane r l w).coast = c.coast := rfl
@[simp] theorem Core.setLane_multChg (c : Core) (r l : Nat) (w : Word) : (c.setLane r l w).multChg = c.multChg := rfl
@[simp] theorem Core.setLane_satd (c : Core) (r l : Nat) (w : Word) : (c.setLane r l w).satd = c.satd := rfl
@[simp] theorem Core.setLane_xfers (c : Core) (r l : Nat) (w : Word) : (c.setLane r l w).xfers = c.xfers := rfl
@[simp] theorem Core.setLane_stage (c : Core) (r l : Nat) (w : Word) : (c.setLane r l w).stage = c.stage := rfl
@[simp] theorem Core.setLane_retained (c : Core) (r l : Nat) (w : Word) : (c.setLane r l w).retained = c.retained := rfl
@[simp] theorem Core.setLane_gated (c : Core) (r l : Nat) (w : Word) : (c.setLane r l w).gated = c.gated := rfl

@[simp] theorem Core.setM_status (c : Core) (r : Nat) (w : BitVec 1024) : (c.setM r w).status = c.status := rfl
@[simp] theorem Core.setM_phys (c : Core) (r : Nat) (w : BitVec 1024) : (c.setM r w).phys = c.phys := rfl
@[simp] theorem Core.setM_pc (c : Core) (r : Nat) (w : BitVec 1024) : (c.setM r w).pc = c.pc := rfl
@[simp] theorem Core.setM_codeBase (c : Core) (r : Nat) (w : BitVec 1024) : (c.setM r w).codeBase = c.codeBase := rfl
@[simp] theorem Core.setM_codeLen (c : Core) (r : Nat) (w : BitVec 1024) : (c.setM r w).codeLen = c.codeLen := rfl
@[simp] theorem Core.setM_cache (c : Core) (r : Nat) (w : BitVec 1024) : (c.setM r w).cache = c.cache := rfl
@[simp] theorem Core.setM_v (c : Core) (r : Nat) (w : BitVec 1024) : (c.setM r w).v = c.v := rfl
@[simp] theorem Core.setM_s (c : Core) (r : Nat) (w : BitVec 1024) : (c.setM r w).s = c.s := rfl
@[simp] theorem Core.setM_a (c : Core) (r : Nat) (w : BitVec 1024) : (c.setM r w).a = c.a := rfl
@[simp] theorem Core.setM_acc (c : Core) (r : Nat) (w : BitVec 1024) : (c.setM r w).acc = c.acc := rfl
@[simp] theorem Core.setM_savedTags (c : Core) (r : Nat) (w : BitVec 1024) : (c.setM r w).savedTags = c.savedTags := rfl
@[simp] theorem Core.setM_slots (c : Core) (r : Nat) (w : BitVec 1024) : (c.setM r w).slots = c.slots := rfl
@[simp] theorem Core.setM_ew (c : Core) (r : Nat) (w : BitVec 1024) : (c.setM r w).ew = c.ew := rfl
@[simp] theorem Core.setM_loops (c : Core) (r : Nat) (w : BitVec 1024) : (c.setM r w).loops = c.loops := rfl
@[simp] theorem Core.setM_queue (c : Core) (r : Nat) (w : BitVec 1024) : (c.setM r w).queue = c.queue := rfl
@[simp] theorem Core.setM_nextSeq (c : Core) (r : Nat) (w : BitVec 1024) : (c.setM r w).nextSeq = c.nextSeq := rfl
@[simp] theorem Core.setM_wait (c : Core) (r : Nat) (w : BitVec 1024) : (c.setM r w).wait = c.wait := rfl
@[simp] theorem Core.setM_halt (c : Core) (r : Nat) (w : BitVec 1024) : (c.setM r w).halt = c.halt := rfl
@[simp] theorem Core.setM_stopReq (c : Core) (r : Nat) (w : BitVec 1024) : (c.setM r w).stopReq = c.stopReq := rfl
@[simp] theorem Core.setM_actions (c : Core) (r : Nat) (w : BitVec 1024) : (c.setM r w).actions = c.actions := rfl
@[simp] theorem Core.setM_run (c : Core) (r : Nat) (w : BitVec 1024) : (c.setM r w).run = c.run := rfl
@[simp] theorem Core.setM_runQ (c : Core) (r : Nat) (w : BitVec 1024) : (c.setM r w).runQ = c.runQ := rfl
@[simp] theorem Core.setM_cflags (c : Core) (r : Nat) (w : BitVec 1024) : (c.setM r w).cflags = c.cflags := rfl
@[simp] theorem Core.setM_lastPc (c : Core) (r : Nat) (w : BitVec 1024) : (c.setM r w).lastPc = c.lastPc := rfl
@[simp] theorem Core.setM_lastWhy (c : Core) (r : Nat) (w : BitVec 1024) : (c.setM r w).lastWhy = c.lastWhy := rfl
@[simp] theorem Core.setM_tsLive (c : Core) (r : Nat) (w : BitVec 1024) : (c.setM r w).tsLive = c.tsLive := rfl
@[simp] theorem Core.setM_tsStaged (c : Core) (r : Nat) (w : BitVec 1024) : (c.setM r w).tsStaged = c.tsStaged := rfl
@[simp] theorem Core.setM_mpLive (c : Core) (r : Nat) (w : BitVec 1024) : (c.setM r w).mpLive = c.mpLive := rfl
@[simp] theorem Core.setM_mpStaged (c : Core) (r : Nat) (w : BitVec 1024) : (c.setM r w).mpStaged = c.mpStaged := rfl
@[simp] theorem Core.setM_staging (c : Core) (r : Nat) (w : BitVec 1024) : (c.setM r w).staging = c.staging := rfl
@[simp] theorem Core.setM_pewter (c : Core) (r : Nat) (w : BitVec 1024) : (c.setM r w).pewter = c.pewter := rfl
@[simp] theorem Core.setM_rows (c : Core) (r : Nat) (w : BitVec 1024) : (c.setM r w).rows = c.rows := rfl
@[simp] theorem Core.setM_merged (c : Core) (r : Nat) (w : BitVec 1024) : (c.setM r w).merged = c.merged := rfl
@[simp] theorem Core.setM_rsmDet (c : Core) (r : Nat) (w : BitVec 1024) : (c.setM r w).rsmDet = c.rsmDet := rfl
@[simp] theorem Core.setM_curTag (c : Core) (r : Nat) (w : BitVec 1024) : (c.setM r w).curTag = c.curTag := rfl
@[simp] theorem Core.setM_cyc (c : Core) (r : Nat) (w : BitVec 1024) : (c.setM r w).cyc = c.cyc := rfl
@[simp] theorem Core.setM_time (c : Core) (r : Nat) (w : BitVec 1024) : (c.setM r w).time = c.time := rfl
@[simp] theorem Core.setM_coast (c : Core) (r : Nat) (w : BitVec 1024) : (c.setM r w).coast = c.coast := rfl
@[simp] theorem Core.setM_multChg (c : Core) (r : Nat) (w : BitVec 1024) : (c.setM r w).multChg = c.multChg := rfl
@[simp] theorem Core.setM_satd (c : Core) (r : Nat) (w : BitVec 1024) : (c.setM r w).satd = c.satd := rfl
@[simp] theorem Core.setM_xfers (c : Core) (r : Nat) (w : BitVec 1024) : (c.setM r w).xfers = c.xfers := rfl
@[simp] theorem Core.setM_stage (c : Core) (r : Nat) (w : BitVec 1024) : (c.setM r w).stage = c.stage := rfl
@[simp] theorem Core.setM_retained (c : Core) (r : Nat) (w : BitVec 1024) : (c.setM r w).retained = c.retained := rfl
@[simp] theorem Core.setM_gated (c : Core) (r : Nat) (w : BitVec 1024) : (c.setM r w).gated = c.gated := rfl

@[simp] theorem Core.setRow_status (c : Core) (r : Nat) (x : RowAcc) : (c.setRow r x).status = c.status := rfl
@[simp] theorem Core.setRow_phys (c : Core) (r : Nat) (x : RowAcc) : (c.setRow r x).phys = c.phys := rfl
@[simp] theorem Core.setRow_pc (c : Core) (r : Nat) (x : RowAcc) : (c.setRow r x).pc = c.pc := rfl
@[simp] theorem Core.setRow_codeBase (c : Core) (r : Nat) (x : RowAcc) : (c.setRow r x).codeBase = c.codeBase := rfl
@[simp] theorem Core.setRow_codeLen (c : Core) (r : Nat) (x : RowAcc) : (c.setRow r x).codeLen = c.codeLen := rfl
@[simp] theorem Core.setRow_cache (c : Core) (r : Nat) (x : RowAcc) : (c.setRow r x).cache = c.cache := rfl
@[simp] theorem Core.setRow_v (c : Core) (r : Nat) (x : RowAcc) : (c.setRow r x).v = c.v := rfl
@[simp] theorem Core.setRow_m (c : Core) (r : Nat) (x : RowAcc) : (c.setRow r x).m = c.m := rfl
@[simp] theorem Core.setRow_s (c : Core) (r : Nat) (x : RowAcc) : (c.setRow r x).s = c.s := rfl
@[simp] theorem Core.setRow_a (c : Core) (r : Nat) (x : RowAcc) : (c.setRow r x).a = c.a := rfl
@[simp] theorem Core.setRow_acc (c : Core) (r : Nat) (x : RowAcc) : (c.setRow r x).acc = c.acc := rfl
@[simp] theorem Core.setRow_savedTags (c : Core) (r : Nat) (x : RowAcc) : (c.setRow r x).savedTags = c.savedTags := rfl
@[simp] theorem Core.setRow_slots (c : Core) (r : Nat) (x : RowAcc) : (c.setRow r x).slots = c.slots := rfl
@[simp] theorem Core.setRow_ew (c : Core) (r : Nat) (x : RowAcc) : (c.setRow r x).ew = c.ew := rfl
@[simp] theorem Core.setRow_loops (c : Core) (r : Nat) (x : RowAcc) : (c.setRow r x).loops = c.loops := rfl
@[simp] theorem Core.setRow_queue (c : Core) (r : Nat) (x : RowAcc) : (c.setRow r x).queue = c.queue := rfl
@[simp] theorem Core.setRow_nextSeq (c : Core) (r : Nat) (x : RowAcc) : (c.setRow r x).nextSeq = c.nextSeq := rfl
@[simp] theorem Core.setRow_wait (c : Core) (r : Nat) (x : RowAcc) : (c.setRow r x).wait = c.wait := rfl
@[simp] theorem Core.setRow_halt (c : Core) (r : Nat) (x : RowAcc) : (c.setRow r x).halt = c.halt := rfl
@[simp] theorem Core.setRow_stopReq (c : Core) (r : Nat) (x : RowAcc) : (c.setRow r x).stopReq = c.stopReq := rfl
@[simp] theorem Core.setRow_actions (c : Core) (r : Nat) (x : RowAcc) : (c.setRow r x).actions = c.actions := rfl
@[simp] theorem Core.setRow_run (c : Core) (r : Nat) (x : RowAcc) : (c.setRow r x).run = c.run := rfl
@[simp] theorem Core.setRow_runQ (c : Core) (r : Nat) (x : RowAcc) : (c.setRow r x).runQ = c.runQ := rfl
@[simp] theorem Core.setRow_cflags (c : Core) (r : Nat) (x : RowAcc) : (c.setRow r x).cflags = c.cflags := rfl
@[simp] theorem Core.setRow_lastPc (c : Core) (r : Nat) (x : RowAcc) : (c.setRow r x).lastPc = c.lastPc := rfl
@[simp] theorem Core.setRow_lastWhy (c : Core) (r : Nat) (x : RowAcc) : (c.setRow r x).lastWhy = c.lastWhy := rfl
@[simp] theorem Core.setRow_tsLive (c : Core) (r : Nat) (x : RowAcc) : (c.setRow r x).tsLive = c.tsLive := rfl
@[simp] theorem Core.setRow_tsStaged (c : Core) (r : Nat) (x : RowAcc) : (c.setRow r x).tsStaged = c.tsStaged := rfl
@[simp] theorem Core.setRow_mpLive (c : Core) (r : Nat) (x : RowAcc) : (c.setRow r x).mpLive = c.mpLive := rfl
@[simp] theorem Core.setRow_mpStaged (c : Core) (r : Nat) (x : RowAcc) : (c.setRow r x).mpStaged = c.mpStaged := rfl
@[simp] theorem Core.setRow_staging (c : Core) (r : Nat) (x : RowAcc) : (c.setRow r x).staging = c.staging := rfl
@[simp] theorem Core.setRow_pewter (c : Core) (r : Nat) (x : RowAcc) : (c.setRow r x).pewter = c.pewter := rfl
@[simp] theorem Core.setRow_merged (c : Core) (r : Nat) (x : RowAcc) : (c.setRow r x).merged = c.merged := rfl
@[simp] theorem Core.setRow_rsmDet (c : Core) (r : Nat) (x : RowAcc) : (c.setRow r x).rsmDet = c.rsmDet := rfl
@[simp] theorem Core.setRow_curTag (c : Core) (r : Nat) (x : RowAcc) : (c.setRow r x).curTag = c.curTag := rfl
@[simp] theorem Core.setRow_cyc (c : Core) (r : Nat) (x : RowAcc) : (c.setRow r x).cyc = c.cyc := rfl
@[simp] theorem Core.setRow_time (c : Core) (r : Nat) (x : RowAcc) : (c.setRow r x).time = c.time := rfl
@[simp] theorem Core.setRow_coast (c : Core) (r : Nat) (x : RowAcc) : (c.setRow r x).coast = c.coast := rfl
@[simp] theorem Core.setRow_multChg (c : Core) (r : Nat) (x : RowAcc) : (c.setRow r x).multChg = c.multChg := rfl
@[simp] theorem Core.setRow_satd (c : Core) (r : Nat) (x : RowAcc) : (c.setRow r x).satd = c.satd := rfl
@[simp] theorem Core.setRow_xfers (c : Core) (r : Nat) (x : RowAcc) : (c.setRow r x).xfers = c.xfers := rfl
@[simp] theorem Core.setRow_stage (c : Core) (r : Nat) (x : RowAcc) : (c.setRow r x).stage = c.stage := rfl
@[simp] theorem Core.setRow_retained (c : Core) (r : Nat) (x : RowAcc) : (c.setRow r x).retained = c.retained := rfl
@[simp] theorem Core.setRow_gated (c : Core) (r : Nat) (x : RowAcc) : (c.setRow r x).gated = c.gated := rfl

@[simp] theorem Core.setFlags_status (c : Core) (w : Word) : (c.setFlags w).status = c.status := rfl
@[simp] theorem Core.setFlags_phys (c : Core) (w : Word) : (c.setFlags w).phys = c.phys := rfl
@[simp] theorem Core.setFlags_pc (c : Core) (w : Word) : (c.setFlags w).pc = c.pc := rfl
@[simp] theorem Core.setFlags_codeBase (c : Core) (w : Word) : (c.setFlags w).codeBase = c.codeBase := rfl
@[simp] theorem Core.setFlags_codeLen (c : Core) (w : Word) : (c.setFlags w).codeLen = c.codeLen := rfl
@[simp] theorem Core.setFlags_cache (c : Core) (w : Word) : (c.setFlags w).cache = c.cache := rfl
@[simp] theorem Core.setFlags_v (c : Core) (w : Word) : (c.setFlags w).v = c.v := rfl
@[simp] theorem Core.setFlags_m (c : Core) (w : Word) : (c.setFlags w).m = c.m := rfl
@[simp] theorem Core.setFlags_s (c : Core) (w : Word) : (c.setFlags w).s = c.s := rfl
@[simp] theorem Core.setFlags_a (c : Core) (w : Word) : (c.setFlags w).a = c.a := rfl
@[simp] theorem Core.setFlags_acc (c : Core) (w : Word) : (c.setFlags w).acc = c.acc := rfl
@[simp] theorem Core.setFlags_savedTags (c : Core) (w : Word) : (c.setFlags w).savedTags = c.savedTags := rfl
@[simp] theorem Core.setFlags_slots (c : Core) (w : Word) : (c.setFlags w).slots = c.slots := rfl
@[simp] theorem Core.setFlags_ew (c : Core) (w : Word) : (c.setFlags w).ew = c.ew := rfl
@[simp] theorem Core.setFlags_loops (c : Core) (w : Word) : (c.setFlags w).loops = c.loops := rfl
@[simp] theorem Core.setFlags_queue (c : Core) (w : Word) : (c.setFlags w).queue = c.queue := rfl
@[simp] theorem Core.setFlags_nextSeq (c : Core) (w : Word) : (c.setFlags w).nextSeq = c.nextSeq := rfl
@[simp] theorem Core.setFlags_wait (c : Core) (w : Word) : (c.setFlags w).wait = c.wait := rfl
@[simp] theorem Core.setFlags_halt (c : Core) (w : Word) : (c.setFlags w).halt = c.halt := rfl
@[simp] theorem Core.setFlags_stopReq (c : Core) (w : Word) : (c.setFlags w).stopReq = c.stopReq := rfl
@[simp] theorem Core.setFlags_actions (c : Core) (w : Word) : (c.setFlags w).actions = c.actions := rfl
@[simp] theorem Core.setFlags_run (c : Core) (w : Word) : (c.setFlags w).run = c.run := rfl
@[simp] theorem Core.setFlags_runQ (c : Core) (w : Word) : (c.setFlags w).runQ = c.runQ := rfl
@[simp] theorem Core.setFlags_lastPc (c : Core) (w : Word) : (c.setFlags w).lastPc = c.lastPc := rfl
@[simp] theorem Core.setFlags_lastWhy (c : Core) (w : Word) : (c.setFlags w).lastWhy = c.lastWhy := rfl
@[simp] theorem Core.setFlags_tsLive (c : Core) (w : Word) : (c.setFlags w).tsLive = c.tsLive := rfl
@[simp] theorem Core.setFlags_tsStaged (c : Core) (w : Word) : (c.setFlags w).tsStaged = c.tsStaged := rfl
@[simp] theorem Core.setFlags_mpLive (c : Core) (w : Word) : (c.setFlags w).mpLive = c.mpLive := rfl
@[simp] theorem Core.setFlags_mpStaged (c : Core) (w : Word) : (c.setFlags w).mpStaged = c.mpStaged := rfl
@[simp] theorem Core.setFlags_staging (c : Core) (w : Word) : (c.setFlags w).staging = c.staging := rfl
@[simp] theorem Core.setFlags_pewter (c : Core) (w : Word) : (c.setFlags w).pewter = c.pewter := rfl
@[simp] theorem Core.setFlags_rows (c : Core) (w : Word) : (c.setFlags w).rows = c.rows := rfl
@[simp] theorem Core.setFlags_merged (c : Core) (w : Word) : (c.setFlags w).merged = c.merged := rfl
@[simp] theorem Core.setFlags_rsmDet (c : Core) (w : Word) : (c.setFlags w).rsmDet = c.rsmDet := rfl
@[simp] theorem Core.setFlags_curTag (c : Core) (w : Word) : (c.setFlags w).curTag = c.curTag := rfl
@[simp] theorem Core.setFlags_cyc (c : Core) (w : Word) : (c.setFlags w).cyc = c.cyc := rfl
@[simp] theorem Core.setFlags_time (c : Core) (w : Word) : (c.setFlags w).time = c.time := rfl
@[simp] theorem Core.setFlags_coast (c : Core) (w : Word) : (c.setFlags w).coast = c.coast := rfl
@[simp] theorem Core.setFlags_multChg (c : Core) (w : Word) : (c.setFlags w).multChg = c.multChg := rfl
@[simp] theorem Core.setFlags_satd (c : Core) (w : Word) : (c.setFlags w).satd = c.satd := rfl
@[simp] theorem Core.setFlags_xfers (c : Core) (w : Word) : (c.setFlags w).xfers = c.xfers := rfl
@[simp] theorem Core.setFlags_stage (c : Core) (w : Word) : (c.setFlags w).stage = c.stage := rfl
@[simp] theorem Core.setFlags_retained (c : Core) (w : Word) : (c.setFlags w).retained = c.retained := rfl
@[simp] theorem Core.setFlags_gated (c : Core) (w : Word) : (c.setFlags w).gated = c.gated := rfl

/-! ### Meanings -/

/-- What a meaning given by its effect on the block answers. -/
@[simp] theorem State.act_eq (s : State) (f : Dev → Dev) : s.act f = .next { s with dev := f s.dev } := rfl

end Sys2Proof.Machine
end

