-- ==== Sys2Proof/Laws/Events.lean ====
section
/-! SUPPORT. What an event record and a device event can change: registers, the module's pins, the ports, the recorder, and nothing else. -/
namespace Sys2Proof.Machine
open Sys2Proof

/-- `e` is `d` but for registers, the module's pins, the ports and the recorder. -/
def Dev.LogsTo (d e : Dev) : Prop := e = { d with regs := e.regs, sys := e.sys, portA := e.portA, portB := e.portB, recd := e.recd }

theorem Dev.LogsTo.refl (d : Dev) : d.LogsTo d := rfl

theorem Dev.LogsTo.trans {d e f : Dev} (h : d.LogsTo e) (g : e.LogsTo f) : d.LogsTo f := by
  unfold Dev.LogsTo at *
  rw [g, h]

theorem Dev.logsTo_wr (d : Dev) (f : Field) (v : Nat) : d.LogsTo (d.wr f v) := rfl

theorem Dev.logsTo_setPort (d : Dev) (p : PciePort) (x : Port) : d.LogsTo (d.setPort p x) := by cases p <;> rfl

theorem Dev.logsTo_recd (d : Dev) (x : Recorder) : d.LogsTo { d with recd := x } := rfl

/-- A message reaches no host's memory. -/
theorem Dev.logsTo_emit_msix (d : Dev) (p : PciePort) (v a b : Nat) : d.LogsTo (d.emit p (.msix v a b)) := by
  unfold Dev.emit Dev.issue
  dsimp only
  split
  · exact .refl d
  · split <;> exact d.logsTo_setPort _ _

theorem Dev.logsTo_raiseVec (d : Dev) (p : PciePort) (v : Nat) : d.LogsTo (d.raiseVec p v) := by
  unfold Dev.raiseVec
  dsimp only
  split
  · exact .refl d
  · split
    · exact d.logsTo_setPort _ _
    · exact d.logsTo_emit_msix _ _ _ _

theorem Dev.logsTo_sendEvent (d : Dev) : d.LogsTo d.sendEvent := by
  have one (e : Dev) (q : Prop) [Decidable q] (p : PciePort) (v : Nat) : e.LogsTo (if q then e.raiseVec p v else e) := by
    split
    · exact e.logsTo_raiseVec p v
    · exact .refl e
  unfold Dev.sendEvent
  split
  · exact d.logsTo_recd _
  · exact ((one _ _ _ _).trans (one _ _ _ _)).trans (Dev.logsTo_recd _ _)

theorem Dev.logsTo_deviceEvent (d : Dev) (f : Field) : d.LogsTo (d.deviceEvent f) := (d.logsTo_wr f 1).trans (Dev.logsTo_sendEvent _)

theorem Dev.logsTo_dropped (d : Dev) (n : Nat) : d.LogsTo (d.dropped n) := rfl

theorem Dev.logsTo_commitRec (d : Dev) (r : Rec) : d.LogsTo (d.commitRec r) := by
  unfold Dev.commitRec
  dsimp only
  split
  · rfl
  · split <;> rfl

/-- What holds of each step of a fold holds of the fold. -/
theorem Dev.logsTo_foldl {α : Type} (f : Dev → α → Dev) (h : ∀ e x, Dev.LogsTo e (f e x)) (l : List α) (d : Dev) : d.LogsTo (l.foldl f d) := by
  induction l generalizing d with
  | nil => exact .refl d
  | cons x r ih => exact (h d x).trans (ih _)

theorem Dev.logsTo_flushLog (d : Dev) : d.LogsTo d.flushLog := by
  unfold Dev.flushLog
  split
  · exact .refl d
  · exact (Dev.logsTo_foldl _ (fun e r => e.logsTo_commitRec r) _ _).trans (Dev.logsTo_recd _ _)

theorem Dev.logsTo_reserve (d : Dev) : d.LogsTo d.reserve := by
  unfold Dev.reserve
  dsimp only
  split
  · exact .refl d
  · split
    · exact d.logsTo_recd _
    · exact .refl d

theorem Dev.logsTo_bufPut (d : Dev) (r : Rec) : d.LogsTo (d.bufPut r) := by
  unfold Dev.bufPut
  dsimp only
  split
  · exact d.logsTo_recd _
  · split
    · exact d.logsTo_recd _
    · split
      · exact d.logsTo_recd _
      · exact d.logsTo_dropped _

/-- An event record changes registers, pins, ports and the recorder alone. -/
theorem Dev.logsTo_log (d : Dev) (sev source code : Nat) (payload : List Byte) : d.LogsTo (d.log sev source code payload) := by
  have alert (e : Dev) (q : Prop) [Decidable q] : e.LogsTo (if q then { e with sys := { e.sys with alertN := false } } else e) := by
    split <;> rfl
  have event (e : Dev) (q : Prop) [Decidable q] : e.LogsTo (if q then e.deviceEvent F.EVT_SEV else e) := by
    split
    · exact e.logsTo_deviceEvent _
    · exact .refl e
  have flush (e : Dev) (q : Prop) [Decidable q] : e.LogsTo (if q then e.flushLog else e) := by
    split
    · exact e.logsTo_flushLog
    · exact .refl e
  exact (((((d.logsTo_reserve).trans (Dev.logsTo_recd _ _)).trans (Dev.logsTo_bufPut _ _)).trans (alert _ _)).trans (event _ _)).trans
    (flush _ _)

/-! ### What stays -/

theorem Dev.LogsTo.fuses {d e : Dev} (h : d.LogsTo e) : e.fuses = d.fuses := by rw [h]
theorem Dev.LogsTo.cores {d e : Dev} (h : d.LogsTo e) : e.cores = d.cores := by rw [h]
theorem Dev.LogsTo.mem {d e : Dev} (h : d.LogsTo e) : e.mem = d.mem := by rw [h]
theorem Dev.LogsTo.tier {d e : Dev} (h : d.LogsTo e) : e.tier = d.tier := by rw [h]
theorem Dev.LogsTo.rings {d e : Dev} (h : d.LogsTo e) : e.rings = d.rings := by rw [h]
theorem Dev.LogsTo.hold {d e : Dev} (h : d.LogsTo e) : e.hold = d.hold := by rw [h]
theorem Dev.LogsTo.hit {d e : Dev} (h : d.LogsTo e) : e.hit = d.hit := by rw [h]
theorem Dev.LogsTo.links {d e : Dev} (h : d.LogsTo e) : e.links = d.links := by rw [h]
theorem Dev.LogsTo.cxe {d e : Dev} (h : d.LogsTo e) : e.cxe = d.cxe := by rw [h]
theorem Dev.LogsTo.twin {d e : Dev} (h : d.LogsTo e) : e.twin = d.twin := by rw [h]
theorem Dev.LogsTo.svc {d e : Dev} (h : d.LogsTo e) : e.svc = d.svc := by rw [h]
theorem Dev.LogsTo.env {d e : Dev} (h : d.LogsTo e) : e.env = d.env := by rw [h]
theorem Dev.LogsTo.runDone {d e : Dev} (h : d.LogsTo e) : e.runDone = d.runDone := by rw [h]
theorem Dev.LogsTo.acks {d e : Dev} (h : d.LogsTo e) : e.acks = d.acks := by rw [h]
theorem Dev.LogsTo.nextOrd {d e : Dev} (h : d.LogsTo e) : e.nextOrd = d.nextOrd := by rw [h]
theorem Dev.LogsTo.free {d e : Dev} (h : d.LogsTo e) : e.free = d.free := by rw [h]

end Sys2Proof.Machine
end

