-- ==== Sys2Proof/Laws/Mem.lean ====
section
/-! SUPPORT. The memory operations keep the canonical form of the memories: puts, landings, blocks, error checks, reads and writes of
flat addresses. -/
namespace Sys2Proof.Machine
open Sys2Proof

/-- The canonical form of the block's and the hosts' memories goes over from `d` to `e`. -/
def Dev.KeepsCanon (d e : Dev) : Prop := d.mem.wf = true → d.env.wf = true → e.mem.wf = true ∧ e.env.wf = true

theorem Dev.KeepsCanon.refl (d : Dev) : d.KeepsCanon d := fun m n => ⟨m, n⟩

theorem Dev.KeepsCanon.trans {d e f : Dev} (h : d.KeepsCanon e) (g : e.KeepsCanon f) : d.KeepsCanon f :=
  fun m n => have k := h m n; g k.1 k.2

/-- An update that leaves the stored bytes, the keep tier and the environment. -/
theorem Dev.keepsCanon_same {d e : Dev} (hb : e.mem.bytes = d.mem.bytes) (hk : e.mem.keep = d.mem.keep) (hv : e.env = d.env) :
    d.KeepsCanon e := by
  intro m n
  unfold Mem.wf at *
  rw [hb, hk, hv]
  exact ⟨m, n⟩

theorem Dev.LogsTo.keepsCanon {d e : Dev} (h : d.LogsTo e) : d.KeepsCanon e :=
  Dev.keepsCanon_same (by rw [h.mem]) (by rw [h.mem]) h.env

theorem Dev.keepsCanon_wr (d : Dev) (f : Field) (v : Nat) : d.KeepsCanon (d.wr f v) := Dev.keepsCanon_same rfl rfl rfl

theorem Dev.keepsCanon_setCore (d : Dev) (n : Nat) (c : Core) : d.KeepsCanon (d.setCore n c) := Dev.keepsCanon_same rfl rfl rfl

theorem Dev.keepsCanon_setRing (d : Dev) (r : Nat) (x : Ring) : d.KeepsCanon (d.setRing r x) := Dev.keepsCanon_same rfl rfl rfl

theorem Dev.keepsCanon_setLink (d : Dev) (p : Nat) (l : Link) : d.KeepsCanon (d.setLink p l) := Dev.keepsCanon_same rfl rfl rfl

theorem Dev.keepsCanon_setPort (d : Dev) (p : PciePort) (x : Port) : d.KeepsCanon (d.setPort p x) := (d.logsTo_setPort p x).keepsCanon

theorem Dev.keepsCanon_poke (d : Dev) (a : Nat) (bs : List Byte) : d.KeepsCanon (d.poke a bs) := by
  intro m n
  simp only [Mem.wf, Bool.and_eq_true, Dev.poke] at *
  exact ⟨⟨wf_putBytes _ _ _ m.1, m.2⟩, n⟩

theorem Dev.keepsCanon_keepPut (d : Dev) (b : Nat) (bs : List Byte) : d.KeepsCanon (d.keepPut b bs) := by
  intro m n
  simp only [Mem.wf, Bool.and_eq_true, Dev.keepPut] at *
  exact ⟨⟨m.1, wf_putBytes _ _ _ m.2⟩, n⟩

theorem Dev.keepsCanon_hostLand (d : Dev) (p : PciePort) (a : Nat) (bs : List Byte) : d.KeepsCanon (d.hostLand p a bs) := by
  intro m n
  cases p
  · simp only [Env.wf, Bool.and_eq_true, Dev.hostLand] at *
    exact ⟨m, wf_putBytes _ _ _ n.1, n.2⟩
  · simp only [Env.wf, Bool.and_eq_true, Dev.hostLand] at *
    exact ⟨m, n.1, wf_putBytes _ _ _ n.2⟩

/-- What holds of each step of a fold holds of the fold. -/
theorem Dev.keepsCanon_foldl {α : Type} (f : Dev → α → Dev) (h : ∀ e x, Dev.KeepsCanon e (f e x)) (l : List α) (d : Dev) :
    d.KeepsCanon (l.foldl f d) := by
  induction l generalizing d with
  | nil => exact .refl d
  | cons x r ih => exact (h d x).trans (ih _)

theorem Dev.keepsCanon_issue (d : Dev) (p : PciePort) (o : PortOut) : d.KeepsCanon (d.issue p o) := by
  unfold Dev.issue
  dsimp only
  split
  · exact (d.keepsCanon_setPort p _).trans (Dev.keepsCanon_hostLand _ _ _ _)
  · exact (d.keepsCanon_setPort p _).trans (Dev.keepsCanon_hostLand _ _ _ _)
  · exact d.keepsCanon_setPort p _

theorem Dev.keepsCanon_emit (d : Dev) (p : PciePort) (o : PortOut) : d.KeepsCanon (d.emit p o) := by
  unfold Dev.emit
  dsimp only
  split
  · exact .refl d
  · split
    · exact d.keepsCanon_setPort p _
    · exact d.keepsCanon_issue p o

theorem Dev.keepsCanon_log (d : Dev) (sev source code : Nat) (bs : List Byte) : d.KeepsCanon (d.log sev source code bs) :=
  (d.logsTo_log _ _ _ _).keepsCanon

theorem Dev.keepsCanon_logWrite (d : Dev) (source a sq : Nat) : d.KeepsCanon (d.logWrite source a sq) := d.keepsCanon_log _ _ _ _

theorem Dev.keepsCanon_logAccess (d : Dev) (source : Nat) (st : St) (a : Nat) : d.KeepsCanon (d.logAccess source st a) :=
  d.keepsCanon_log _ _ _ _

/-! ### Units -/

theorem Dev.keepsCanon_countErr (d : Dev) (r : Region) (ue : Bool) : d.KeepsCanon (d.countErr r ue) := by
  cases r <;> exact Dev.keepsCanon_same rfl rfl rfl

theorem Dev.keepsCanon_uncorrectable (d : Dev) (r : Region) (u : Nat) : d.KeepsCanon (d.uncorrectable r u) := by
  unfold Dev.uncorrectable
  dsimp only
  refine Dev.KeepsCanon.trans ?_ ((Dev.keepsCanon_countErr _ _ _).trans (Dev.keepsCanon_logAccess _ _ _ _))
  split <;> exact Dev.keepsCanon_same rfl rfl rfl

theorem Dev.keepsCanon_corrected (d : Dev) (r : Region) (u : Nat) : d.KeepsCanon (d.corrected r u) := by
  unfold Dev.corrected
  dsimp only
  refine Dev.KeepsCanon.trans ?_ (Dev.keepsCanon_countErr _ _ _)
  cases r <;> exact Dev.keepsCanon_same rfl rfl rfl

theorem Dev.keepsCanon_checkUnit (d : Dev) (r : Region) (u : Nat) : d.KeepsCanon (d.checkUnit r u).1 := by
  unfold Dev.checkUnit
  split
  · exact d.keepsCanon_uncorrectable r u
  · split
    · exact d.keepsCanon_corrected r u
    · exact .refl d

/-- A unit without an error reads, and the check changes nothing. -/
theorem Dev.checkUnit_clean (d : Dev) (r : Region) (u : Nat) (h : u ∉ d.mem.poison ∧ u ∉ d.mem.latentU ∧ u ∉ d.mem.latentC) :
    d.checkUnit r u = (d, true) := by
  simp [Dev.checkUnit, h]

/-- What holds of each step of a fold with a result beside the block holds of the fold. -/
theorem Dev.keepsCanon_foldlFst {α β : Type} (f : Dev × β → α → Dev × β) (h : ∀ x u, Dev.KeepsCanon x.1 (f x u).1) (l : List α)
    (x : Dev × β) : x.1.KeepsCanon (l.foldl f x).1 := by
  induction l generalizing x with
  | nil => exact .refl _
  | cons u r ih => exact (h x u).trans (ih _)

theorem Dev.keepsCanon_farReadable (d : Dev) (a : Nat) : d.KeepsCanon (d.farReadable a).1 := by
  unfold Dev.farReadable
  split
  · exact .refl d
  · refine Dev.keepsCanon_foldlFst _ (fun x o => ?_) _ (d, true)
    split
    · exact Dev.keepsCanon_checkUnit _ _ _
    · exact .refl _

theorem Dev.keepsCanon_mirrorSource (ks : List Nat) (d : Dev) (a : Nat) : d.KeepsCanon (d.mirrorSource a ks).1 := by
  induction ks generalizing d with
  | nil => exact .refl d
  | cons k r ih =>
    unfold Dev.mirrorSource
    split
    · exact ih d
    · dsimp only
      split
      · exact d.keepsCanon_farReadable _
      · exact (d.keepsCanon_farReadable _).trans (ih _)

/-- Sending a packet changes no byte. -/
theorem Dev.keepsCanon_sendPkt (d : Dev) (k : Pkt) : d.KeepsCanon (d.sendPkt k).1 := by
  unfold Dev.sendPkt
  split
  · exact .refl d
  · split
    · exact Dev.keepsCanon_same rfl rfl rfl
    · split <;> exact Dev.keepsCanon_same rfl rfl rfl

theorem Dev.keepsCanon_askTwin (d : Dev) (k a : Nat) (st : St) : d.KeepsCanon (d.askTwin k a st).1 :=
  (d.keepsCanon_sendPkt _).trans (Dev.keepsCanon_same rfl rfl rfl)

/-- Losing the partner changes no byte. -/
theorem Dev.keepsCanon_partnerGone (d : Dev) : d.KeepsCanon d.partnerGone := by
  unfold Dev.partnerGone
  split
  · exact .refl d
  · dsimp only
    refine Dev.KeepsCanon.trans ?_ (Dev.logsTo_deviceEvent _ _).keepsCanon
    refine Dev.KeepsCanon.trans ?_ (Dev.keepsCanon_log _ _ _ _ _)
    refine Dev.KeepsCanon.trans ?_ (Dev.keepsCanon_wr _ _ _)
    refine Dev.KeepsCanon.trans ?_ (Dev.keepsCanon_wr _ _ _)
    exact Dev.keepsCanon_same rfl rfl rfl

/-- Rebuilding a line keeps the canonical form. -/
theorem Dev.keepsCanon_rebuildLine (d : Dev) (s : Sweep) (i : Nat) (twin : St × List Byte) : d.KeepsCanon (d.rebuildLine s i twin).1 := by
  have clean (e : Dev) (ws : List Nat) : e.KeepsCanon { e with mem := { e.mem with
      poison := e.mem.poison.filter (fun w => w ∉ ws)
      latentU := e.mem.latentU.filter (fun w => w ∉ ws)
      latentC := e.mem.latentC.filter (fun w => w ∉ ws) } } := Dev.keepsCanon_same rfl rfl rfl
  have poison (e : Dev) (a : Nat) (ws p u c : List Nat) : e.KeepsCanon ((({ e with mem := { e.mem with
      poison := ws.foldl NatSet.ins p, latentU := u, latentC := c } } : Dev).poke a (List.replicate 256 0)).wr F.NEAR_POISON 1) :=
    (Dev.KeepsCanon.trans (Dev.keepsCanon_same rfl rfl rfl) (Dev.keepsCanon_poke _ a _)).trans (Dev.keepsCanon_wr _ F.NEAR_POISON 1)
  have old (e : Dev) (q : Prop) [Decidable q] (bs : List Byte) :
      e.KeepsCanon (if q then (e.wr F.TWIN_OLD_LINE 1).log 2 0x340 0x111 bs else e) := by
    split
    · exact (e.keepsCanon_wr _ _).trans (Dev.keepsCanon_log _ _ _ _ _)
    · exact .refl e
  unfold Dev.rebuildLine
  dsimp only
  split
  · exact .refl d
  · split
    · exact .refl d
    · split
      · exact poison _ _ _ _ _ _
      · have h := d.keepsCanon_mirrorSource ((List.range 16).filter (fun k => decide (d.rd (F.MIR_LEN k) ≠ 0))) (lineAddr s.l i)
        generalize d.mirrorSource (lineAddr s.l i) ((List.range 16).filter (fun k => decide (d.rd (F.MIR_LEN k) ≠ 0))) = m at h ⊢
        refine h.trans ?_
        split
        · exact (clean _ _).trans (Dev.keepsCanon_poke _ _ _)
        · split
          · exact poison _ _ _ _ _ _
          · split
            · exact (Dev.keepsCanon_wr _ _ _).trans (poison _ _ _ _ _ _)
            · split
              · exact poison _ _ _ _ _ _
              · rename_i k _ _ _
                have hq := m.1.keepsCanon_askTwin k (lineAddr s.l i) twin.1
                generalize m.1.askTwin k (lineAddr s.l i) twin.1 = q at hq ⊢
                refine hq.trans ?_
                split
                · exact poison _ _ _ _ _ _
                · split
                  · exact ((old _ _ _).trans (clean _ _)).trans (Dev.keepsCanon_poke _ _ _)
                  · refine Dev.KeepsCanon.trans ?_ (poison _ _ _ _ _ _)
                    split
                    · exact (Dev.keepsCanon_partnerGone _).trans (Dev.keepsCanon_wr _ _ _)
                    · exact Dev.keepsCanon_wr _ _ _

theorem Dev.keepsCanon_setSweep (d : Dev) (s : Sweep) : d.KeepsCanon (d.setSweep s) := Dev.keepsCanon_same rfl rfl rfl

theorem Dev.keepsCanon_twinLine (d : Dev) : d.KeepsCanon d.twinLine.1 := Dev.keepsCanon_same rfl rfl rfl

theorem Dev.keepsCanon_demand (d : Dev) (a : Nat) : d.KeepsCanon (d.demand a) := by
  unfold Dev.demand
  split
  · exact .refl d
  · split
    · exact .refl d
    · exact (d.keepsCanon_twinLine.trans (Dev.keepsCanon_rebuildLine _ _ _ _)).trans (Dev.keepsCanon_setSweep _ _)

/-! ### Reads -/

theorem Dev.keepsCanon_wakeLs (d : Dev) (r : Region) : d.KeepsCanon (d.wakeLs r) := by
  unfold Dev.wakeLs
  split
  · dsimp only
    split
    · exact d.keepsCanon_setCore _ _
    · exact .refl d
  · exact .refl d

theorem Dev.keepsCanon_readUnits (r : Region) (us : List Nat) (d : Dev) : d.KeepsCanon (d.readUnits r us).1 := by
  induction us generalizing d with
  | nil => exact .refl d
  | cons u rest ih =>
    have go (e : Dev) (h : d.KeepsCanon e) : d.KeepsCanon
        (if (e.checkUnit r u).2 = true then (e.checkUnit r u).1.readUnits r rest else ((e.checkUnit r u).1, some u)).1 := by
      split
      · exact (h.trans (e.keepsCanon_checkUnit _ _)).trans (ih _)
      · exact h.trans (e.keepsCanon_checkUnit _ _)
    unfold Dev.readUnits
    split
    · exact .refl d
    · cases r
      case near => exact go _ (d.keepsCanon_demand u)
      all_goals exact go d (.refl d)

theorem Dev.keepsCanon_readSeg (d : Dev) (r : Region) (a n : Nat) : d.KeepsCanon (d.readSeg r a n).1 := by
  have units : d.KeepsCanon ((d.wakeLs r).readUnits r (unitsOf a n r.unit)).1 :=
    (d.keepsCanon_wakeLs r).trans (Dev.keepsCanon_readUnits _ _ _)
  unfold Dev.readSeg
  split
  · split
    · exact .refl d
    · split
      · exact .refl d
      · exact .refl d
  · dsimp only
    split <;> exact units

theorem Dev.keepsCanon_loadGo (fuel : Nat) (d : Dev) (a n : Nat) (acc : List Byte) : d.KeepsCanon (d.loadGo a n fuel acc).1 := by
  induction fuel generalizing d a n acc with
  | zero => exact .refl d
  | succ k ih =>
    unfold Dev.loadGo
    split
    · exact .refl d
    · split
      · exact .refl d
      · dsimp only
        split
        · exact (d.keepsCanon_readSeg _ _ _).trans (ih _ _ _ _)
        · exact d.keepsCanon_readSeg _ _ _

/-- A read of a flat address keeps the canonical form. -/
theorem Dev.keepsCanon_load (d : Dev) (a n : Nat) : d.KeepsCanon (d.load a n).1 := Dev.keepsCanon_loadGo _ _ _ _ _

/-! ### Writes -/

theorem Dev.keepsCanon_markFinite (d : Dev) (a n : Nat) (fin : Nat → Bool) : d.KeepsCanon (d.markFinite a n fin) :=
  Dev.keepsCanon_same rfl rfl rfl

theorem Dev.keepsCanon_codeLive (d : Dev) (a n : Nat) : d.KeepsCanon (d.codeLive a n) := by
  refine Dev.keepsCanon_foldl _ (fun e x => ?_) _ _
  dsimp only
  split
  · split
    · exact .refl e
    · exact (e.keepsCanon_setCore _ _).trans (Dev.keepsCanon_log _ _ _ _ _)
  · exact .refl e

theorem Dev.keepsCanon_writeUnit (d : Dev) (r : Region) (u a : Nat) (bs : List Byte) (sq : Nat) :
    d.KeepsCanon (d.writeUnit r u a bs sq).1 := by
  unfold Dev.writeUnit
  dsimp only
  split
  · exact .refl d
  · split
    · exact (Dev.keepsCanon_same rfl rfl rfl).trans (Dev.keepsCanon_poke _ _ _)
    · split
      · split
        · exact .refl d
        · exact .refl d
        · exact d.keepsCanon_logWrite _ _ _
      · split
        · exact (d.keepsCanon_checkUnit _ _).trans (Dev.keepsCanon_poke _ _ _)
        · exact d.keepsCanon_checkUnit _ _

theorem Dev.keepsCanon_beforeWrite (d : Dev) (r : Region) (a n : Nat) : d.KeepsCanon (d.beforeWrite r a n) := by
  unfold Dev.beforeWrite
  split
  · split
    · exact .refl d
    · refine Dev.keepsCanon_foldl _ (fun e u => ?_) _ _
      dsimp only
      split
      · exact .refl e
      · split
        · exact e.keepsCanon_setSweep _
        · split
          · exact (e.keepsCanon_demand _).trans (Dev.keepsCanon_setSweep _ _)
          · exact e.keepsCanon_demand _
  · exact .refl d

theorem Dev.keepsCanon_afterWrite (d : Dev) (r : Region) (a n : Nat) (fin : Nat → Bool) : d.KeepsCanon (d.afterWrite r a n fin) := by
  unfold Dev.afterWrite
  split
  · exact d.keepsCanon_markFinite _ _ _
  · exact (d.keepsCanon_wr _ _).trans (Dev.keepsCanon_codeLive _ _ _)
  · exact .refl d

theorem Dev.keepsCanon_writeWin (d : Dev) (p : PciePort) (a : Nat) (bs : List Byte) (sq : Nat) : d.KeepsCanon (d.writeWin p a bs sq).dev := by
  have go (us : List (Nat × Nat × List Byte)) (e : Dev) :
      e.KeepsCanon (us.foldl (fun e u => e.emit p (.write (u.2.1 % 2 ^ 64) u.2.2 sq)) e) := by
    induction us generalizing e with
    | nil => exact .refl e
    | cons u rest ih => exact (e.keepsCanon_emit _ _).trans (ih _)
  unfold Dev.writeWin
  split
  · exact .refl d
  · split
    · exact .refl d
    · exact go _ d

theorem Dev.keepsCanon_writeSeg (d : Dev) (r : Region) (a : Nat) (bs : List Byte) (sq : Nat) (fin : Nat → Bool) (halt : Bool) :
    d.KeepsCanon (d.writeSeg r a bs sq fin halt).dev := by
  have go (us : List (Nat × Nat × List Byte)) (x : Res) : x.dev.KeepsCanon (us.foldl (fun (x : Res) u =>
      if halt && decide (x.st ≠ stOk) then x
      else
        let y := x.dev.writeUnit r u.1 u.2.1 u.2.2 sq
        if y.2 then ⟨y.1.afterWrite r u.2.1 u.2.2.length fin, x.st, if x.st = stOk then x.done + u.2.2.length else x.done⟩
        else ⟨y.1, stMemUnc, x.done⟩) x).dev := by
    induction us generalizing x with
    | nil => exact .refl _
    | cons u rest ih =>
      refine Dev.KeepsCanon.trans ?_ (ih _)
      dsimp only
      split
      · exact .refl _
      · split
        · exact (Dev.keepsCanon_writeUnit _ _ _ _ _ _).trans (Dev.keepsCanon_afterWrite _ _ _ _ _)
        · exact Dev.keepsCanon_writeUnit _ _ _ _ _ _
  unfold Dev.writeSeg
  split
  · exact d.keepsCanon_writeWin _ _ _ _
  · exact ((d.keepsCanon_wakeLs _).trans (Dev.keepsCanon_beforeWrite _ _ _ _)).trans (go _ ⟨_, stOk, 0⟩)

theorem Dev.keepsCanon_storeGo (fuel : Nat) (d : Dev) (a : Nat) (bs : List Byte) (sq : Nat) (fin : Nat → Bool) (n : Nat) (st : St)
    (halt : Bool) : d.KeepsCanon (d.storeGo a bs sq fin fuel n st halt).dev := by
  induction fuel generalizing d a bs n st with
  | zero => exact .refl d
  | succ k ih =>
    unfold Dev.storeGo
    split
    · exact .refl d
    · split
      · exact .refl d
      · dsimp only
        split
        · exact d.keepsCanon_writeSeg _ _ _ _ _ _
        · exact (d.keepsCanon_writeSeg _ _ _ _ _ _).trans (ih _ _ _ _ _)

/-- A write of a flat address keeps the canonical form. -/
theorem Dev.keepsCanon_store (d : Dev) (a : Nat) (bs : List Byte) (sq : Nat) (fin : Nat → Bool) (halt : Bool) :
    d.KeepsCanon (d.store a bs sq fin halt).dev :=
  Dev.keepsCanon_storeGo _ _ _ _ _ _ _ _ _

theorem Dev.keepsCanon_storeRaw (d : Dev) (a : Nat) (bs : List Byte) (sq : Nat) : d.KeepsCanon (d.storeRaw a bs sq).dev :=
  d.keepsCanon_store _ _ _ _ _

theorem Dev.keepsCanon_collide (d : Dev) (n : Nat) : d.KeepsCanon (d.collide n) := by
  unfold Dev.collide
  split
  · exact .refl d
  · exact d.keepsCanon_wr _ _

theorem Dev.keepsCanon_storeShared (pieces : List (List Byte)) (d : Dev) (a sq : Nat) (fin : Nat → Bool) (owner : Option Nat) (drops : Drops)
    (k n : Nat) (st : St) (halt : Bool) : d.KeepsCanon (d.storeShared a pieces sq fin owner drops k n st halt).1.dev := by
  induction pieces generalizing d a k n st with
  | nil => exact .refl d
  | cons bs rest ih =>
    unfold Dev.storeShared
    dsimp only
    generalize (if d.isShared (a % 2 ^ 64) owner then Tab.get drops k 0 else 0) = m
    have h := (d.keepsCanon_collide m).trans (Dev.keepsCanon_store _ a bs sq fin halt)
    split
    · exact d.keepsCanon_collide _
    · split
      · exact h.trans (ih _ _ _ _ _)
      · exact h

/-- A write that may collide keeps the canonical form. -/
theorem Dev.keepsCanon_storeC (d : Dev) (a : Nat) (bs : List Byte) (sq : Nat) (fin : Nat → Bool) (owner : Option Nat) (drops : Drops) (k : Nat)
    (halt : Bool) : d.KeepsCanon (d.storeC a bs sq fin owner drops k halt).1.dev := by
  unfold Dev.storeC
  split <;> exact Dev.keepsCanon_storeShared _ _ _ _ _ _ _ _ _ _ _

/-- The state after reset has the canonical form. -/
theorem reset_canon : State.reset.dev.mem.wf = true ∧ State.reset.dev.env.wf = true := by decide

end Sys2Proof.Machine
end

