-- ==== Sys2Proof/Laws/Access.lean ====
section
/-! SUPPORT. Reads of ranges without errors, failed lines or rebuilds: they answer the stored bytes and change nothing. -/
namespace Sys2Proof.Machine
open Sys2Proof

theorem mem_unitsOf (a n unit u : Nat) (h : u ∈ unitsOf a n unit) : a / unit * unit ≤ u ∧ u < a + n := by
  unfold unitsOf at h
  split at h
  · exact absurd h List.not_mem_nil
  · rename_i hn
    obtain ⟨i, hi, rfl⟩ := List.mem_map.1 h
    have hi := List.mem_range.1 hi
    have hd : a / unit ≤ (a + n - 1) / unit := Nat.div_le_div_right (by omega)
    have hle : a / unit + i ≤ (a + n - 1) / unit := by omega
    refine ⟨Nat.mul_le_mul_right _ (by omega), ?_⟩
    have := Nat.mul_le_mul_right unit hle
    have := Nat.div_mul_le_self (a + n - 1) unit
    omega

/-- Units that are clean and stand, with no sweep under way, are read without effect. -/
theorem Dev.readUnits_clean (d : Dev) (r : Region) (us : List Nat) (hs : r = .near → d.tier.sweeps = [])
    (h : ∀ u ∈ us, d.lineLost r u = false ∧ d.cleanAt u) : d.readUnits r us = (d, none) := by
  have demand (hr : r = .near) (u : Nat) : d.demand u = d := by simp [Dev.demand, hs hr]
  induction us with
  | nil => rfl
  | cons u rest ih =>
    have hu := h u List.mem_cons_self
    unfold Dev.readUnits
    rw [hu.1]
    have hc : d.checkUnit r u = (d, true) := d.checkUnit_clean r u hu.2
    cases r <;> simp [demand, hc, ih (fun v hv => h v (List.mem_cons_of_mem _ hv))]

theorem Dev.nearTop_le (d : Dev) : d.nearTop ≤ 0x040000000000 := by
  simp only [Dev.nearTop]
  omega

theorem Dev.region_near (d : Dev) (a : Nat) (h : a < d.nearTop) : d.region a = some (.near, 0, d.nearTop) := by simp [Dev.region, h]

theorem Dev.region_ingot (d : Dev) (a : Nat) (h : ingotBase ≤ a) (h2 : a < ingotBase + 0x80000000) :
    d.region a = some (.ingot, ingotBase, ingotBase + 0x80000000) := by
  have := d.nearTop_le
  have hn : ¬ a < d.nearTop := by unfold ingotBase at h; omega
  have hf : ¬ (farBase ≤ a ∧ a < 0x068000000000) := by unfold ingotBase at h; omega
  simp [Dev.region, hn, hf, h, h2]

/-- A read of part of one of the block's own stores that is clean, awake and in one piece. -/
theorem Dev.load_clean (d : Dev) (a n : Nat) (r : Region) (b e : Nat) (hr : d.region a = some (r, b, e)) (ho : r.own = true)
    (ha : a < 2 ^ 64) (hn : a + n ≤ e) (hw : d.wakeLs r = d) (hs : r = .near → d.tier.sweeps = [])
    (h : ∀ u, a / r.unit * r.unit ≤ u → u < a + n → d.lineLost r u = false ∧ d.cleanAt u) : d.load a n = (d, stOk, d.peek a n) := by
  have hm : a % 2 ^ 64 = a := Nat.mod_eq_of_lt ha
  have seg : d.readSeg r a n = (d, stOk, d.peek a n) := by
    have hx : d.readUnits r (unitsOf a n r.unit) = (d, none) :=
      d.readUnits_clean r _ hs (fun u hm => h u (mem_unitsOf a n _ u hm).1 (mem_unitsOf a n _ u hm).2)
    cases r <;> first | (exact absurd ho Bool.false_ne_true) | simp [Dev.readSeg, hw, hx]
  unfold Dev.load
  unfold Dev.loadGo
  by_cases hz : n = 0
  · subst hz; rfl
  · have hmin : min n (e - a) = n := by omega
    rw [if_neg hz, hm, hr]
    dsimp only
    rw [hmin, seg]
    dsimp only
    rw [if_pos rfl, Nat.sub_self]
    unfold Dev.loadGo
    rw [if_pos rfl, List.nil_append]

/-- A read of clean bytes below the near tier's top, with no pseudo-channel being rebuilt or waiting for its PC_RETIRE. -/
theorem Dev.load_near (d : Dev) (a n : Nat) (hn : a + n ≤ d.nearTop) (hs : d.tier.sweeps = []) (hw : d.tier.awaiting = [])
    (h : ∀ u, a / 64 * 64 ≤ u → u < a + n → d.cleanAt u) : d.load a n = (d, stOk, d.peek a n) := by
  by_cases hz : n = 0
  · subst hz; rfl
  · have := d.nearTop_le
    refine d.load_clean a n .near 0 d.nearTop (d.region_near a (by omega)) rfl (by omega) hn rfl (fun _ => hs) (fun u h1 h2 => ⟨?_, h u h1 h2⟩)
    simp [Dev.lineLost, hw]

/-- A read of clean bytes of the Ingot. -/
theorem Dev.load_ingot (d : Dev) (a n : Nat) (ha : ingotBase ≤ a) (hn : a + n ≤ ingotBase + 0x80000000)
    (h : ∀ u, a / 16 * 16 ≤ u → u < a + n → d.cleanAt u) : d.load a n = (d, stOk, d.peek a n) := by
  by_cases hz : n = 0
  · subst hz; rfl
  · exact d.load_clean a n .ingot _ _ (d.region_ingot a ha (by omega)) rfl (by unfold ingotBase at hn; omega) hn rfl nofun
      (fun u h1 h2 => ⟨rfl, h u h1 h2⟩)

end Sys2Proof.Machine
end

