-- ==== Sys2Proof/Laws/Engines.lean ====
section
/-! SUPPORT. What the shared operations of the front end, the engines, the rings and the register commands can do, each said once. -/
namespace Sys2Proof.Machine
open Sys2Proof

/-- A control instruction leaves the block as it is, stops its core for an illegal register code, or gives its core `f` of it. -/
theorem Dev.ctrl_cases (d : Dev) (n : Nat) (o : CtrlOp) (rd ra rb : BitVec 6) (bi : Bool) (imm : Word) (f : Core → Core) :
    d.ctrl n o rd ra rb bi imm f = d ∨
    ((d.core n).issuing = true ∧ ctrlLegal o rd ra rb bi = false ∧
      d.ctrl n o rd ra rb bi imm f = d.setCore n ((d.core n).frontFault stBadOpcode)) ∨
    ((d.core n).issuing = true ∧ ctrlLegal o rd ra rb bi = true ∧ (d.core n).ready (.ctrl o rd ra rb bi imm) = true ∧
      d.ctrl n o rd ra rb bi imm f = d.setCore n (f (d.core n))) := by
  unfold Dev.ctrl
  dsimp only
  split
  · split
    · split
      · exact .inr (.inr ⟨‹_›, ‹_›, ‹_›, rfl⟩)
      · exact .inl rfl
    · exact .inr (.inl ⟨‹_›, by simp_all, rfl⟩)
  · exact .inl rfl

/-- A control instruction that may issue, is legal and finds its registers ready has its effect. -/
theorem Dev.ctrl_runs (d : Dev) (n : Nat) (o : CtrlOp) (rd ra rb : BitVec 6) (bi : Bool) (imm : Word) (f : Core → Core)
    (h : (d.core n).issuing = true) (hl : ctrlLegal o rd ra rb bi = true) (hr : (d.core n).ready (.ctrl o rd ra rb bi imm) = true) :
    d.ctrl n o rd ra rb bi imm f = d.setCore n (f (d.core n)) := by
  simp [Dev.ctrl, h, hl, hr]

/-- A control instruction changes nothing but its core. -/
theorem Dev.ctrl_frame (d : Dev) (n : Nat) (o : CtrlOp) (rd ra rb : BitVec 6) (bi : Bool) (imm : Word) (f : Core → Core) :
    ∃ c, d.ctrl n o rd ra rb bi imm f = d ∨ d.ctrl n o rd ra rb bi imm f = d.setCore n c := by
  rcases d.ctrl_cases n o rd ra rb bi imm f with h | ⟨-, -, h⟩ | ⟨-, -, -, h⟩
  · exact ⟨d.core n, .inl h⟩
  · exact ⟨_, .inr h⟩
  · exact ⟨_, .inr h⟩

/-- A sync instruction leaves the block as it is, stops its core for an illegal form, or sets its wait and tries its drain. -/
theorem Dev.sync_cases (d : Dev) (n : Nat) (o : SyncOp) (s : BitVec 5) (a : BitVec 4) (cmp : BitVec 3) (f : Core → Core) :
    d.sync n o s a cmp f = d ∨
    ((d.core n).issuing = true ∧ syncLegal o cmp = false ∧ d.sync n o s a cmp f = d.setCore n ((d.core n).frontFault stBadOpcode)) ∨
    ((d.core n).issuing = true ∧ syncLegal o cmp = true ∧ (d.core n).ready (.sync o s a cmp 0 0) = true ∧
      d.sync n o s a cmp f = (d.setCore n (f (d.core n))).drainDone n) := by
  unfold Dev.sync
  dsimp only
  split
  · split
    · split
      · exact .inr (.inr ⟨‹_›, ‹_›, ‹_›, rfl⟩)
      · exact .inl rfl
    · exact .inr (.inl ⟨‹_›, by simp_all, rfl⟩)
  · exact .inl rfl

/-- The head of an engine's queue does not start, or starts and has its effect, or stops its core for a fault. -/
theorem Dev.runHead_cases (d : Dev) (n : Nat) (eng : Eng) (pick : CoreInstr → Option (Dev → QEntry → Eff)) :
    d.runHead n eng pick = d ∨ ∃ e f, (d.core n).status = .running ∧ (d.core n).head eng = some e ∧ pick e.instr = some f ∧
      d.released n e = true ∧ (f d e).st ≠ stWait ∧
      (((f d e).st = stOk ∧ d.runHead n eng pick = (f d e).dev.setCore n (((f d e).dev.core n).setEntry
          { e with started := true, ran := (f d e).ran, flags := BitVec.ofNat 32 (f d e).flags })) ∨
        ((f d e).st ≠ stOk ∧ d.runHead n eng pick =
          ((f d e).dev.setCore n (((f d e).dev.core n).engineFault e (f d e).st)).settleStop n)) := by
  unfold Dev.runHead
  dsimp only
  split
  · split
    · exact .inl rfl
    · split
      · split
        · exact .inl rfl
        · split
          · exact .inr ⟨_, _, ‹_›, ‹_›, ‹_›, ‹_›, ‹_›, .inl ⟨‹_›, rfl⟩⟩
          · exact .inr ⟨_, _, ‹_›, ‹_›, ‹_›, ‹_›, ‹_›, .inr ⟨‹_›, rfl⟩⟩
      · exact .inl rfl
  · exact .inl rfl

/-- The head of an engine's queue that `pick` answers for, and that the scoreboard releases, has its effect where it does not fault. -/
theorem Dev.runHead_runs (d : Dev) (n : Nat) (eng : Eng) (pick : CoreInstr → Option (Dev → QEntry → Eff)) (e : QEntry)
    (f : Dev → QEntry → Eff) (hs : (d.core n).status = .running) (hh : (d.core n).head eng = some e) (hp : pick e.instr = some f)
    (hr : d.released n e = true) (ho : (f d e).st = stOk) :
    d.runHead n eng pick = (f d e).dev.setCore n (((f d e).dev.core n).setEntry
      { e with started := true, ran := (f d e).ran, flags := BitVec.ofNat 32 (f d e).flags }) := by
  have hw : stOk ≠ stWait := by decide
  simp [Dev.runHead, hs, hh, hp, hr, ho, hw]

/-- A descriptor is not taken up, or fails a check of R398, or waits, or is taken up with or without its outcome. -/
theorem Dev.runDesc_cases (d : Dev) (r : Nat) (k : Word) (op : Nat) (f : DescRun) :
    d.runDesc r k op f = d ∨ ∃ y, d.desc r k = some y ∧ d.engineOn op = true ∧ y.op = op ∧ y.taken = false ∧ y.outcome = none ∧
      d.firstForEngine y = true ∧
      ((∃ e st, d.precheck r y = some (e, st) ∧ d.runDesc r k op f = e.setOutcome r k st noResult) ∨
       (d.precheck r y = none ∧
        ((∃ st res, (f d y).2 = some (st, res) ∧ st ≠ stWait ∧
            d.runDesc r k op f = (f d y).1.setOutcome r k st ((res ++ noResult).take 16)) ∨
         ((f d y).2 = none ∧ d.runDesc r k op f = (f d y).1.mapDesc r k (fun z => { z with taken := true }))))) := by
  unfold Dev.runDesc
  split
  · exact .inl rfl
  · rename_i y hy
    split
    · rename_i h
      have hh : ((((d.engineOn op = true ∧ y.op = op) ∧ y.taken = false) ∧ y.outcome = none) ∧ d.firstForEngine y = true) := by simpa using h
      obtain ⟨⟨⟨⟨h1, h2⟩, h3⟩, h4⟩, h5⟩ := hh
      split
      · rename_i e st he
        exact .inr ⟨y, hy, h1, h2, h3, h4, h5, .inl ⟨e, st, he, rfl⟩⟩
      · rename_i he
        dsimp only
        split
        · rename_i st res hx
          split
          · exact .inl rfl
          · exact .inr ⟨y, hy, h1, h2, h3, h4, h5, .inr ⟨he, .inl ⟨st, res, hx, ‹_›, rfl⟩⟩⟩
        · rename_i hx
          exact .inr ⟨y, hy, h1, h2, h3, h4, h5, .inr ⟨he, .inr ⟨hx, rfl⟩⟩⟩
    · exact .inl rfl

/-- A descriptor that its engine takes up and that ends with a status at once. -/
theorem Dev.runDesc_ends (d : Dev) (r : Nat) (k : Word) (op : Nat) (f : DescRun) (y : Desc) (st : St) (res : List Byte)
    (hy : d.desc r k = some y) (ho : d.engineOn op = true) (hop : y.op = op) (ht : y.taken = false) (hn : y.outcome = none)
    (hf : d.firstForEngine y = true) (hp : d.precheck r y = none) (hx : (f d y).2 = some (st, res)) (hw : st ≠ stWait) :
    d.runDesc r k op f = (f d y).1.setOutcome r k st ((res ++ noResult).take 16) := by
  simp [Dev.runDesc, hy, ho, hop, ht, hn, hf, hp, hx, hw]

/-- Nothing lands before an access where no BAR4 write of the port waits. -/
theorem Dev.landPort_of_free (d : Dev) (p : PciePort) (h : d.bar4Busy p = false) : d.landPort p = d := by
  simp [Dev.landPort, h]

/-- Nothing lands before an access where the registers can be reached at once. -/
theorem Dev.landPort_of_reach (d : Dev) (p : PciePort) (h : d.regReach p = true) : d.landPort p = d := by
  refine d.landPort_of_free p ?_
  simp [Dev.regReach] at h
  exact h.1.2

/-- A register command acts where the port's host reaches the registers, on the block without the port's latch. -/
theorem Dev.onReg_reached (d : Dev) (p : PciePort) (f : Dev → Dev) (h : d.regReach p = true) : d.onReg p f = f (d.dropLatch p) := by
  simp [Dev.onReg, d.landPort_of_reach p h, h]

/-- A register command does nothing where the port's host does not reach the registers. -/
theorem Dev.onReg_not_reached (d : Dev) (p : PciePort) (f : Dev → Dev) (h : d.hostReach p = false) : d.onReg p f = d := by
  simp [Dev.onReg, Dev.landPort, Dev.regReach, h]

/-- Every command but REGISTER_WRITE goes on, and no command touches the queue. -/
theorem exec_next_or_write (i : Instr) (s : State) :
    (∃ d, exec i s = .next { s with dev := d }) ∨ ∃ p off size v, i = .registerWrite p off size v := by
  cases i
  case registerWrite p off size v => exact .inr ⟨p, off, size, v, rfl⟩
  all_goals exact .inl ⟨_, rfl⟩

/-- What a register write answers: the block changed, or the fault of a reserved bit. -/
theorem execRegisterWrite_cases (p : PciePort) (off size v : Nat) (s : State) :
    (∃ d, execRegisterWrite p off size v s = .next { s with dev := d }) ∨
      execRegisterWrite p off size v s = .fault .reservedBitWrite := by
  unfold execRegisterWrite
  dsimp only
  split
  · exact .inl ⟨_, rfl⟩
  · split
    · exact .inr rfl
    · exact .inl ⟨_, rfl⟩

end Sys2Proof.Machine
end

