-- ==== Sys2Proof/Laws/Links.lean ====
section
/-! SUPPORT. The laws of flits: their length and their CRC. -/
namespace Sys2Proof.Machine

@[simp] theorem flitBody_length (h : FlitHead) (seq : Nat) (f : Option Flit) : (flitBody h seq f).length = 252 := by
  unfold flitBody
  simp only [List.length_append, leBytes_length, List.length_take, List.length_replicate]
  omega

@[simp] theorem flitBytes_length (h : FlitHead) (seq : Nat) (f : Option Flit) : (flitBytes h seq f).length = 256 := by
  simp [flitBytes]

/-- A flit with another number where its CRC stands holds exactly where that number is the CRC (R344). -/
theorem flitCrcOk_append (b : List Byte) (n : Nat) (h : b.length = 252) :
    flitCrcOk (b ++ leBytes 4 n) = decide ((crc32 b).toNat = n % 2 ^ 32) := by
  have e : field (b ++ leBytes 4 n) 0xFC 4 = n % 2 ^ 32 := by
    have := field_append b (leBytes 4 n) 4
    rw [h] at this
    rw [this, List.take_of_length_le (by simp)]
    simp
  unfold flitCrcOk
  rw [e, List.take_append_of_le_length (by omega), List.take_of_length_le (by omega)]
  rfl

/-- The CRC of a flit that a port sends holds (R344). -/
@[simp] theorem flitCrcOk_flitBytes (h : FlitHead) (seq : Nat) (f : Option Flit) : flitCrcOk (flitBytes h seq f) = true := by
  rw [flitBytes, flitCrcOk_append _ _ (flitBody_length h seq f)]
  have := (crc32 (flitBody h seq f)).isLt
  simp [Nat.mod_eq_of_lt this]

end Sys2Proof.Machine
end

