-- ==== Sys2Proof/Tests/Slice0.lean ====
section
/-! SUPPORT. Tests of single steps on small states: expected values come from the spec's text, and one witness for each set of
hypotheses that a statement has. -/
namespace Sys2Proof.Tests
open Sys2Proof Sys2Proof.Machine

set_option Elab.async false

/-! ### Helpers -/

/-- A device in Run, everything else as after reset. -/
def runDev : Dev := { Dev.reset with sys := { Dev.reset.sys with phase := .run } }

/-- A core that runs, with everything else of it as after power-up. -/
def live : Core := { Core.reset with status := .running }

/-- A device in Run whose core 0 is `c`. -/
def withCore0 (c : Core) : State := ⟨[], { runDev with cores := [(0, c)] }⟩

/-- An instruction that has issued and not started. -/
def entry (eng : Eng) (i : CoreInstr) : QEntry := ⟨0, 0, eng, i, false, false, 0⟩

/-- A running core whose one issued instruction is `i`. -/
def queued (eng : Eng) (i : CoreInstr) : Core := { live with queue := [entry eng i] }

/-- The state that a command leads to; the state itself where it does not go on. -/
def after (i : Instr) (s : State) : State := match exec i s with | .next t => t | _ => s

/-! ### Queue and step -/

/-- The front command runs and leaves the queue (a DRAIN on a quiet core goes on to the next instruction, R189). -/
theorem test_step_takes_the_front :
    (match step { withCore0 live with pending := [.drain 0 0, .yield 0] } with
      | .next t => (t.pending, (t.dev.core 0).pc) | _ => ([], 0)) = ([.yield 0], 8) := by decide

/-- An idle millisecond in Run advances OP_TIME_MS (R504). -/
theorem test_idle_step_counts : (match step ⟨[], runDev⟩ with | .next t => t.dev.rd F.OP_TIME_MS | _ => 0) = 1 := by
  decide +kernel

/-- The last 16 B of a ring's group are reserved (R406): a nonzero write there is the fault that R12 leaves open. -/
theorem test_reserved_word : (isReservedWord 0x1013C, isReservedWord 0x1012C, isReservedWord 0x1113C) = (true, false, false) := by
  decide

/-! ### Control and sync instructions -/

/-- ScalarInstructions: SADD with an immediate on a running core. -/
theorem witness_scalar : ∃ (i : Instr) (f : CtrlForm) (v : Word → Word → Word) (s : State),
    scalarForm i = some (f, v) ∧ CanIssue s f.core ∧ f.ok (s.dev.core f.core) :=
  ⟨.sadd 0 1 2 (.imm 5), _, _, withCore0 live, rfl, ⟨rfl, rfl, rfl, by decide⟩, rfl, by decide⟩

/-- ScalarInstructions: a reserved register code 63 as D. -/
theorem witness_illegal : ∃ (i : Instr) (f : CtrlForm) (s : State),
    (∃ v, scalarForm i = some (f, v)) ∧ CanIssue s f.core ∧ ctrlLegal f.op f.d f.a f.b f.bi = false :=
  ⟨.smov 0 63 2, _, withCore0 live, ⟨_, rfl⟩, ⟨rfl, rfl, rfl, by decide⟩, by decide⟩

/-- The lowest reserved code, 48, is illegal too, and 47 is not (R186). -/
theorem test_register_code_boundary : ctrlLegal .smov 48 0 0 false = false ∧ ctrlLegal .smov 47 47 0 false = true := by decide

/-- SADD wraps at 32 bits, its source also its destination (R186). -/
theorem test_sadd_wraps :
    ((after (.sadd 0 3 3 (.imm 1)) (withCore0 { live with s := [(3, 0xFFFFFFFF)] })).dev.core 0).rdCode 3 = 0 := by decide

/-- SSRA keeps the sign and takes its count modulo 32 (R186). -/
theorem test_ssra_sign :
    ((after (.ssra 0 1 3 (.imm 36)) (withCore0 { live with s := [(3, 0x80000000)] })).dev.core 0).rdCode 1 = 0xF8000000 := by decide

/-- BranchesLoopsAndBlocks: a branch that is taken and one that is not. -/
theorem witness_branch : ∃ (f : CtrlForm) (t : Word → Word → Bool), branchForm (.beq 0 1 (some 2) 4) = some (f, t) ∧
    CanIssue (withCore0 live) f.core ∧ f.ok live ∧ t (live.rdCode f.a) (live.rdCode f.b) = true ∧
    t (({ live with s := [(1, 1)] } : Core).rdCode f.a) (({ live with s := [(1, 1)] } : Core).rdCode f.b) = false :=
  ⟨_, _, rfl, ⟨rfl, rfl, rfl, by decide⟩, ⟨by decide, by decide⟩, by decide, by decide⟩

/-- A backward branch (R186). -/
theorem test_branch_back : ((after (.b 0 0xFFFFFFFE) (withCore0 { live with pc := 24 })).dev.core 0).pc = 8 := by decide

/-- BLT is signed, BLTU is not (R186). -/
theorem test_blt_signed :
    (((after (.blt 0 1 (some 2) 4) (withCore0 { live with s := [(1, 0xFFFFFFFF)] })).dev.core 0).pc,
      ((after (.bltu 0 1 (some 2) 4) (withCore0 { live with s := [(1, 0xFFFFFFFF)] })).dev.core 0).pc) = (32, 8) := by decide

/-- With BI = 1, IMM32 is BEQ's second operand and a reserved code in B is ignored (R186). -/
theorem test_branch_immediate :
    ((after (.beq 0 1 none 4) (withCore0 { live with s := [(1, 4)] })).dev.core 0).pc = 32 := by decide

/-- BranchesLoopsAndBlocks: LOOP outside and inside four loops, with a count and with none. -/
theorem witness_loop : ∃ c d : Core, CanIssue (withCore0 c) 0 ∧ CanIssue (withCore0 d) 0 ∧ c.loops.length < 4 ∧ 4 ≤ d.loops.length ∧
    CtrlForm.ok ⟨0, .loop, 0, 0, 0, true, 0x00030002⟩ c ∧ CtrlForm.ok ⟨0, .loop, 0, 0, 0, true, 2⟩ d :=
  ⟨live, { live with loops := List.replicate 4 ⟨8, 800, 2⟩ }, ⟨rfl, rfl, rfl, by decide⟩, ⟨rfl, rfl, rfl, by decide⟩, by decide, by decide,
    ⟨by decide, by decide⟩, ⟨by decide, by decide⟩⟩

/-- BranchesLoopsAndBlocks: PBLK that reaches exactly to the end of a loop body, and one past it. -/
theorem witness_pblk : ∃ c : Core, CanIssue (withCore0 c) 0 ∧ CtrlForm.ok ⟨0, .pblk, 0, 1, 0, false, 2⟩ c ∧
    (∀ l ∈ c.loops, c.pc + 8 + 8 * 2 ≤ l.stop) ∧ (∃ l ∈ c.loops, l.stop < c.pc + 8 + 8 * 3) :=
  ⟨{ live with loops := [⟨0, 24, 2⟩] }, ⟨rfl, rfl, rfl, by decide⟩, ⟨by decide, by decide⟩, by decide, ⟨_, List.mem_singleton.2 rfl, by decide⟩⟩

/-- A loop of three passes comes back to its first instruction, and PBLK with 0 skips (R187, R188). -/
theorem test_loop_and_pblk :
    (((after (.loop 0 0 true 0x00030002) (withCore0 live)).dev.core 0).loops, ((after (.pblk 0 1 2) (withCore0 live)).dev.core 0).pc) =
      ([⟨8, 24, 3⟩], 24) := by decide

/-- PTAG takes bits 5:0 (R332). -/
theorem test_ptag : ((after (.ptag 0 0x45) (withCore0 live)).dev.core 0).curTag = 5 := by decide

/-- DrainsAndEnd: a quiet core and a busy one, at issue and while waiting. -/
theorem witness_drain : ∃ c b : Core, (drainForm (.drain 0 0x3F) c).isSome ∧ CanIssue (withCore0 c) 0 ∧ c.Quiet 0x3F ∧
    CanIssue (withCore0 b) 0 ∧ ¬ b.Quiet 0x3F ∧ c.ready (.sync .drain 0 0 0 0 0) = true ∧ b.ready (.sync .drain 0 0 0 0 0) = true ∧
    c.actions = [] ∧ c.runQ = [] ∧ c.queue = [] :=
  ⟨live, queued .mxa (.mxset 0), rfl, ⟨rfl, rfl, rfl, by decide⟩, (fun _ h => absurd h (List.not_mem_nil)), ⟨rfl, rfl, rfl, by decide⟩,
    (fun h => absurd (h _ (List.mem_singleton.2 rfl) 0 rfl) (by decide)), by decide, by decide, rfl, rfl, rfl⟩

/-- FLAGC clears the bits that its scalar holds, and no other (R189, R195). -/
theorem test_flagc : ((after (.flagc 0 1) (withCore0 { live with cflags := 0x21, s := [(1, 0x20)] })).dev.core 0).cflags = 1 := by decide

/-- END on a quiet core leaves it IDLE with STOP_REASON 0 at its own offset (R189, R198). -/
theorem test_end : let c := (after (.endProg 0) (withCore0 { live with pc := 40, run := some (3, 7) })).dev.core 0
    (c.status, c.lastPc, c.lastWhy, c.run) = (.idle, 40, 0, none) := by decide

/-- YieldAndWaitw: a pending CODE_LOAD, a pending stop, and a busy core. -/
theorem witness_yield : ∃ c d b : Core, CanIssue (withCore0 c) 0 ∧ c.queue = [] ∧ c.actions = [.load 1 2 0x1000 64 0] ∧
    CanIssue (withCore0 d) 0 ∧ d.queue = [] ∧ d.actions = [.stop 1 2] ∧ d.runQ = [] ∧
    CanIssue (withCore0 b) 0 ∧ b.queue ≠ [] ∧ b.actions ≠ [] :=
  ⟨{ live with actions := [.load 1 2 0x1000 64 0] }, { live with actions := [.stop 1 2] },
    { queued .mxa (.mxset 0) with actions := [.stop 1 2] }, ⟨rfl, rfl, rfl, by decide⟩, rfl, rfl, ⟨rfl, rfl, rfl, by decide⟩, rfl, rfl, rfl, ⟨rfl, rfl, rfl, by decide⟩,
    by decide, by decide⟩

/-- YieldAndWaitw: the last word of the local store is reached, the offset beyond it is not; a word that compares and one that does not. -/
theorem witness_waitw : ∃ c : Core, CanIssue (withCore0 c) 0 ∧ c.ready (.sync .waitw 1 2 0 0 0) = true ∧
    ((c.areg 2).toNat + 4 * 0) / 4 * 4 < 0x800000 ∧ 0x800000 ≤ ((c.areg 2).toNat + 4 * 1) / 4 * 4 ∧
    (withCore0 c).dev.present 0 = true ∧ c.retained = false ∧ (withCore0 c).dev.cleanAt ((lsAddr 0 + 0x7FFFFC) / 16 * 16) ∧
    CmpSays 0 0 (c.sreg 1) ∧ ¬ CmpSays 1 0 (c.sreg 1) :=
  ⟨{ live with a := [(2, 0x7FFFFC)] }, ⟨rfl, rfl, rfl, by decide⟩, by decide, by decide, by decide, by decide, rfl,
    ⟨List.not_mem_nil, List.not_mem_nil, List.not_mem_nil⟩, .inl ⟨rfl, by decide⟩, by simp [CmpSays, Core.sreg, live, Core.reset]⟩

/-- A held WAITW, waiting for the word 1 at offset 0, is released by it (R189). -/
theorem test_waitw_release :
    let c : Core := { live with wait := some (.waitw 0 0 1) }
    ((after (.waitwRelease 0) ⟨[], { (withCore0 c).dev with mem := { runDev.mem with bytes := [(lsBase, 1)] } }⟩).dev.core 0).wait = none ∧
    ((after (.waitwRelease 0) (withCore0 c)).dev.core 0).wait = c.wait := by decide

/-! ### Issue, finish, faults, stops -/

/-- IssueAndFinish: a core that can issue, with and without room; the boundary at CODE_LEN. -/
theorem witness_issue : ∃ c : Core, CanIssue (withCore0 c) 0 ∧ c.codeLen ≤ c.pc ∧ (withCore0 c).dev.fetch 0 = .fault stOutOfMap :=
  ⟨live, ⟨rfl, rfl, rfl, by decide⟩, by decide, by decide⟩

/-- A word of zeros, SLI s0, 0, is no engine instruction, so nothing enters a queue; past CODE_LEN issue stops (R184, R199). -/
theorem test_issue_past_the_end :
    ((after (.instructionIssue 0) (withCore0 live)).dev.core 0).halt = some ⟨1, stOutOfMap, 0⟩ := by decide

/-- IssueAndFinish: an instruction whose effect is made. -/
theorem witness_finish : ∃ (c : Core) (e : QEntry), c.halt = none ∧ c.queue.find? (fun y => y.eng == .mxa && y.ran) = some e :=
  ⟨{ live with queue := [{ entry .mxa (.mxset 0) with started := true, ran := true, flags := 8 }] }, _, rfl, rfl⟩

/-- Finishing ORs the flags in and empties the queue (R195). -/
theorem test_finish :
    let c := (after (.instructionFinish 0 .mxa) (withCore0 { live with
      cflags := 1, queue := [{ entry .mxa (.mxset 0) with started := true, ran := true, flags := 8 }] })).dev.core 0
    (c.cflags, c.queue) = (9, []) := by decide

/-- IcacheFillFillsTheLine: the first line of a code region at address 0. -/
theorem witness_icache : ∃ s : State, let c := s.dev.core 0
    c.status = .running ∧ 0 < c.codeLen ∧ (∀ l ∈ c.cache, l.addr ≠ 0) ∧ 192 ≤ s.dev.nearTop ∧
    s.dev.tier.sweeps = [] ∧ s.dev.tier.awaiting = [] ∧ (∀ u ∈ [0, 64, 128], s.dev.cleanAt u) :=
  ⟨withCore0 { live with codeLen := 64 }, rfl, by decide, (fun _ h => absurd h List.not_mem_nil), by decide, rfl, rfl,
    (fun _ _ => ⟨List.not_mem_nil, List.not_mem_nil, List.not_mem_nil⟩)⟩

/-- FaultAndStop: a core that a fault has stopped, and one under an immediate stop with and without a transfer left. -/
theorem witness_stops : ∃ c d e : Core, c.status = .running ∧ c.halt = some ⟨1, 12, 8⟩ ∧ c.queue = [] ∧ c.actions = [] ∧ c.runQ = [] ∧
    (withCore0 c).dev.recd.buf.length < 4096 ∧ d.halt = some ⟨2, 0, 8⟩ ∧ d.queue.filter (fun e => e.ran || e.eng == .dmv) = [] ∧
    e.halt = some ⟨2, 0, 8⟩ ∧ e.queue.filter (fun e => e.ran || e.eng == .dmv) ≠ [] :=
  ⟨{ live with halt := some ⟨1, 12, 8⟩ }, { queued .mxa (.mxset 0) with halt := some ⟨2, 0, 8⟩ },
    { queued .dmv (.dmv ⟨0, 0, 0, 0⟩) with halt := some ⟨2, 0, 8⟩ }, rfl, rfl, rfl, rfl, rfl, by decide, rfl, by decide, rfl, by decide⟩

/-- A fault stop tells why, and its record is an Error with the core as source (R199, R510). -/
theorem test_fault_stop :
    ((after (.coreFaultStop 0) (withCore0 { live with halt := some ⟨1, 12, 8⟩ })).dev.core 0).lastWhy = 1 ∧
    ((after (.coreFaultStop 0) (withCore0 { live with halt := some ⟨1, 12, 8⟩ })).dev.recd.buf.map (fun x =>
      (x.1.seq, x.1.sev, x.1.source, x.1.code))) = [(1, 3, 0, 12)] := by decide

/-- SncEncodingRoundTrip: legal instructions with a word, their fields at the top of their ranges. -/
theorem witness_snc : ∃ (i j : CoreInstr) (v w : BitVec 64), sncLegal i = true ∧ encodeSnc i = some w ∧ sncLegal j = true ∧ encodeSnc j = some v :=
  ⟨.dmv ⟨15, 0xFFFFF, 31, 3⟩, .ctrl .sadd 47 47 0 true 0xFFFFFFFF, _, _, by decide, rfl, by decide, rfl⟩

/-! ### Engine instructions -/

/-- An instruction that stands alone in its core's queue is at the head of its engine and released. -/
theorem at_head (eng : Eng) (i : CoreInstr) : AtHead (withCore0 (queued eng i)) 0 eng (entry eng i) := by
  refine ⟨rfl, ?_, ?_⟩
  · simp [withCore0, queued, Core.head, Dev.core, Tab.get, entry]
  · simp [withCore0, queued, Dev.released, Dev.core, Tab.get, entry]

/-- The same on a core with other registers. -/
theorem at_head_of (c : Core) (eng : Eng) (i : CoreInstr) (hc : c.status = .running) :
    AtHead (withCore0 { c with queue := [entry eng i] }) 0 eng (entry eng i) := by
  refine ⟨hc, ?_, ?_⟩
  · simp [withCore0, Core.head, Dev.core, Tab.get, entry]
  · simp [withCore0, Dev.released, Dev.core, Tab.get, entry]

/-- A present store without errors that is not retained is clean. -/
theorem clean_ls (c : Core) (h : c.retained = false) : CleanLs (withCore0 c) 0 :=
  ⟨rfl, h, fun _ _ _ => ⟨List.not_mem_nil, List.not_mem_nil, List.not_mem_nil⟩⟩

/-- A vector form in FP32 on registers 1, 2, 3, 4 with an immediate length. -/
def vform (vl : BitVec 11) : VecF := ⟨1, 2, 3, 4, 0, false, false, 0, true, vl, 0⟩

/-- A memory form in FP32 on register 1 and a0, with its 17 bits and an immediate length. -/
def mform (f17 : BitVec 17) (vl : BitVec 11) : MemF := ⟨1, 0, f17, 0, false, false, 0, true, vl, 0⟩

/-- VectorElementwise: ADD of two elements, and SEL. -/
theorem witness_elementwise : ∃ (i j : Instr) (o p : VxaOp) (f : VecF) (g h : Core → Nat → Option (Nat × Nat)),
    elemForm i o f = some (0, g) ∧ elemForm j p f = some (0, h) ∧
    (∀ k, k < (queued .vxa (.vxa o f)).vlOf f (tyCount f.ty.toNat) → (g (queued .vxa (.vxa o f)) k).isSome = true) ∧
    (∀ k, k < (queued .vxa (.vxa p f)).vlOf f (tyCount f.ty.toNat) → (h (queued .vxa (.vxa p f)) k).isSome = true) ∧
    (queued .vxa (.vxa o f)).vlOf f (tyCount f.ty.toNat) = 2 ∧
    AtHead (withCore0 (queued .vxa (.vxa o f))) 0 .vxa (entry .vxa (.vxa o f)) ∧
    AtHead (withCore0 (queued .vxa (.vxa p f))) 0 .vxa (entry .vxa (.vxa p f)) :=
  ⟨.vAdd 0, .vSel 0, .add, .sel, vform 2, _, _, rfl, rfl, by decide, by decide, by decide, at_head _ _, at_head _ _⟩

/-- MaskInstructions: CMP, and MPOP of a vector length that is not 0 and of 0. -/
theorem witness_masks : ∃ (i : Instr) (f : VecF) (g : Core → Nat → Bool × Nat), maskForm i .cmp f = some (0, g) ∧
    AtHead (withCore0 (queued .vxa (.vxa .cmp f))) 0 .vxa (entry .vxa (.vxa .cmp f)) ∧
    AtHead (withCore0 (queued .vxa (.vxa .mpop f))) 0 .vxa (entry .vxa (.vxa .mpop f)) ∧
    (queued .vxa (.vxa .mpop f)).vlOf f (tyCount f.ty.toNat) = 512 ∧
    (queued .vxa (.vxa .mpop f)).vlOf (vform 0) (tyCount (vform 0).ty.toNat) = 0 :=
  ⟨.vCmp 0, vform 512, _, rfl, at_head _ _, at_head _ _, by decide, by decide⟩

/-- ReductionFollowsTheTree and ScansFollowTheCode: vector lengths 1 and 3, with the level m that covers each; FP64 as well as FP32. -/
theorem witness_reductions : ∃ f g : VecF,
    AtHead (withCore0 (queued .vxa (.vxa (.red .add) f))) 0 .vxa (entry .vxa (.vxa (.red .add) f)) ∧
    (queued .vxa (.vxa (.red .add) f)).vlOf f (tyCount f.ty.toNat) = 3 ∧ 3 ≤ 2 ^ 2 ∧ 2 ^ (2 - 1) < 3 ∧ f.ty ≠ 3 ∧
    (queued .vxa (.vxa (.red .add) g)).vlOf g (tyCount g.ty.toNat) = 1 ∧ 1 ≤ 2 ^ 0 ∧ g.ty = 3 ∧
    AtHead (withCore0 (queued .vxa (.vxa (.scan .add) f))) 0 .vxa (entry .vxa (.vxa (.scan .add) f)) ∧
    AtHead (withCore0 (queued .vxa (.vxa .scanLr g))) 0 .vxa (entry .vxa (.vxa .scanLr g)) :=
  ⟨vform 3, { vform 1 with ty := 3 }, at_head _ _, by decide, by decide, by decide, by decide, by decide, by decide, rfl, at_head _ _,
    at_head _ _⟩

/-- ConvertRotatePermute and TopkSelectsTheLargest: each at the head; TOPK with VB apart from VD, in segments of 8 (K 5), the first of
which has a candidate of rank 0. -/
theorem witness_convert_topk : ∃ f : VecF, AtHead (withCore0 (queued .vxa (.vxa (.cvt 1) f))) 0 .vxa (entry .vxa (.vxa (.cvt 1) f)) ∧
    AtHead (withCore0 (queued .vxa (.vxa .rotb f))) 0 .vxa (entry .vxa (.vxa .rotb f)) ∧
    AtHead (withCore0 (queued .vxa (.vxa .perm f))) 0 .vxa (entry .vxa (.vxa .perm f)) ∧
    AtHead (withCore0 (queued .vxa (.vxa .topk f))) 0 .vxa (entry .vxa (.vxa .topk f)) ∧ f.vb ≠ f.vd ∧
    8 * 2 ^ min (f.sub.toNat % 8) 6 = 8 ∧ f.vc.toNat % 8 + 1 = 5 ∧
    f32 ((queued .vxa (.vxa .topk f)).lane f.va.toNat 0) ≠ .nan :=
  ⟨vform 8, at_head _ _, at_head _ _, at_head _ _, at_head _ _, by decide, by decide, by decide, by decide⟩

/-- FP32 1.0 + 2.0 is 3.0, in element 0 alone of a vector of length 1 (R120). -/
theorem test_vadd :
    let c := (after (.vAdd 0) (withCore0 { queued .vxa (.vxa .add (vform 1)) with
      v := [(2 * 512, 0x3F800000), (3 * 512, 0x40000000), (3 * 512 + 1, 0x40000000)] })).dev.core 0
    (c.lane 1 0, c.lane 1 1) = (0x40400000, 0) := by decide +kernel

/-- The tree of R135 over three FP32 elements: (1 + 2) + (4 + 0). -/
theorem test_red_sum :
    ((after (.red 0) (withCore0 { queued .vxa (.vxa (.red .add) { vform 3 with vd := 5 }) with
      v := [(2 * 512, 0x3F800000), (2 * 512 + 1, 0x40000000), (2 * 512 + 2, 0x40800000)] })).dev.core 0).sreg 5 = 0x40E00000 := by
  decide +kernel

/-- MemoryFaultsStopTheCore: LD whose element ends past the store, at the boundary: the last byte inside is not enough. -/
theorem witness_memory_fault : ∃ (c : Core) (f : MemF), c.status = .running ∧ c.halt = none ∧ vxmRow .ld 0 = some (.ld 0) ∧
    AtHead (withCore0 { c with queue := [entry .vxm (.vxm .ld f)] }) 0 .vxm (entry .vxm (.vxm .ld f)) ∧
    (∃ p ∈ vxmReach .ld f { c with queue := [entry .vxm (.vxm .ld f)] }, 0x800000 < p.1 + p.2) ∧
    (∃ p ∈ vxmReach .ld f { c with queue := [entry .vxm (.vxm .ld f)] }, p.1 + p.2 = 0x800000) :=
  ⟨{ live with a := [(0, 0x7FFFC0)] }, mform 0 17, rfl, rfl, rfl, at_head_of _ _ _ rfl,
    ⟨(0x800000, 4), by decide, by decide⟩, ⟨(0x7FFFFC, 4), by decide, by decide⟩⟩

/-- LoadsReadTheLocalStore, StoresWriteTheirElements, GatherUnderThePolicy, ScatterHighestLaneWins, ScatterAddInLaneOrder and
XaccCombinesAccumulators: each instruction at the head of a clean store with every piece inside it. -/
theorem witness_memory : ∃ f q h x : MemF, q.ty.toNat < 3 ∧ q.fmt ≤ 6 ∧ 8 * h.size = tyBits h.ty.toNat ∧
    (∀ o ∈ [VxmOp.ld, .st], AtHead (withCore0 (queued .vxm (.vxm o f))) 0 .vxm (entry .vxm (.vxm o f)) ∧
      ∀ p ∈ vxmReach o f (queued .vxm (.vxm o f)), p.1 + p.2 ≤ 0x800000) ∧
    (∀ o ∈ [VxmOp.ldq, .stq], AtHead (withCore0 (queued .vxm (.vxm o q))) 0 .vxm (entry .vxm (.vxm o q)) ∧
      ∀ p ∈ vxmReach o q (queued .vxm (.vxm o q)), p.1 + p.2 ≤ 0x800000) ∧
    (∀ o ∈ [VxmOp.gath, .scat, .scadd], AtHead (withCore0 (queued .vxm (.vxm o h))) 0 .vxm (entry .vxm (.vxm o h)) ∧
      ∀ p ∈ vxmReach o h (queued .vxm (.vxm o h)), p.1 + p.2 ≤ 0x800000) ∧
    (AtHead (withCore0 { live with s := [(1, 1)], queue := [entry .vxm (.vxm .xacc x)] }) 0 .vxm (entry .vxm (.vxm .xacc x)) ∧
      ∀ p ∈ vxmReach .xacc x { live with s := [(1, 1)], queue := [entry .vxm (.vxm .xacc x)] }, p.1 + p.2 ≤ 0x800000) ∧
    (∀ o g, CleanLs (withCore0 (queued .vxm (.vxm o g))) 0) :=
  ⟨mform 0 16, mform 0 2, mform 0x100 2, mform 0 0, by decide, by decide, by decide,
    fun o ho => ⟨at_head _ _, (by revert o; decide)⟩, fun o ho => ⟨at_head _ _, (by revert o; decide)⟩,
    fun o ho => ⟨at_head _ _, (by revert o; decide)⟩, ⟨at_head_of _ _ _ rfl, by decide⟩, fun _ _ => clean_ls _ rfl⟩

/-- Deterministic mode with a clean store, for SCADD. -/
theorem witness_det : ({ runDev with regs := [(F.DET_MODE.key, 1)] } : Dev).rd F.DET_MODE = 1 := by decide

/-- ST writes its element little-endian (R126, R127). -/
theorem test_st :
    let s := after (.st 0) (withCore0 { queued .vxm (.vxm .st (mform 1 1)) with v := [(512, 0x11223344)] })
    s.dev.mem.bytes = [(lsBase + 64, 0x44), (lsBase + 65, 0x33), (lsBase + 66, 0x22), (lsBase + 67, 0x11)] := by decide +kernel

/-- SCAT with two lanes on one place: the highest lane writes (R144). -/
theorem test_scat_highest :
    let s := after (.scat 0) (withCore0 { queued .vxm (.vxm .scat (mform 0x100 2)) with s := [(0, 9)], v := [(512, 0x11), (513, 0x22)] })
    s.dev.peek lsBase 4 = [0x22, 0, 0, 0] := by decide +kernel

/-- A load from the first byte after the store stops the core with ACCESS_OUT_OF_MAP (R262, R126). -/
theorem test_ld_out_of_map :
    ((after (.ld 0) (withCore0 { queued .vxm (.vxm .ld (mform 0 1)) with a := [(0, 0x800000)] })).dev.core 0).halt =
      some ⟨1, stOutOfMap, 0⟩ := by decide +kernel

/-! ### The matrix array -/

/-- An MMA of class LP in FP8 on slots 0, 1 and 2, with M, N and K in s1, s2 and s3. -/
def mmaForm : MmaF := ⟨0, 0, 0, 0, 0, 0, 1, false, false, false, 0, 1, 2, 1, 2, 3⟩

/-- A running core with an MXA instruction, s1 to s3 holding 1. -/
def mmaCore (i : CoreInstr) : Core := { live with s := [(1, 1), (2, 1), (3, 1)], queue := [entry .mxa i] }

/-- ZeroSizedMmaDoesNothing: N alone is 0. -/
theorem witness_zero_mma : ∃ c : Core, c.status = .running ∧ (c.sreg mmaForm.sm.toNat).toNat % 2 ^ 24 ≠ 0 ∧
    (c.sreg mmaForm.sn.toNat).toNat % 2 ^ 24 = 0 ∧ AtHead (withCore0 c) 0 .mxa (entry .mxa (.mma mmaForm)) :=
  ⟨{ live with s := [(1, 1), (2, 0x1000000), (3, 1)], queue := [entry .mxa (.mma mmaForm)] }, rfl, by decide, by decide, at_head_of _ _ _ rfl⟩

/-- MmaAccumulatesItsTile: a tile of one output whose operands read without an error, and one that reads an ordinary MX operand
transposed. -/
theorem witness_mma :
    AtHead (withCore0 (mmaCore (.mma mmaForm))) 0 .mxa (entry .mxa (.mma mmaForm)) ∧
    (mmaCore (.mma mmaForm)).mmaDims mmaForm = (1, 1, 1) ∧ (mmaCore (.mma mmaForm)).scaleAxis mmaForm = false ∧
    (∃ x, (withCore0 (mmaCore (.mma mmaForm))).dev.readMma 0 mmaForm = ((withCore0 (mmaCore (.mma mmaForm))).dev, stOk, x)) ∧
    ∃ t : Slot, ({ mmaCore (.mma mmaForm) with slots := [(0, t)] } : Core).scaleAxis mmaForm = true :=
  ⟨at_head_of _ _ _ rfl, by decide, by decide, ⟨_, rfl⟩, ⟨leBytes 128 (0x30200 + 2 ^ 128), 0, 0⟩, by decide⟩

/-- ReadOutAndRawForms: an exact set read out at its last row, one past it, a save that ends at the store's last byte, a restore of a raw
form saved there, the last of the three selectors of MXD, and MXSET. -/
theorem witness_read_out : ∃ (c : Core) (f g : MxrF) (x y : MxsF) (z : MxdF) (tag : AccTag), c.status = .running ∧ c.retained = false ∧
    (c.accSet f.acc.toNat).tag.cls ≠ .lp ∧ c.mxrRows f = (31, 1) ∧ (c.accSet f.acc.toNat).tag.rows = 32 ∧
    (c.accSet f.acc.toNat).tag.rows ≤ (c.sreg g.slo.toNat).toNat ∧
    x.restore = false ∧ (c.areg x.a.toNat).toNat + 64 * x.imm.toNat + (c.accSet x.acc.toNat).tag.rawBytes = 0x800000 ∧
    y.restore = true ∧ Tab.get c.savedTags ((c.areg y.a.toNat).toNat + 64 * y.imm.toNat) none = some tag ∧
    (c.areg y.a.toNat).toNat + 64 * y.imm.toNat + tag.rawBytes ≤ 0x800000 ∧ z.sel = 2 ∧
    (∀ i ∈ [CoreInstr.mxr f, .mxr g, .mxs x, .mxs y, .mxd z, .mxset 8],
      AtHead (withCore0 { c with queue := [entry .mxa i] }) 0 .mxa (entry .mxa i)) :=
  ⟨{ live with acc := [(1, ⟨⟨.f32x, 0, false⟩, [], [], []⟩)], s := [(1, 31), (2, 32)], savedTags := [(0, some ⟨.lp, 0, false⟩)] },
    ⟨1, 1, 1, 0, 0, 0, 0, 0, 0, false, 0, false⟩, ⟨1, 2, 2, 0, 0, 0, 0, 0, 0, false, 0, false⟩, ⟨0, false, 0, 0x1FC00⟩, ⟨0, true, 0, 0⟩,
    ⟨0, 2, 0, 0⟩, ⟨.lp, 0, false⟩, rfl, rfl, by decide, by decide, by decide, by decide, rfl, by decide, rfl, by decide, by decide, rfl,
    fun i _ => at_head_of _ _ i rfl⟩

/-- MXD SEL 1 takes the mask's address A + 8 * IMM20 (R191). -/
theorem test_mxd :
    let i : CoreInstr := .mxd ⟨3, 1, 2, 5⟩
    (((after (.mxd 0) (withCore0 { live with a := [(2, 0x100)], queue := [entry .mxa i] })).dev.core 0).slot 3).mask = 0x128 := by decide

/-! ### The special-function unit and the row statistics -/

/-- SpecialFunctionsWriteTheirResults: the three at the head of the SFU's queue; a slot that is empty, a built-in one, and a micro-program with a step. -/
theorem witness_sfu : ∃ c : Core, c.status = .running ∧ (c.live 12).origin = .empty ∧ (c.live 0).origin = .builtin ∧
    (c.liveMp 0).origin = .empty ∧ (c.liveMp 1).origin = .user ∧ mpSteps (c.liveMp 1).image ≠ [] ∧
    (∀ o ∈ [SfuOp.sfn, .gact, .sfmp], AtHead (withCore0 { c with queue := [entry .sfu (.sfu o (vform 4))] }) 0 .sfu
      (entry .sfu (.sfu o (vform 4)))) :=
  ⟨{ live with mpLive := [(1, ⟨.user, leBytes 192 (2 ^ 26)⟩)] }, rfl, by decide, by decide, by decide, by decide, by decide,
    fun _ _ => at_head_of _ _ _ rfl⟩

/-- StagingLeavesLiveBanks: SFTL of an image that ends at the last 64 B line it can, SFML, SFTB, and a staging that can land in the last
slot. -/
theorem witness_staging : ∃ (c : Core) (f g : MemF), c.status = .running ∧ c.retained = false ∧
    c.memAddr f 64 / 64 * 64 + 8256 = 0x800000 ∧ c.memAddr g 64 / 64 * 64 + 192 ≤ 0x800000 ∧ c.staging = [⟨0, 23, Bank.none⟩] ∧
    AtHead (withCore0 { c with queue := [entry .vxm (.vxm .sftl f)] }) 0 .vxm (entry .vxm (.vxm .sftl f)) ∧
    AtHead (withCore0 { c with queue := [entry .vxm (.vxm .sfml g)] }) 0 .vxm (entry .vxm (.vxm .sfml g)) ∧
    AtHead (withCore0 { c with queue := [entry .sfu (.sfu .sftb (vform 0))] }) 0 .sfu (entry .sfu (.sfu .sftb (vform 0))) :=
  ⟨{ live with staging := [⟨0, 23, Bank.none⟩] }, mform 0x1FF7F 0, mform 0 0, rfl, rfl, by decide, by decide, rfl, at_head_of _ _ _ rfl,
    at_head_of _ _ _ rfl, at_head_of _ _ _ rfl⟩

/-- SwapsExchangeNamedBanks: the two at the head; a started SFTS with nothing staged before it, and one that an earlier staging holds. -/
theorem witness_swaps : ∃ (c d : Core) (e m : QEntry) (f : VecF), e.started = true ∧ e.ran = false ∧ e.instr = .sfu .sfts f ∧
    m.started = true ∧ m.ran = false ∧ m.instr = .sfu .sfmode f ∧ c.queue = [] ++ e :: [m] ∧ d.queue = [] ++ e :: [] ∧
    c.staging = [] ∧ (∃ g ∈ d.staging, g.seq < e.seq ∧ g.slot < 24 ∧ d.names f g.slot = true) ∧
    (∀ o, AtHead (withCore0 (queued .sfu (.sfu o f))) 0 .sfu (entry .sfu (.sfu o f))) :=
  ⟨{ live with queue := [⟨1, 0, .sfu, .sfu .sfts (vform 0), true, false, 0⟩, ⟨2, 0, .sfu, .sfu .sfmode (vform 0), true, false, 0⟩] },
    { live with queue := [⟨1, 0, .sfu, .sfu .sfts (vform 0), true, false, 0⟩], s := [(2, 1)], staging := [⟨0, 0, Bank.none⟩] }, _, _,
    vform 0, rfl, rfl, rfl, rfl, rfl, rfl, rfl, rfl, rfl, ⟨_, List.mem_singleton.2 rfl, by decide⟩, fun _ => at_head _ _⟩

/-- RowsAccumulateAndReport: RSQ of the largest G it takes, its block width a power of two, and RSF of one row, of 32, and of none. -/
theorem witness_rows : ∃ f g : VecF, g.sub.toNat % 8 ≤ 5 ∧ g.ty.toNat < 3 ∧ tyCount g.ty.toNat / 2 ^ (g.sub.toNat % 8) = 2 ^ 4 ∧
    f.ty.toNat < 3 ∧ rowsRead 5 5 = 1 ∧ rowsRead 0 40 = 32 ∧ rowsRead 5 4 = 0 ∧
    AtHead (withCore0 (queued .rsu (.rsu .rsq g))) 0 .rsu (entry .rsu (.rsu .rsq g)) ∧
    AtHead (withCore0 (queued .rsu (.rsu .rsf f))) 0 .rsu (entry .rsu (.rsu .rsf f)) :=
  ⟨vform 0, { vform 512 with sub := 5 }, by decide, by decide, by decide, by decide, by decide, by decide, by decide, at_head _ _,
    at_head _ _⟩

/-- PartialRecordsExportAndMerge: RSX of two records, RSM of none, of the most that fit and of one more, and an RSM of one record
that has started. -/
theorem witness_partial : ∃ (c : Core) (f : MemF) (e : QEntry), c.status = .running ∧ c.retained = false ∧
    rowsRead (c.sreg f.vr.toNat) (c.sreg (f.vr.toNat + 1)) = 2 ∧ c.memAddr f 32 / 32 * 32 + 32 * 2 ≤ 0x800000 ∧ (c.sreg f.vr.toNat) = 1 ∧
    c.queue = e :: [] ∧ e.started = true ∧ e.ran = false ∧ e.instr = .vxm .rsm f ∧ c.merged = [] ∧
    AtHead (withCore0 { c with queue := [entry .vxm (.vxm .rsx f)] }) 0 .vxm (entry .vxm (.vxm .rsx f)) ∧
    (∀ k ∈ [(0 : Word), 0x40000, 0x40001], AtHead (withCore0 { live with s := [(1, k)], queue := [entry .vxm (.vxm .rsm (mform 0 0))] }) 0
      .vxm (entry .vxm (.vxm .rsm (mform 0 0)))) ∧ 32 * 0x40000 = 0x800000 :=
  ⟨{ live with s := [(1, 1), (2, 2)], queue := [⟨0, 0, .vxm, .vxm .rsm (mform 0 0), true, false, 0⟩] }, mform 0 0, _, rfl, rfl, by decide,
    by decide, by decide, rfl, rfl, rfl, rfl, rfl, at_head_of _ _ _ rfl, fun _ _ => at_head_of _ _ _ rfl, by decide⟩

/-- RSQ of a block of two elements, 3.0 and 4.0: SUMSQ 25 in chain 0, COUNT 2 (R171). -/
theorem test_rsq :
    let a := ((after (.rsq 0) (withCore0 { queued .rsu (.rsu .rsq { vform 2 with vd := 7 }) with
      v := [(2 * 512, 0x40400000), (2 * 512 + 1, 0x40800000)] })).dev.core 0).rowAcc 7
    (a.q0, a.s0, a.count) = (0x4039000000000000, 0x401C000000000000, 2) := by decide +kernel

/-- ReadOutAndRawForms: a float set of one row without epilogue operands, whose elements lie in the store, and one whose destination ends
past it. -/
theorem witness_mxr_float : ∃ (f : MxrF) (x : Epi) (c d : Core),
    AtHead (withCore0 c) 0 .mxa (entry .mxa (.mxr f)) ∧ AtHead (withCore0 d) 0 .mxa (entry .mxa (.mxr f)) ∧
    (c.accSet f.acc.toNat).tag = ⟨.lp, 2, false⟩ ∧ (c.mxrRows f).2 = 1 ∧ (c.mxrRows f).2 ≠ 0 ∧
    (withCore0 c).dev.readEpi 0 f (c.mxrRows f).1 1 (c.accSet f.acc.toNat).tag.cols = ((withCore0 c).dev, stOk, x) ∧
    (d.accSet f.acc.toNat).tag = ⟨.f32x, 0, false⟩ ∧ (∃ p ∈ (mxrWrites d f ⟨none, none, none, none⟩).1, 0x800000 < p.loc.addr + p.loc.n) :=
  ⟨⟨1, 1, 1, 0, 0, 0, 0, 0, 0, false, 0, false⟩, ⟨none, none, none, none⟩,
    { live with acc := [(1, ⟨⟨.lp, 2, false⟩, [], [], []⟩)], queue := [entry .mxa (.mxr ⟨1, 1, 1, 0, 0, 0, 0, 0, 0, false, 0, false⟩)] },
    { live with
      acc := [(1, ⟨⟨.f32x, 0, false⟩, [], [], []⟩)], slots := [(0, ⟨[7, 0, 0, 0, 0, 0, 0, 0, 0, 0, 0x80], 0, 0⟩)]
      queue := [entry .mxa (.mxr ⟨1, 1, 1, 0, 0, 0, 0, 0, 0, false, 0, false⟩)] },
    at_head_of _ _ _ rfl, at_head_of { live with acc := [(1, ⟨⟨.f32x, 0, false⟩, [], [], []⟩)], slots := [(0, ⟨[7, 0, 0, 0, 0, 0, 0, 0, 0, 0, 0x80], 0, 0⟩)] } _ _ rfl,
    by decide, by decide, by decide, by simp [Dev.readEpi, Dev.readVec], by decide, by decide +kernel⟩

/-- StagingLeavesLiveBanks and SwapsExchangeNamedBanks: a staging that an SFTL before it, still in its queue, holds back from the slot, one to
another slot that may land, and one that waits for a lower slot of its own instruction. -/
theorem witness_landing : ∃ (c : Core) (g h : Staging), c.staging = [g] ++ h :: [] ∧ ¬ CanLand c g ∧ CanLand c h ∧
    (∃ d : Core, ¬ CanLand d h ∧ h ∈ d.staging ∧ CanLand d ⟨2, 1, Bank.none⟩) ∧
    (∃ y ∈ c.queue, y.seq < 2 ∧ y.started = false ∧ c.stagesTo y [0] = true) :=
  ⟨{ live with
      queue := [⟨0, 0, .vxm, .vxm .sftl { mform 0 0 with vr := 0 }, false, false, 0⟩]
      staging := [⟨1, 0, Bank.none⟩, ⟨2, 5, Bank.none⟩] }, ⟨1, 0, Bank.none⟩, ⟨2, 5, Bank.none⟩, rfl, by unfold CanLand; decide, by unfold CanLand; decide,
    ⟨{ live with staging := [⟨2, 1, Bank.none⟩, ⟨2, 5, Bank.none⟩] }, by unfold CanLand; decide, by decide, by unfold CanLand; decide⟩, by decide⟩

/-! ### Transfers, background tests, repair -/

/-- `n` bytes with values at byte offsets. -/
def pack (n : Nat) (fs : List (Nat × Nat)) : List Byte := leBytes n (fs.foldl (fun a f => a + f.2 <<< (8 * f.1)) 0)

/-- A device in Run with some register fields set. -/
def regDev (rs : List (Field × Nat)) : Dev := rs.foldl (fun d f => d.wr f.1 f.2) runDev

/-- A running core with one transfer, on queue 0. -/
def moving (fs : List (Nat × Nat)) : Core := { live with xfers := [⟨0, 0, pack 64 fs, 0, 0, none⟩] }

/-- TransfersMoveTheirBytes: DMV with one descriptor that ends at the store's last byte. -/
theorem witness_dmv : ∃ (c : Core) (f : DmvF), c.status = .running ∧ c.retained = false ∧ (c.sreg f.sc.toNat).toNat = 1 ∧
    ((c.areg f.a.toNat).toNat + 64 * f.imm.toNat) / 64 * 64 + 64 = 0x800000 ∧
    AtHead (withCore0 { c with queue := [entry .dmv (.dmv f)] }) 0 .dmv (entry .dmv (.dmv f)) :=
  ⟨{ live with s := [(1, 1)] }, ⟨0, 0x1FFFF, 1, 3⟩, rfl, rfl, by decide, by decide, at_head_of _ _ _ rfl⟩

/-- A fill that ends at the store's last byte. -/
def fillT : XferD := XferD.parse (pack 64 [(0, 3), (4, 16), (8, 0x1122334455667788), (0x10, lsBase + 0x7FFFF0)])
/-- Two rows of 16 B that move apart from one another. -/
def rowsT : XferD := XferD.parse (pack 64 [(0, 2), (4, 16), (8, lsBase), (0x10, lsBase + 0x100), (0x18, 2), (0x20, 16), (0x28, 32)])

/-- TransfersMoveTheirBytes: a reserved KIND; an empty transfer, with a completion word that ends at the store's last byte; a fill, two
rows apart and inside the store, and a source that nothing backs. -/
theorem witness_transfers :
    (XferD.parse (pack 64 [(0, 4)])).kind = 4 ∧
    (XferD.parse (pack 64 [(0, 0x103), (0x3C, 0x7FFFFF)])).note + 4 = 0x800000 ∧ (XferD.parse (pack 64 [(0, 0x103)])).notify = true ∧
    (fillT.kind = 3 ∧ (lsAddr 0 : Int) ≤ fillT.dst ∧ (fillT.dst : Int) + fillT.len = lsAddr 0 + 0x800000) ∧
    (rowsT.kind = 2 ∧ rowsT.stage = 0 ∧ rowsT.nrows = 2 ∧
     (∀ r, r < rowsT.nrows → ∀ a ∈ [rowsT.rowAt rowsT.src rowsT.sstride r, rowsT.rowAt rowsT.dst rowsT.dstride r],
       (lsAddr 0 : Int) ≤ a ∧ a + rowsT.len ≤ (lsAddr 0 : Int) + 0x800000) ∧
     (∀ r, r < rowsT.nrows → ∀ q, q < rowsT.nrows →
       rowsT.rowAt rowsT.src rowsT.sstride q + rowsT.len ≤ rowsT.rowAt rowsT.dst rowsT.dstride r ∧
       (r ≠ q → rowsT.rowAt rowsT.dst rowsT.dstride r + rowsT.len ≤ rowsT.rowAt rowsT.dst rowsT.dstride q ∨
         rowsT.rowAt rowsT.dst rowsT.dstride q + rowsT.len ≤ rowsT.rowAt rowsT.dst rowsT.dstride r))) ∧
    runDev.region (XferD.parse (pack 64 [(0, 1), (4, 1), (8, 0x068000000000)])).src = none := by
  decide +kernel

/-- A fill repeats its pattern from DST, and its instruction has its effect (R257, R259). -/
theorem test_fill :
    (after (.transferComplete 0 0 []) (withCore0 (moving [(0, 3), (4, 3), (8, 0x1122334455667788), (0x10, lsBase + 1)]))).dev.mem.bytes =
      [(lsBase + 1, 0x88), (lsBase + 2, 0x77), (lsBase + 3, 0x66)] := by decide +kernel

/-- BackgroundTestsKeepContents: the last line of a region fails, with a spare left; a store at its last region; a scrub of the first
line; an idle core whose bit of LS_RET is 1. -/
theorem witness_background :
    (regDev [(F.BGT_INGOT_EN, 1), (F.BGT_LS_EN, 1), (F.SCRUB_HOURS, 24), (F.LS_RET_2, 2 ^ 31)]).rd F.BGT_INGOT_EN ≠ 0 ∧
    (regDev [(F.BGT_INGOT_EN, 1), (F.BGT_LS_EN, 1), (F.SCRUB_HOURS, 24), (F.LS_RET_2, 2 ^ 31)]).rd F.BGT_LS_EN ≠ 0 ∧
    (regDev [(F.BGT_INGOT_EN, 1), (F.BGT_LS_EN, 1), (F.SCRUB_HOURS, 24), (F.LS_RET_2, 2 ^ 31)]).rd F.SCRUB_HOURS ≠ 0 ∧
    bit ((regDev [(F.LS_RET_2, 2 ^ 31)]).rd F.LS_RET_2) (95 % 32) = true ∧ runDev.rd (F.SPARES_I 0) ≠ 0 ∧
    runDev.present 95 = true ∧ (runDev.core 95).status = .idle ∧ (runDev.core 95).retained = false ∧ lineAddr 631 0 < runDev.nearTop := by
  decide +kernel

/-- FailuresTakeTheLowestSpare: an active pseudo-channel of die 0 with its spare, its limit reached at the fourth word; no spare left;
an unused spare and one that has failed. -/
theorem witness_failures :
    runDev.rd (F.PC_STATE 0) = 0 ∧ runDev.rd (F.PC_LOGICAL 0) < 632 ∧ runDev.rd F.REPAIR_AUTO = 1 ∧
    (∃ q, q < 640 ∧ runDev.rd (F.PC_STATE q) = 1 ∧ q / 160 = 0 ∧ ∀ k, k < q → runDev.rd (F.PC_STATE k) ≠ 1) ∧
    ([0, 64, 128, 192].countP (fun w => decide (w < farBase) && logicalPc w == 0 && decide (runDev.rd F.OP_TIME_MS < 0 + 1000)) = max 1 (runDev.rd F.UE_LIMIT)) ∧
    (regDev [(F.PC_STATE 5, 2)]).rd (F.PC_STATE 5) = 2 ∧ (regDev [(F.REPAIR_AUTO, 0)]).rd F.REPAIR_AUTO ≠ 1 := by
  refine ⟨by decide, by decide, by decide, ⟨63, ?_⟩, by decide, by decide, by decide⟩
  decide +kernel

/-- SweepsRebuildFromTheFirstSource: a mirror entry that covers the line; a registered range that holds it, while PAIRED; neither. -/
theorem witness_sweeps :
    (regDev [(F.MIR_LEN 0, 1), (F.MIR_FAR 0, farBase)]).mirrorOf (lineAddr 3 0) 0 = some (farBase + 768) ∧
    (regDev [(F.MIR_LEN 0, 1)]).rd (F.MIR_LEN 0) ≠ 0 ∧
    ({ regDev [(F.TWIN_STATE, 2)] with twin := { runDev.twin with copied := [(0, 65536)] } } : Dev).rangeOf (lineAddr 3 0) = some 0 ∧
    (regDev [(F.TWIN_STATE, 2)]).rd F.TWIN_STATE = 2 ∧ runDev.lineDirty (lineAddr 3 0) = false ∧
    Behind (regDev [(F.MY_ID, 9), (F.PARTNER_ID, 3), (F.ROUTE 3, 2), (F.LINK_STATE 2, 2)]) 3 2 ∧ (∀ k, k < 16 → runDev.rd (F.MIR_LEN k) = 0) ∧
    0 + 1 < pcLines := by
  unfold Behind; decide +kernel

/-- A failed pseudo-channel 0 gives its logical number to the spare, with one repair record pending (R286, R287). -/
theorem test_pc_failed :
    let t := after (.pcFailed 0 2) ⟨[], runDev⟩
    (t.dev.rd (F.PC_STATE 0), t.dev.rd F.SPARES_LEFT, t.dev.tier.pending.length, t.dev.tier.sweeps.length) = (2, 7, 1, 1) := by
  decide +kernel

/-! ### Rings and descriptors -/

/-- A device in Run whose port A is up, with some register fields set. -/
def linked (rs : List (Field × Nat)) : Dev :=
  { regDev ((F.LINK_SPEED 0, 3) :: rs) with portA := { Port.reset with perst := false, msixOn := true, msix := [(0, ⟨0x1000, 7, false⟩)] } }

/-- A started descriptor, count 0, with values at byte offsets. -/
def desc (fs : List (Nat × Nat)) : Desc := ⟨0, pack 64 fs, 0, 0, false, none, false, 0, [], [], none, [], [], false⟩

/-- The state of a device whose ring 0 has started `y` alone. -/
def ringed (d : Dev) (y : Desc) : State := ⟨[], { d with rings := [(0, { Ring.reset with started := [y] })] }⟩

/-- Near-tier bytes up to the top are clean on a device without errors or repairs. -/
theorem near_clean (d : Dev) (y : Desc) (a n : Nat) (hm : (d.mem.poison, d.mem.latentU, d.mem.latentC) = ([], [], []))
    (ht : d.tier = runDev.tier) (h : a + n ≤ d.nearTop) : NearClean (ringed d y) a n := by
  have e : d.mem.poison = [] ∧ d.mem.latentU = [] ∧ d.mem.latentC = [] := by simpa using hm
  refine ⟨h, ?_, ?_, fun u _ _ => ?_⟩
  · show d.tier.sweeps = []; rw [ht]; rfl
  · show d.tier.awaiting = []; rw [ht]; rfl
  · show u ∉ d.mem.poison ∧ u ∉ d.mem.latentU ∧ u ∉ d.mem.latentC
    rw [e.1, e.2.1, e.2.2]; exact ⟨List.not_mem_nil, List.not_mem_nil, List.not_mem_nil⟩

/-- A descriptor that stands alone is the first for its engine. -/
theorem first_alone (d : Dev) (y : Desc) (h : y.taken = false) : (ringed d y).dev.firstForEngine y = true := by
  unfold Dev.firstForEngine
  split
  · rfl
  · refine List.all_eq_true.2 fun q _ => List.all_eq_true.2 fun z hz => ?_
    have hz : z = y := by
      cases q with
      | zero => simpa [ringed, Dev.ring, Tab.get, Ring.all, Ring.reset] using hz
      | succ q => simp [ringed, Dev.ring, Tab.get, Ring.all, Ring.reset] at hz
    subst hz
    simp [h]

/-- A descriptor that stands alone, as its ring's own. -/
theorem lone (d : Dev) (y : Desc) : Lone (ringed d y) 0 y :=
  ⟨rfl, List.Pairwise.cons (fun _ h => absurd h List.not_mem_nil) .nil, List.mem_singleton.2 rfl⟩

/-- A descriptor that stands alone and passes the checks is at its engine. -/
theorem at_alone (d : Dev) (fs : List (Nat × Nat)) (op : Nat) (hon : d.engineOn op = true) (hop : (desc fs).op = op)
    (hp : ((ringed d (desc fs)).dev.precheck 0 (desc fs)).isNone = true) : AtEngine (ringed d (desc fs)) 0 0 op (desc fs) :=
  ⟨hon, rfl, hop, rfl, rfl, first_alone _ _ rfl, Option.isNone_iff_eq_none.1 hp⟩

/-- DoorbellsAndEnables: a running ring of one entry with ENABLE 1, a tail that is accepted and the first that is not; a ring that
drains, one with a held enable, a halted one with a held RESUME. -/
theorem witness_doorbells :
    (linked [(F.ENABLE 0, 1), (F.RING_STATE 0, 1)]).regReach .a = true ∧ (linked []).sys.phase = .run ∧
    (linked [(F.ENABLE 0, 1), (F.RING_STATE 0, 1)]).rd (F.ENABLE 0) = 1 ∧ (linked [(F.RING_STATE 0, 1)]).rd (F.RING_STATE 0) = 1 ∧
    (linked []).ringSize 0 = 1 ∧ ahead 1 0 ≤ 1 ∧ ¬ ahead 2 0 ≤ 1 ∧ ahead 0 1 = 2 ^ 32 - 1 ∧ (linked []).rd (F.DB_OVERRUN 0) ≠ 1 ∧
    (linked [(F.DB_OVERRUN 0, 1)]).rd (F.DB_OVERRUN 0) = 1 ∧ (linked [(F.RING_STATE 0, 3)]).rd (F.RING_STATE 0) = 3 ∧
    (linked []).cntP 0 = (linked []).cntS 0 ∧ (linked [(F.SQ_STARTED 0, 1)]).cntP 0 ≠ (linked [(F.SQ_STARTED 0, 1)]).cntS 0 ∧
    ({ linked [] with rings := [(0, { Ring.reset with heldEnable := true })] } : Dev).rd (F.RING_STATE 0) = 0 ∧
    ({ linked [(F.RING_STATE 0, 2)] with rings := [(0, { Ring.reset with heldResume := true })] } : Dev).rd (F.RING_STATE 0) = 2 := by
  decide

/-- A doorbell of one past the ring's size is refused: the count stays and DB_OVERRUN is set (R390). -/
theorem test_overrun :
    let t := after (.sqTail .a 0 2) ⟨[], linked [(F.ENABLE 0, 1), (F.RING_STATE 0, 1)]⟩
    (t.dev.cntT 0, t.dev.rd (F.DB_OVERRUN 0)) = (0, 1) := by decide +kernel

/-- DescriptorsStartInOrder: a ring with one descriptor to start, alone or against a ring of higher priority. -/
theorem witness_eligible :
    let d := linked [(F.RING_STATE 0, 1), (F.SQ_TAIL_SEEN 0, 1)]
    Eligible ⟨[], d⟩ 0 ∧ Eligible ⟨[], ((d.wr (F.RING_STATE 1) 1).wr (F.SQ_TAIL_SEEN 1) 1).wr (F.PRIO 1) 1⟩ 1 ∧
    d.rd (F.PRIO 0) < (d.wr (F.PRIO 1) 1).rd (F.PRIO 1) ∧ ¬ Eligible ⟨[], linked [(F.RING_STATE 0, 1)]⟩ 0 := by
  refine ⟨⟨rfl, rfl, rfl, rfl, fun y h => absurd h List.not_mem_nil, by decide, by decide, by decide⟩,
    ⟨rfl, rfl, rfl, rfl, fun y h => absurd h List.not_mem_nil, by decide, by decide, by decide⟩, by decide, fun h => ?_⟩
  exact absurd h.2.2.2.2.2.1 (by decide)

/-- ChecksComeBeforeEffects: descriptors that the checks refuse, each one that its engine takes up next: an unknown opcode, a COPY for
another engine, a CORE_RUN past the last core and one for an engine, LAYOUT_COPY for an absent core and for 0xFF01. -/
theorem witness_checks : ∀ fs ∈ [[], [(0, 0x02)], [(0, 0x20)], [(0, 0x32), (2, 95), (0x14, 2)], [(0, 0x32), (2, 0xFF00)], [(0, 0x40), (2, 96)],
      [(0, 0x40), (2, 0xFF01)]],
    (ringed runDev (desc fs)).dev.engineOn (desc fs).op = true ∧ (ringed runDev (desc fs)).dev.desc 0 0 = some (desc fs) ∧ (desc fs).taken = false ∧
      (desc fs).outcome = none ∧ (ringed runDev (desc fs)).dev.firstForEngine (desc fs) = true := by
  exact fun fs _ => ⟨rfl, rfl, rfl, rfl, first_alone _ _ rfl⟩

/-- The opcode and target at each side of what R397 and R398 allow. -/
theorem test_targets : (targetKind 0x02, targetKind 0x7F, targetKind 0x80) = (.unknown, .engine 0xFF05, .unknown) ∧
    (runDev.precheck 0 (desc [(0, 0x32), (2, 95), (0x14, 1)])).isNone = true ∧
    (runDev.precheck 0 (desc [(0, 0x32), (2, 95), (0x14, 2)])).map (·.2) = some stEngineAbsent := by decide +kernel

/-- FencesWaitAndFlush: a FENCE that its ring takes up, one with all its waits done, one with a wait open, and one with a flush to make
on port A, whose last address is known. -/
theorem witness_fences : ∃ y z w : Desc,
    AtEngine (ringed runDev y) 0 0 1 y ∧
    z.taken = true ∧ z.finished = false ∧ z.waits = [⟨0, 0, some true⟩] ∧ (ringed (linked []) z).dev.flushDone 0 z = true ∧
    (∃ x ∈ w.waits, x.done = none) ∧ (desc [(0, 0x201)]).xflush = true ∧ (linked []).pcieUp .a = true ∧ (linked []).portA.d3hot = false :=
  ⟨desc [(0, 1)], { desc [(0, 1)] with taken := true, waits := [⟨0, 0, some true⟩] }, { desc [(0, 1)] with waits := [⟨0, 0, none⟩] },
    ⟨rfl, rfl, rfl, rfl, rfl, rfl, rfl⟩, rfl, rfl, rfl, rfl, ⟨_, List.mem_singleton.2 rfl, rfl⟩, by decide, by decide, rfl⟩

/-- DescriptorsFinishAndPost: descriptors with an outcome that does not halt and with one that does, on a running ring; one that is
finished at count P; a hold-off with and without a merged cause. -/
theorem witness_finish_post : ∃ y z w : Desc,
    Lone (ringed (linked [(F.RING_STATE 0, 1)]) y) 0 y ∧ y.outcome = some (stOk, noResult) ∧ y.finished = false ∧ haltingStatus stOk = false ∧
    Lone (ringed (linked [(F.RING_STATE 0, 1)]) z) 0 z ∧ z.outcome = some (stOutOfMap, noResult) ∧ haltingStatus stOutOfMap = true ∧
    (linked []).rd (F.CONT_ERR 0) = 0 ∧ (linked [(F.RING_STATE 0, 1)]).flushDone 0 y = true ∧
    Lone (ringed (linked []) w) 0 w ∧ w.count.toNat = (linked []).cntP 0 ∧ w.finished = true ∧ w.result.length = 16 ∧
    w.irq = true ∧ y.irq = false ∧ (linked []).vecSends .a ((linked []).rd (F.VEC 0)) = true ∧ (linked []).hostReach .a = true ∧
    ({ Ring.reset with holdoff := true, merged := true } : Ring).holdoff = true :=
  ⟨{ desc [] with outcome := some (stOk, noResult) }, { desc [] with outcome := some (stOutOfMap, noResult) },
    { desc [(0, 0x100)] with finished := true, result := noResult }, lone _ _, rfl, rfl,
    by decide, lone _ _, rfl, by decide, by decide, by decide,
    lone _ _, by decide, rfl, rfl, by decide, by decide, by decide, by decide, rfl⟩

/-! ### Descriptors of programs, copies and tensors -/

/-- A device in Run whose near memory holds some bytes from 0x1000 on. -/
def holding (bs : List Byte) : Dev := { runDev with mem := { runDev.mem with bytes := putBytes [] 0x1000 bs } }

/-- Ring 0's descriptor alone, on a device in Run. -/
def alone (fs : List (Nat × Nat)) : State := ringed runDev (desc fs)

/-- ProgramsLoadRunAndStop: each of the three for the last core, with COUNT 1 and 0; CODE_LOAD of a region that ends at the top, and
of one that leaves it; a core that runs and one that does not. -/
theorem witness_programs : ∃ code beyond run stop : List (Nat × Nat),
    AtEngine (alone code) 0 0 0x31 (desc code) ∧ (desc code).addr + (desc code).len = runDev.nearTop ∧ (desc code).cnt = 1 ∧
    AtEngine (alone beyond) 0 0 0x31 (desc beyond) ∧ runDev.nearTop < (desc beyond).addr + (desc beyond).len ∧
    AtEngine (alone run) 0 0 0x32 (desc run) ∧ AtEngine (alone stop) 0 0 0x33 (desc stop) ∧
    AtEngine (alone [(0, 0x33)]) 0 0 0x33 (desc [(0, 0x33)]) ∧ (desc [(0, 0x33)]).cnt = 0 ∧ (desc stop).cnt = 2 ∧
    (withCore0 live).dev.coreCount = 96 ∧ live.status = .running ∧ (runDev.core 95).status ≠ .running :=
  ⟨[(0, 0x31), (2, 95), (8, 0x13BFFFFFFC0), (0x10, 64), (0x14, 1)], [(0, 0x31), (8, 0x13BFFFFFFC0), (0x10, 65), (0x14, 1)],
    [(0, 0x32), (2, 95), (0x14, 1)], [(0, 0x33), (2, 94), (0x14, 2), (0x18, 1)], at_alone _ _ _ rfl rfl rfl, by decide, by decide,
    at_alone _ _ _ rfl rfl rfl, by decide, at_alone _ _ _ rfl rfl rfl, at_alone _ _ _ rfl rfl rfl, at_alone _ _ _ rfl rfl rfl, by decide,
    by decide, by decide, rfl, by decide⟩

/-- CopiesAndTranslations: a COPY of ranges that touch, one of no bytes, one from an address that nothing backs. -/
theorem witness_copy : ∃ c z o : List (Nat × Nat),
    AtEngine (alone c) 0 0 0x20 (desc c) ∧ (desc c).addr + (desc c).len = (desc c).at 0x18 8 ∧
    NearClean (alone c) (desc c).addr (desc c).len ∧ NearClean (alone c) ((desc c).at 0x18 8) (desc c).len ∧
    AtEngine (alone z) 0 0 0x20 (desc z) ∧ (desc z).len = 0 ∧
    AtEngine (alone o) 0 0 0x20 (desc o) ∧ (desc o).len ≠ 0 ∧ runDev.region (desc o).addr = none :=
  ⟨[(0, 0x20), (2, 0xFF00), (8, 0x1000), (0x10, 16), (0x18, 0x1010)], [(0, 0x20), (2, 0xFF00)],
    [(0, 0x20), (2, 0xFF00), (8, 0x068000000000), (0x10, 1)], at_alone _ _ _ rfl rfl rfl, by decide,
    near_clean _ _ _ _ rfl rfl (by decide), near_clean _ _ _ _ rfl rfl (by decide), at_alone _ _ _ rfl rfl rfl, by decide,
    at_alone _ _ _ rfl rfl rfl, by decide, by decide⟩

/-- The header of an APO without a body, which the checks accept. -/
def apoHeader : List Byte := pack 16 [(0, 0x314F5041), (4, 1), (0xC, 1)] ++ sha256 [] ++ List.replicate 16 0

/-- CopiesAndTranslations: an APO that is accepted, and one without MAGIC; that its translation fits is a condition on a free value. -/
theorem witness_apo : ∃ fs : List (Nat × Nat),
    AtEngine (ringed (holding apoHeader) (desc fs)) 0 0 0x30 (desc fs) ∧ NearClean (ringed (holding apoHeader) (desc fs)) (desc fs).addr (desc fs).len ∧
    (holding apoHeader).peek (desc fs).addr (desc fs).len = apoHeader ∧ field apoHeader 0 4 = 0x314F5041 ∧ field apoHeader 6 2 < 2 ∧
    field apoHeader 0x30 16 = 0 ∧ sha256 ((apoHeader.drop 64).take (field apoHeader 8 4)) = (apoHeader.drop 0x10).take 32 ∧
    field apoHeader 4 1 = 1 ∧ field apoHeader 5 1 ≤ (holding apoHeader).rd F.ADECIA_MINOR ∧
    AtEngine (alone fs) 0 0 0x30 (desc fs) ∧ field (runDev.peek (desc fs).addr (desc fs).len) 0 4 ≠ 0x314F5041 ∧
    (∃ o : Config.ApoOut, o.err < 4 ∧ (apoRegion (field apoHeader 0xC 4) o).length ≤ 16) := by
  refine ⟨[(0, 0x30), (2, 0xFF01), (8, 0x1000), (0x10, 64)], at_alone _ _ _ rfl rfl rfl, near_clean _ _ _ _ rfl rfl (by decide), ?_,
    ?_, ?_, ?_, ?_, ?_, ?_, at_alone _ _ _ rfl rfl rfl, by decide, ⟨⟨0, 0, [], []⟩, by decide, ?_⟩⟩ <;> decide +kernel

/-- StepReportsTimePhases: one core, with exactly the room that its record and the summary take, and none. -/
theorem witness_step_report : ∃ f : List (Nat × Nat), AtEngine (alone f) 0 0 0x34 (desc f) ∧ (desc f).cnt = 1 ∧
    1056 * (desc f).cnt + 2080 = (desc f).len ∧ NearClean (alone f) ((desc f).addr / 8 * 8) (1056 * (desc f).cnt + 2080) ∧
    AtEngine (alone [(0, 0x34)]) 0 0 0x34 (desc [(0, 0x34)]) ∧ (desc [(0, 0x34)]).cnt = 0 :=
  ⟨[(0, 0x34), (2, 95), (8, 0x2000), (0x10, 3136), (0x14, 1)], at_alone _ _ _ rfl rfl rfl, by decide, by decide,
    near_clean _ _ _ _ rfl rfl (by decide), at_alone _ _ _ rfl rfl rfl, by decide⟩

/-- Two tensor descriptors of rank 1 in INT8, of four elements each: the source at 0x4000, the destination at 0x5000. -/
def vectors : List Byte :=
  pack 256 [(0, 0x15), (1, 1), (8, 0x4000), (0x20, 4)] ++ pack 256 [(0, 0x15), (1, 1), (8, 0x5000), (0x20, 4)]

/-- LayoutCopiesAndMappings: a copy between two unsharded descriptors, where nothing backs the source's descriptor, and where the
destination is empty. -/
theorem witness_layout : ∃ f g : List (Nat × Nat),
    AtEngine (ringed (holding vectors) (desc f)) 0 0 0x40 (desc f) ∧ runDev.region ((desc g).addr / 8 * 8) = none ∧
    AtEngine (alone g) 0 0 0x40 (desc g) ∧
    (tdescAt (ringed (holding vectors) (desc f)) (desc f).addr).sizes = [4] ∧
    (tdescAt (ringed (holding vectors) (desc f)) ((desc f).at 0x18 8)).sizes = [4] ∧
    (tdescAt (ringed (holding vectors) (desc f)) (desc f).addr).sharded = false ∧
    (tdescAt (ringed (holding vectors) (desc f)) ((desc f).at 0x18 8)).sharded = false ∧
    (tdescAt (ringed (holding vectors) (desc f)) (desc f).addr).rank = 1 ∧
    (let t := tdescAt (ringed (holding vectors) (desc f)) (desc f).addr
     elemBits t.fmt = 8 * (elemBits t.fmt / 8) ∧ t.scaling t.fmt = 0 ∧ t.base = 0x4000) ∧
    NearClean (ringed (holding vectors) (desc f)) ((desc f).addr / 8 * 8) 256 ∧
    NearClean (ringed (holding vectors) (desc f)) ((desc f).at 0x18 8 / 8 * 8) 256 ∧
    NearClean (ringed (holding vectors) (desc f)) 0x4000 4 ∧ NearClean (ringed (holding vectors) (desc f)) 0x5000 4 := by
  refine ⟨[(0, 0x40), (2, 0xFF00), (8, 0x1000), (0x18, 0x1100)], [(0, 0x40), (2, 0xFF00), (8, 0x068000000000)], at_alone _ _ _ rfl rfl rfl,
    by decide, at_alone _ _ _ rfl rfl rfl, ?_, ?_, ?_, ?_, ?_, ?_, near_clean _ _ _ _ rfl rfl (by decide),
    near_clean _ _ _ _ rfl rfl (by decide), near_clean _ _ _ _ rfl rfl (by decide),
    near_clean _ _ _ _ rfl rfl (by decide)⟩ <;> decide +kernel

/-- LayoutCopiesAndMappings: a mapping of two axes whose table holds this device at place 1, one without axes, one with an axis of 0. -/
theorem witness_map : ∃ f g z : List (Nat × Nat),
    AtEngine (ringed (holding (pack 4 [(0, 7), (2, 9)])) (desc f)) 0 0 0x48 (desc f) ∧
    (List.range (min 4 (bits ((desc f).at 0x19 1) 0 3))).map (fun a => (desc f).at (0x1C + 2 * a) 2) = [2, 1] ∧
    leNat ((holding (pack 4 [(0, 7), (2, 9)])).peek ((desc f).addr + 2) 2) = 9 ∧
    NearClean (ringed (holding (pack 4 [(0, 7), (2, 9)])) (desc f)) (desc f).addr 4 ∧
    AtEngine (alone g) 0 0 0x48 (desc g) ∧ bits ((desc g).at 0x19 1) 0 3 = 0 ∧
    AtEngine (alone z) 0 0 0x48 (desc z) ∧ bits ((desc z).at 0x19 1) 0 3 = 1 ∧ (desc z).at 0x1C 2 = 0 :=
  ⟨[(0, 0x48), (2, 0xFF00), (8, 0x1000), (0x18, 7), (0x19, 2), (0x1C, 2), (0x1E, 1)], [(0, 0x48), (2, 0xFF00)],
    [(0, 0x48), (2, 0xFF00), (0x19, 1)], at_alone _ _ _ rfl rfl rfl, by decide +kernel, by decide +kernel,
    near_clean _ _ _ _ rfl rfl (by decide), at_alone _ _ _ rfl rfl rfl, by decide, at_alone _ _ _ rfl rfl rfl, by decide, by decide⟩

/-- A device of ID 9 with an expert map of one local expert, whose buffer is at 0x10000 and whose results are at 0x20000. -/
def mapped : Dev := (holding (pack 96 [(0, 1), (2, 1), (64, 9), (72, 0x10000), (80, 0x20000)])).wr F.MY_ID 9

/-- One token of 256 B at 0x4000 with one choice at 0x2000, slots at 0x3000. -/
def dispatchD : Desc := desc [(0, 0x41), (2, 0xFF00), (8, 0x4000), (0x10, 256), (0x14, 1), (0x18, 0x2000), (0x20, 0x1000), (0x28, 0x3000),
  (0x30, 256), (0x36, 1), (0x38, 1), (0x3C, 5)]

/-- One output element at 0x5000 from the slot at 0x3000 and the weight at 0x2800. -/
def combineD : Desc := desc [(0, 0x42), (2, 0xFF00), (8, 0x5000), (0x10, 1), (0x14, 1), (0x18, 0x3000), (0x20, 0x1000), (0x28, 0x2800),
  (0x30, 4), (0x36, 1), (0x38, 1)]

/-- DispatchAndCombine: each with one token, one choice and one expert, on ranges that are clean and apart. -/
theorem witness_experts :
    AtEngine (ringed mapped dispatchD) 0 0 0x41 dispatchD ∧ field (mapped.peek 0x1000 64) 0 2 = 1 ∧ field (mapped.peek 0x1000 64) 2 2 = 1 ∧
    BitVec.ofNat 16 (field (mapped.peek 0x1040 32) 0 2) = mapped.myId ∧ field (mapped.peek 0x1040 32) 8 8 = 0x10000 ∧
    field (mapped.peek 0x1040 32) 0x18 8 < 8 ∧ mapped.cxe.jobs = [] ∧ mapped.cxe.outst = [] ∧
    min 8 (bits (dispatchD.at 0x36 1) 0 4) = 1 ∧ dispatchD.at 0x34 2 = 0 ∧
    AtEngine (ringed mapped combineD) 0 0 0x42 combineD ∧ field (mapped.peek 0x3000 8) 0 4 = 0 ∧ field (mapped.peek 0x3000 8) 4 4 = 0 ∧
    field (mapped.peek 0x1040 32) 0x10 8 = 0x20000 ∧ (∀ a n, a + n ≤ 0x30000 → NearClean (ringed mapped dispatchD) a n) ∧
    (∀ a n, a + n ≤ 0x30000 → NearClean (ringed mapped combineD) a n) := by
  refine ⟨at_alone _ _ _ rfl rfl rfl, ?_, ?_, ?_, ?_, ?_, rfl, rfl, ?_, ?_, at_alone _ _ _ rfl rfl rfl, ?_, ?_, ?_,
    fun a n h => near_clean _ _ _ _ rfl rfl (Nat.le_trans h ?_), fun a n h => near_clean _ _ _ _ rfl rfl (Nat.le_trans h ?_)⟩ <;> decide +kernel

/-- A kept row stands in its slot, and its expert's count word holds the number of rows and EPOCH (R304, R305). -/
theorem test_dispatch : (after (.dispatch 0 0 []) (ringed mapped dispatchD)).dev.peek 0x10000 8 = [1, 0, 0, 0, 5, 0, 0, 0] := by
  decide +kernel

/-- The weight 2.0 times the expert's 3.0 (R314). -/
theorem test_combine :
    let b := putBytes (putBytes mapped.mem.bytes 0x2800 (leBytes 4 0x40000000)) 0x20000 (leBytes 4 0x40400000)
    let d : Dev := { mapped with mem := { mapped.mem with bytes := b } }
    leNat ((after (.combine 0 0 [] []) (ringed d combineD)).dev.peek 0x5000 4) = 0x40C00000 := by decide +kernel

/-! ### The keep tier and twins -/

/-- A device in Run with some keep-tier bytes from block `b` on, in the twin state `t`. -/
def keeping (b : Nat) (bs : List Byte) (t : Twin) : Dev :=
  { runDev with mem := { runDev.mem with keep := putBytes [] (b * 4096) bs }, twin := t }

/-- An unpaired twin engine with one registered range of 8 KiB. -/
def twin1 : Twin := { runDev.twin with ranges := [(0x10000, 8192)] }

/-- The first 32 B of a slot header: a valid generation of STEP 5, without ranges. -/
def headerBytes (gen : Nat) : List Byte := pack 32 [(0, 0x4E495754), (4, 1), (8, gen), (0x10, 5)]

/-- KeepTierMovesWholeBlocks: reads of the last block, of one past it, of an image block and of none; a write to the last block of
staging is refused and one to the first block of the keep area is not; a bad block. -/
theorem witness_keep : ∃ f g h w v : List (Nat × Nat),
    AtEngine (alone f) 0 0 0x50 (desc f) ∧ (desc f).at 0x18 8 + (desc f).cnt = 2 ^ 28 ∧ NearClean (alone f) (desc f).addr 4096 ∧
    AtEngine (alone g) 0 0 0x50 (desc g) ∧ (desc g).at 0x18 8 + (desc g).cnt = 2 ^ 28 + 1 ∧
    AtEngine (alone h) 0 0 0x50 (desc h) ∧ (desc h).at 0x18 8 + (desc h).cnt = 0x8000 ∧
    AtEngine (alone w) 0 0 0x51 (desc w) ∧ (desc w).at 0x18 8 = 0x14000 ∧ NearClean (alone w) (desc w).addr 4096 ∧
    AtEngine (alone v) 0 0 0x51 (desc v) ∧ (desc v).at 0x18 8 = 0x13FFF ∧
    runDev.rd F.NV_INHIBIT ≠ 1 ∧ (regDev [(F.NV_INHIBIT, 1)]).rd F.NV_INHIBIT = 1 ∧
    0x14000 ∈ ({ runDev.mem with keepBad := [0x14000] } : Mem).keepBad :=
  ⟨[(0, 0x50), (2, 0xFF02), (0x14, 1), (0x18, 0xFFFFFFF)], [(0, 0x50), (2, 0xFF02), (0x14, 1), (0x18, 0x10000000)],
    [(0, 0x50), (2, 0xFF02), (0x14, 1), (0x18, 0x7FFF)], [(0, 0x51), (2, 0xFF02), (0x14, 1), (0x18, 0x14000)],
    [(0, 0x51), (2, 0xFF02), (0x14, 1), (0x18, 0x13FFF)], at_alone _ _ _ rfl rfl rfl, by decide, near_clean _ _ _ _ rfl rfl (by decide),
    at_alone _ _ _ rfl rfl rfl, by decide, at_alone _ _ _ rfl rfl rfl, by decide, at_alone _ _ _ rfl rfl rfl, by decide,
    near_clean _ _ _ _ rfl rfl (by decide), at_alone _ _ _ rfl rfl rfl, by decide, by decide, by decide, by decide⟩

/-- KeepTierMovesWholeBlocks: SNAP_WRITE with one range, and SNAP_READ of a slot with a valid header and of one without. -/
theorem witness_snap : ∃ d : Dev, d = keeping 0x1000000 (headerBytes 3) twin1 ∧
    AtEngine (ringed d (desc [(0, 0x76), (2, 0xFF04)])) 0 0 0x76 (desc [(0, 0x76), (2, 0xFF04)]) ∧ d.twin.pairing = none ∧ d.twin.fill = none ∧
    CleanRanges (ringed d (desc [(0, 0x76), (2, 0xFF04)])) d.twin.ranges ∧
    AtEngine (ringed d (desc [(0, 0x77), (2, 0xFF04)])) 0 0 0x77 (desc [(0, 0x77), (2, 0xFF04)]) ∧
    Valid (keepAt (ringed d (desc [(0, 0x77), (2, 0xFF04)])) 0x1000000 4096) ∧
    hdrRanges (keepAt (ringed d (desc [(0, 0x77), (2, 0xFF04)])) 0x1000000 4096) = [] ∧
    ¬ Valid (keepAt (ringed d (desc [(0, 0x77), (2, 0xFF04), (0x18, 1)])) 0x8800000 4096) := by
  refine ⟨_, rfl, at_alone _ _ _ rfl rfl rfl, rfl, rfl, fun g h => ?_, at_alone _ _ _ rfl rfl rfl, ⟨?_, ?_⟩, ?_, fun h => ?_⟩
  · rw [List.mem_singleton.1 h]; exact ⟨by decide, near_clean _ _ _ _ rfl rfl (by decide)⟩
  · decide +kernel
  · decide +kernel
  · decide +kernel
  · exact absurd h.1 (by decide +kernel)

/-- What a partner answers that names this device, with two valid headers, the second newer. -/
def answer : PartnerAns := ⟨true, stOk, 3, true, false, farBase, 0x40000, headerBytes 1 ++ List.replicate 4064 0,
  headerBytes 2 ++ List.replicate 4064 0, [], 1, stOk, 0⟩

/-- A paired device of ID 9 whose partner 4 is behind port 2, which is up, with one registered range. -/
def paired : Dev :=
  { regDev [(F.MY_ID, 9), (F.PARTNER_ID, 4), (F.ROUTE 4, 2), (F.LINK_STATE 2, 2), (F.TWIN_STATE, 2), (F.HOST_BASE, farBase), (F.HOST_SIZE, 0x40000)]
    with twin := { twin1 with answered := true, peerBase := farBase, peerSize := 0x40000 } }

/-- TwinsPairAndLoseEachOther: TWIN_PAIR of a device with an ID on an area that ends at the last far byte, and of one without; the
others; a pairing under way, a pair, and the answers of each clause. -/
theorem witness_pairing : ∃ (f g u x : List (Nat × Nat)) (d : Dev), d = regDev [(F.MY_ID, 9)] ∧ (ringed paired (desc [])).dev.askStatus.2 = true ∧
    AtEngine (ringed d (desc f)) 0 0 0x70 (desc f) ∧ (desc f).at 0x20 8 / 65536 * 65536 + (desc f).at 0x28 8 / 65536 * 65536 = 0x068000000000 ∧
    (desc f).at 0x18 2 ≠ d.rd F.MY_ID ∧ AtEngine (alone g) 0 0 0x70 (desc g) ∧ runDev.rd F.MY_ID = 0xFFFF ∧
    AtEngine (alone u) 0 0 0x71 (desc u) ∧ AtEngine (alone x) 0 0 0x72 (desc x) ∧ NearClean (alone x) (desc x).addr (16 * min 16 (desc x).cnt) ∧
    (regDev [(F.TWIN_STATE, 2)]).rd F.TWIN_STATE = 2 ∧ runDev.twin.misses + 1 < max 1 (runDev.rd F.PARTNER_MISS_LIMIT) ∧
    ({ runDev.twin with misses := 2 } : Twin).misses + 1 = max 1 (runDev.rd F.PARTNER_MISS_LIMIT) ∧
    ({ runDev.twin with pairing := some (0, 0), answered := true } : Twin).pairing = some (0, 0) ∧
    answer.feedId ≠ runDev.sys.strapFeed ∧ ({ answer with feedId := 0 } : PartnerAns).feedId = runDev.sys.strapFeed ∧
    runDev.rd F.FEED_OVERRIDE = 0 ∧ answer.namesUs = true ∧ answer.status = stOk :=
  ⟨[(0, 0x70), (2, 0xFF04), (0x18, 4), (0x20, 0x067FFFFF0000), (0x28, 0x10000)], [(0, 0x70), (2, 0xFF04), (0x18, 4)],
    [(0, 0x71), (2, 0xFF04)], [(0, 0x72), (2, 0xFF04), (8, 0x1000), (0x14, 17)], _, rfl, rfl, at_alone _ _ _ rfl rfl rfl, by decide, by decide,
    at_alone _ _ _ rfl rfl rfl, by decide, at_alone _ _ _ rfl rfl rfl, at_alone _ _ _ rfl rfl rfl, near_clean _ _ _ _ rfl rfl (by decide),
    by decide, by decide, by decide, rfl, by decide, by decide, by decide, rfl, rfl⟩

/-- TwinCopiesCommitFillAndVerify: TWIN_COMMIT that fits and one that does not, with the partner's port up and its newest slot; a fill with
a valid generation selected; a verify against the generation of STEP 5. -/
theorem witness_twin_copies : ∃ c f v : List (Nat × Nat),
    AtEngine (ringed paired (desc c)) 0 0 0x73 (desc c) ∧ Free (ringed paired (desc c)) ∧ paired.cxe.outst = [] ∧ paired.rd F.TWIN_STATE = 2 ∧
    PartnerPort (ringed paired (desc c)) 2 ∧ CleanRanges (ringed paired (desc c)) paired.twin.ranges ∧
    4096 + paired.twin.ranges.foldl (fun t g => t + g.2) 0 ≤ paired.twin.peerSize / 2 / 65536 * 65536 ∧
    0 / 2 / 65536 * 65536 < 4096 + paired.twin.ranges.foldl (fun t g => t + g.2) 0 ∧
    answer.okPackets ≤ (rangesData (ringed paired (desc c)) paired.twin.ranges).length / 8192 + 1 ∧
    AtEngine (ringed paired (desc f)) 0 0 0x74 (desc f) ∧ hdrRanges answer.hdr1 = [] ∧ answer.data = [] ∧
    AtEngine (ringed paired (desc v)) 0 0 0x75 (desc v) ∧ (desc v).at 0x28 4 = 5 ∧ field answer.hdr0 0x10 4 = 5 ∧
    (runDev.rd F.TWIN_STATE ≠ 2 ∧ stLinkLost ≠ stOk ∧ stLinkLost.toNat < 16) := by
  refine ⟨[(0, 0x73), (2, 0xFF04)], [(0, 0x74), (2, 0xFF04)], [(0, 0x75), (2, 0xFF04), (0x28, 5)], at_alone _ _ _ rfl rfl rfl, ⟨rfl, rfl⟩, rfl, by decide,
    ⟨by decide, by decide, by decide, by decide, by decide, by decide⟩, fun g h => ?_, by decide, by decide, by decide +kernel,
    at_alone _ _ _ rfl rfl rfl, by decide +kernel, rfl, at_alone _ _ _ rfl rfl rfl, by decide, by decide +kernel, by decide⟩
  rw [List.mem_singleton.1 h]; exact ⟨by decide, near_clean _ _ _ _ rfl rfl (by decide)⟩

/-- The newer of the two headers above is the second. -/
theorem witness_newest : Newest answer.hdr0 answer.hdr1 1 ∧ ¬ Newest answer.hdr0 answer.hdr1 0 :=
  ⟨.inr ⟨rfl, ⟨by decide +kernel, by decide +kernel⟩, fun _ => by decide +kernel⟩,
    fun h => h.elim (fun h => absurd (h.2.2 ⟨by decide +kernel, by decide +kernel⟩) (by decide +kernel)) (fun h => absurd h.1 (by decide))⟩

/-! ### Links, packets, collectives -/

/-- What a neighbour with 4 lanes, 224 Gb/s and 100 credits brings to a training. -/
def training : TrainRes := ⟨4, true, true, true, 5, 100, 100⟩

/-- An IDLE flit, and a DATA flit with SEQ `n` that carries a READY packet of ID 3 for device 9. -/
def readyPkt : Pkt := ⟨0, 6, false, 0, 0, 8, 9, 3, 0, 0, 0x55, 0, [], []⟩
def dataFlit (n : Nat) : List Byte := flitBytes ⟨false, false, 0xFFFF, none⟩ n readyPkt.flits.head?

/-- LinksTrainSendAndReceive: a port that may train at either speed, and one whose training fails; a flit with a good CRC that comes next
in sequence, one that does not, an IDLE one and one whose CRC fails; something to resend, to send, and to lose. -/
theorem witness_links : ∃ (up : Dev) (l : Link), up = regDev [(F.LINK_STATE 2, 2), (F.PORT_EN 2, 1)] ∧
    MayTrain ⟨[], regDev [(F.PORT_EN 2, 1)]⟩ 2 ∧ TrainsTo ⟨[], runDev⟩ 2 training 0 ∧
    TrainsTo ⟨[], regDev [(F.MAX_SPEED 2, 1)]⟩ 2 training 1 ∧ (∀ v, ¬ TrainsTo ⟨[], runDev⟩ 2 { training with lanes := 3 } v) ∧
    up.rd (F.LINK_STATE 2) = 2 ∧ flitCrcOk (dataFlit 0) = true ∧ field (dataFlit 0) 4 2 = (Link.reset.rxLast + 1) % 65536 ∧
    field (dataFlit 1) 4 2 ≠ (Link.reset.rxLast + 1) % 65536 ∧ bit (field (dataFlit 0) 1 1) 4 = false ∧ field (dataFlit 0) 0 1 % 16 = 1 ∧
    (parseFlit (dataFlit 0)).eop = true ∧ field (flitBytes ⟨true, false, 7, some (3, 9)⟩ 0 none) 0 1 % 16 = 0 ∧
    flitCrcOk (flitBody ⟨false, false, 0, none⟩ 0 none ++ leBytes 4 ((crc32 (flitBody ⟨false, false, 0, none⟩ 0 none)).toNat + 1)) = false ∧
    l.replay = [(7, ⟨0, true, true, []⟩)] ∧ l.resendAt = some 7 ∧ l.stopIn = false ∧ Tab.get l.credits 0 0 = 1 ∧ l.resends = [(7, 16)] := by
  refine ⟨_, { Link.reset with replay := [(7, ⟨0, true, true, []⟩)], resendAt := some 7, credits := [(0, 1)], resends := [(7, 16)] }, rfl,
    ⟨by decide, by decide, by decide, .inr ⟨by decide, rfl, rfl⟩⟩, ⟨rfl, .inl ⟨rfl, by decide, rfl, rfl⟩⟩,
    ⟨rfl, .inr ⟨rfl, by decide, rfl⟩⟩, fun v h => absurd h.1 (by decide), by decide, flitCrcOk_flitBytes _ _ _, ?_, ?_, ?_, ?_, ?_, ?_, ?_, rfl, rfl, rfl,
    by decide, rfl⟩
  case refine_7 =>
    rw [flitCrcOk_append _ _ (flitBody_length _ _ _), decide_eq_false_iff_not]
    have := (crc32 (flitBody ⟨false, false, 0, none⟩ 0 none)).isLt
    omega
  all_goals decide +kernel

/-- A device of ID 9 in Run, with device 3 behind port 2, which is up. -/
def routed : Dev := regDev [(F.MY_ID, 9), (F.ROUTE 3, 2), (F.LINK_STATE 2, 2)]

/-- A packet of an operation for device 9 from device 3. -/
def packet (pop addr len : Nat) (data : List Byte) : Pkt := ⟨6, pop, false, 0, 0, 8, 9, 3, addr, len, 0x55, 0, [], data⟩

/-- PacketsCarryReadsAndWrites: link descriptors of no bytes, without an ID, to this device, and to a peer. -/
theorem witness_link_descriptors : ∃ f g : List (Nat × Nat),
    AtEngine (ringed routed (desc f)) 0 0 0x60 (desc f) ∧ AtEngine (ringed routed (desc g)) 0 0 0x61 (desc g) ∧ (desc f).len = 8193 ∧
    TablePort (ringed routed (desc f)) 3 2 ∧ BitVec.ofNat 16 ((desc f).at 0x18 2) = 3 ∧ bit ((desc f).at 0x1A 1) 3 = false ∧
    BitVec.ofNat 16 ((desc g).at 0x18 2) = routed.myId ∧ Disjoint_ (desc g).addr (desc g).len ((desc g).at 0x28 8) (desc g).len ∧
    NearClean (ringed routed (desc f)) (desc f).addr (desc f).len ∧ NearClean (ringed routed (desc g)) (desc g).addr (desc g).len ∧
    AtEngine (alone f) 0 0 0x60 (desc f) ∧ runDev.myId = 0xFFFF ∧ routed.cxe.outst = [] ∧ routed.cxe.jobs = [] ∧
    AtEngine (alone [(0, 0x60), (2, 0xFF00)]) 0 0 0x60 (desc [(0, 0x60), (2, 0xFF00)]) :=
  ⟨[(0, 0x60), (2, 0xFF00), (8, 0x1000), (0x10, 8193), (0x18, 3), (0x28, 0x2000)],
    [(0, 0x61), (2, 0xFF00), (8, 0x1000), (0x10, 16), (0x18, 9), (0x28, 0x1010)], at_alone _ _ _ rfl rfl rfl, at_alone _ _ _ rfl rfl rfl,
    by decide, ⟨by decide, by decide, by decide, by decide, by decide⟩, by decide, by decide, by decide, .inl (by decide),
    near_clean _ _ _ _ rfl rfl (by decide), near_clean _ _ _ _ rfl rfl (by decide), at_alone _ _ _ rfl rfl rfl, by decide, rfl, rfl,
    at_alone _ _ _ rfl rfl rfl⟩

/-- PacketsCarryReadsAndWrites: served packets; a transit packet with TTL 2 and with 1; the last answer that a descriptor waits for. -/
theorem witness_packets : ∃ (d : Dev) (k w : Pkt) (o : Outst),
    (∀ q : Pkt, FirstPkt ⟨[], { d with cxe := { d.cxe with inbox := [(2, q)] } }⟩ (Mine ⟨[], d⟩ q.pop) q [] ↔ q.dst = d.myId) ∧
    d.sys.phase ≠ .retain ∧ d.winHeld 0x068000000000 4 = false ∧
    k.dst = d.myId ∧ k.data ≠ [] ∧ k.src = 3 ∧ w.dst ≠ d.myId ∧ w.ttl = 2 ∧ 2 ≤ w.ttl ∧ d.rd (F.ROUTE w.dst.toNat) = 2 ∧ d.linkUp 2 = true ∧
    w.src ≠ d.myId ∧ { w with ttl := 1 }.ttl ≤ 1 ∧ d.region (0x068000000000 % 2 ^ 64) = none ∧
    LastOpen (ringed { d with cxe := { d.cxe with outst := [o], jobs := [⟨0, 0, none⟩] } } (desc [])) 0 0 [] [] o ∧ o.write = false := by
  refine ⟨routed, packet 1 0x1000 4 [1, 2, 3, 4], { packet 1 0 0 [] with dst := 3, src := 5, ttl := 2 },
    ⟨0x55, false, 3, 2, [], 2, 0x1000, 4, 0, 0, 0, none⟩, fun q => ⟨fun h => ?_, fun h => ?_⟩, ?_⟩
  · obtain ⟨_, _, _, _, _, h, _⟩ := h; exact h.2.1
  · exact ⟨[], 2, [], rfl, fun _ h => absurd h List.not_mem_nil, ⟨by decide, h, rfl⟩, rfl⟩
  · exact ⟨by decide, by decide, by decide, by decide, rfl, by decide, rfl, by decide, by decide, by decide, by decide, by decide, by decide, ⟨rfl, rfl, rfl, rfl,
      fun _ h => absurd h List.not_mem_nil, fun x h _ => List.mem_singleton.1 h, rfl, ⟨_, rfl⟩, by unfold Serves; decide, fun _ h => absurd h List.not_mem_nil⟩, rfl⟩

/-- A device of ID 9 whose mapping 0 has one axis of devices 3 and 9. -/
def grouped : Dev := { routed with cxe := { routed.cxe with maps := [(0, ⟨[2], [3, 9]⟩)] } }

/-- A barrier of devices 3 and 9, of which this is rank 1. -/
def barrier : Coll := ⟨0x55, 0, 0, false, 5, 9, false, 0, 0, 0, 3, 0, [2], 1, [3, 9], [], [], 0, [], [], [], [], 0, 0⟩

/-- CollectivesMeetAndComplete: a collective without an ID, one with an empty axis set, a barrier, and the packets and timers of the
other clauses. -/
theorem witness_collectives : ∃ f b : List (Nat × Nat),
    AtEngine (alone f) 0 0 0x62 (desc f) ∧ runDev.myId = 0xFFFF ∧
    AtEngine (ringed grouped (desc f)) 0 0 0x62 (desc f) ∧ (grouped.phaseMap ((desc f).at 0x20 1 % 8)).axes ≠ [] ∧
    grouped.myId ∈ (grouped.phaseMap ((desc f).at 0x20 1 % 8)).ids ∧ (desc f).at 0x20 1 / 16 = 0 ∧ (desc f).at 0x21 1 % 8 = 2 ∧
    bit ((desc f).at 0x22 1) 4 = false ∧ (desc f).at 0x22 1 % 16 = 9 ∧ (desc f).cnt = 1 ∧
    NearClean (ringed grouped (desc f)) (desc f).addr 4 ∧ NearClean (ringed grouped (desc f)) ((desc f).at 0x18 8) 4 ∧
    AtEngine (ringed grouped (desc b)) 0 0 0x62 (desc b) ∧ (desc b).at 0x21 1 % 8 = 5 ∧ (grouped.collOf 0 (desc b)).isSome = true ∧
    (grouped.collOf 0 (desc b)).map Coll.parts = some 2 ∧ TablePort (ringed grouped (desc b)) 3 2 ∧ grouped.cxe.notices = [] ∧
    barrier.n = 0 ∧ barrier.left = 0 ∧ barrier.queue = [] ∧ barrier.rankOf readyPkt.src = some 0 ∧ readyPkt.tag = barrier.id ∧
    readyPkt.dst = grouped.myId ∧ ({ barrier with queue := [⟨0, 0, []⟩] } : Coll).queue ≠ [] ∧
    barrier.partners.filter (fun i => !barrier.ready.contains i) = [0] ∧ (regDev [(F.COLL_TIMEOUT_MS, 1)]).rd F.COLL_TIMEOUT_MS ≠ 0 :=
  ⟨[(0, 0x62), (2, 0xFF00), (8, 0x1000), (0x14, 1), (0x18, 0x2000), (0x21, 2), (0x22, 9)], [(0, 0x62), (2, 0xFF00), (0x20, 0x10), (0x21, 5)],
    at_alone _ _ _ rfl rfl rfl, by decide, at_alone _ _ _ rfl rfl rfl, by decide, by decide, by decide, by decide, by decide, by decide,
    by decide, near_clean _ _ _ _ rfl rfl (by decide), near_clean _ _ _ _ rfl rfl (by decide), at_alone _ _ _ rfl rfl rfl, by decide, by decide,
    by decide, ⟨by decide, by decide, by decide, by decide, by decide⟩, rfl, rfl, rfl, rfl, by decide, rfl, by decide, by decide, by decide,
    by decide⟩

/-! ### The host's accesses -/

/-- Device A's host reaches BAR0 and BAR4, with BAR4_BASE at `base` MiB. -/
def mappedAt (base : Nat) : Dev := linked [(F.BAR4_BASE 0, base * 2 ^ 20)]

/-- Bar4AndHoldBack: reads and writes at the first Ingot byte, below it, and at the last bytes of a local store; a queue that is full;
a held write alone, behind a dropped one, and dropped an eighth and a ninth time. -/
theorem witness_bar4 : ∃ (h : Held) (c : Collided), (mappedAt 0).hostReach .a = true ∧ (mappedAt 0).bar4Busy .a = false ∧
    bar4At ⟨[], mappedAt (ingotBase / 2 ^ 20)⟩ .a 0 = ingotBase ∧ IngotClean ⟨[], mappedAt 0⟩ ingotBase 8 ∧
    bar4At ⟨[], mappedAt (ingotBase / 2 ^ 20 - 1)⟩ .a 0xFFFFF = ingotBase - 1 ∧ 0x068000000000 ≤ ingotBase - 1 ∧
    InStore ⟨[], mappedAt 0⟩ 95 (lsAddr 95 + 0x800000 - 8) 8 ∧ 65536 < 65535 + 2 ∧
    h = ⟨bar4Queue .a, .memory, .bytes ingotBase [1]⟩ ∧ ({ mappedAt 0 with hold := [h] } : Dev).hold = [] ++ h :: [] ∧
    ({ mappedAt 0 with hold := [h] } : Dev).heldBytes (bar4Queue .a) = 1 ∧ c = ⟨{ h with body := .bytes (lsAddr 0) [1] }, 7⟩ ∧ c.tries < 8 ∧
    8 ≤ ({ c with tries := 8 } : Collided).tries ∧ InStore ⟨[], mappedAt 0⟩ 0 (lsAddr 0) 1 :=
  ⟨_, _, by decide, by decide, by decide +kernel,
    ⟨by decide, by decide, fun _ _ _ => ⟨List.not_mem_nil, List.not_mem_nil, List.not_mem_nil⟩⟩, by decide +kernel, by decide,
    ⟨rfl, by decide, by decide⟩, by decide, rfl, rfl, by decide, rfl, by decide, by decide, ⟨rfl, by decide, by decide⟩⟩

/-- RegistersReadAndWrite and RouteTableWritesFourEntries: a port that is reached, a latched word, a misaligned read, a read in recovery,
the last entry of the route table, and a core that is present. -/
theorem witness_registers : (linked []).hostReach .a = true ∧ (linked []).updReach .a = true ∧ (linked []).sys.phase ≠ .recovery ∧
    isLowRo F.GEN_LOCAL.off = true ∧ isLowRo F.MY_ID.off = false ∧ 0x4000000 - 4 + 4 ≤ 0x4000000 ∧ (2 : Nat) % 4 ≠ 0 ∧
    ({ runDev with sys := { runDev.sys with phase := .recovery } } : Dev).sys.phase = .recovery ∧ (16383 : Nat) < 16384 ∧
    runDev.present 95 = true := by decide

/-- A 4 B write of the route table gives four entries (R535). -/
theorem test_route_write :
    let t := after (.registerWrite .a 0x3000C 4 0x44332211) ⟨[], linked []⟩
    (List.range 4).map (fun i => t.dev.rd (F.ROUTE (12 + i))) = [0x11, 0x22, 0x33, 0x44] := by decide +kernel

/-! ### The service mailbox -/

/-- Component entry `t` of an image: of no bytes, with the digest of no bytes. -/
def component (t : Nat) : List Byte := pack 16 [(0, t), (4, 99 + t), (8, 1024)] ++ sha256 [] ++ List.replicate 16 0

/-- An image of a header alone, signed for vendor slot 1. -/
@[irreducible] def image : List Byte :=
  pack 64 [(0, 0x4D495746), (4, 1), (6, 4), (8, 0x10203), (0xC, 5), (0x10, 1024), (0x14, 0x5C60), (0x16, 1)] ++
    component 1 ++ component 2 ++ component 3 ++ component 4 ++ List.replicate 448 0 ++
    leBytes 32 0x73cb6c84aafb69222a95bdb16a1607bae157d5b68d49bb2bf05ab2e875fe8d89 ++
    leBytes 32 0x73cb6c84aafb69222a95bdb16a1607bae157d5b68d49bb2bf05ab2e875fe8d89 ++ List.replicate 192 0

/-- Fuses with the vendor key whose private part signed that image. -/
def keyedFuses : Fuses := { runDev.fuses with vendorKey := [(1, BitVec.ofNat 512
  (0x3e50847aa7d60a99a7da07312b884ff3f81f88e498284e9f8e533863ee120e68 +
    0x7a2150229797d80373c7977c432f4656ebb367af3d229dba5665136e16fe813 <<< 256))] }

/-- The digest of the signed part, as the public reference implementation of SHA-256 gives it. -/
theorem image_hash : beNat (sha256 (image.take 0x300)) = 0x73cb6c84aafb69222a95bdb16a1607bae157d5b68d49bb2bf05ab2e875fe8d89 := by
  decide +kernel

/-- The signature over that digest, made outside the model with the standard's formulas. -/
theorem image_signature : ecdsaOk 0x3e50847aa7d60a99a7da07312b884ff3f81f88e498284e9f8e533863ee120e68
    0x7a2150229797d80373c7977c432f4656ebb367af3d229dba5665136e16fe813 0x73cb6c84aafb69222a95bdb16a1607bae157d5b68d49bb2bf05ab2e875fe8d89
    0x73cb6c84aafb69222a95bdb16a1607bae157d5b68d49bb2bf05ab2e875fe8d89
    0x73cb6c84aafb69222a95bdb16a1607bae157d5b68d49bb2bf05ab2e875fe8d89 = true := by decide +kernel

/-- Checks 1 to 3. -/
theorem image_form : imgFormReason image 1024 = 0 := by
  have h : imgHeaderOk image 1024 = true ∧ imgPartsOk image = true ∧ imgHashesOk image = true := by decide +kernel
  simp [imgFormReason, h]

/-- The image's fields that its signature and its version are read from. -/
theorem image_fields : image.length = 1024 ∧ imgLen image = 1024 ∧ imgVendor image = 1 ∧ imgSvn image = 5 ∧
    field (image.drop 0x300) 0 32 = 0x73cb6c84aafb69222a95bdb16a1607bae157d5b68d49bb2bf05ab2e875fe8d89 ∧
    field (image.drop 0x300) 32 32 = 0x73cb6c84aafb69222a95bdb16a1607bae157d5b68d49bb2bf05ab2e875fe8d89 := by decide +kernel

/-- The image passes every check of R487 with that key. -/
theorem witness_image : ({ runDev with fuses := keyedFuses } : Dev).imageReason image 1024 = 0 ∧ image.length = 1024 := by
  have k : (Tab.get keyedFuses.vendorKey 1 0).toNat % 2 ^ 256 = 0x3e50847aa7d60a99a7da07312b884ff3f81f88e498284e9f8e533863ee120e68 ∧
      (Tab.get keyedFuses.vendorKey 1 0).toNat / 2 ^ 256 = 0x7a2150229797d80373c7977c432f4656ebb367af3d229dba5665136e16fe813 ∧
      ({ runDev with fuses := keyedFuses } : Dev).vendorValid 1 = true ∧ ({ runDev with fuses := keyedFuses } : Dev).owned = false ∧
      keyedFuses.svnCounter = 0 := by decide +kernel
  obtain ⟨l, -, v, n, r, t⟩ := image_fields
  refine ⟨?_, l⟩
  have sig : ({ runDev with fuses := keyedFuses } : Dev).vendorSigned image = true := by
    unfold Dev.vendorSigned sigOk
    rw [v, k.1, k.2.1, k.2.2.1, image_hash, r, t, image_signature]
    rfl
  simp [Dev.imageReason, image_form, sig, Dev.ownerSigned, k.2.2.2.1, k.2.2.2.2, n]

/-- What R487 finds depends on the fuses alone. -/
theorem reason_of_fuses (d e : Dev) (h : d.fuses = e.fuses) (i : List Byte) (n : Nat) : d.imageReason i n = e.imageReason i n := by
  unfold Dev.imageReason Dev.vendorSigned Dev.ownerSigned Dev.vendorValid Dev.owned Dev.ownerSlot
  rw [h]

/-- The image, where a store was given it. -/
theorem image_at (a : Nat) : getBytes (putBytes [] a image) a 1024 = image := by
  have h := getBytes_putBytes [] a image
  rwa [witness_image.2] at h

/-- A descriptor's bytes are the image's. -/
theorem desc_at (f : List (Nat × Nat)) (ha : (desc f).addr = 0x1000) (hl : (desc f).len = 1024) :
    ({ holding image with fuses := keyedFuses } : Dev).peek (desc f).addr (desc f).len = image := by
  rw [ha, hl]; exact image_at 0x1000

/-- A descriptor of an engine, to its target, passes the checks of any device. -/
theorem precheck_engine (d : Dev) (r : Nat) (y : Desc) (h : targetKind y.op = .engine y.target) : (d.precheck r y).isNone = true := by
  unfold Dev.precheck; simp only [h, if_pos]; rfl

/-- ImagesUpdateAndActivate: an update with an image that is accepted. -/
theorem witness_update : ∃ (d : Dev) (f : List (Nat × Nat)), AtEngine (ringed d (desc f)) 0 0 0x7A (desc f) ∧
    NearClean (ringed d (desc f)) (desc f).addr (desc f).len ∧ d.peek (desc f).addr (desc f).len = image ∧
    d.imageReason image 1024 = 0 ∧ (desc f).len = 1024 := by
  refine ⟨{ holding image with fuses := keyedFuses }, [(0, 0x7A), (2, 0xFF05), (8, 0x1000), (0x10, 1024)], at_alone _ _ _ rfl rfl
      (precheck_engine _ _ _ (by decide)),
    near_clean _ _ _ _ ?_ ?_ ?_, desc_at _ (by decide) (by decide), (reason_of_fuses _
      { runDev with fuses := keyedFuses } (@rfl _ keyedFuses) _ _).trans witness_image.1, by decide⟩
  · generalize image = i; rfl
  · generalize image = i; rfl
  · generalize image = i; exact (by decide : (desc [(0, 0x7A), (2, 0xFF05), (8, 0x1000), (0x10, 1024)]).addr + (desc [(0, 0x7A), (2, 0xFF05), (8, 0x1000), (0x10, 1024)]).len ≤ runDev.nearTop)

/-- ImagesUpdateAndActivate: an update with bytes that are not an image, of none and of too many; an activation of one component, and a
stored image that does not pass its checks. -/
theorem witness_no_update : ∃ f g z l : List (Nat × Nat), imgHeaderOk (runDev.peek (desc f).addr 1024) 1024 = false ∧
    AtEngine (alone f) 0 0 0x7A (desc f) ∧ (desc f).len = 1024 ∧
    AtEngine (alone z) 0 0 0x7A (desc z) ∧ (desc z).len = 0 ∧ AtEngine (alone l) 0 0 0x7A (desc l) ∧ (desc l).len = 67108865 ∧
    AtEngine (alone g) 0 0 0x7B (desc g) ∧ (desc g).at 0x18 1 % 16 = 8 ∧ runDev.rd F.IMG_INCOMPLETE ≠ 1 ∧ runDev.storedFormOk = false :=
  ⟨[(0, 0x7A), (2, 0xFF05), (8, 0x1000), (0x10, 1024)], [(0, 0x7B), (2, 0xFF05), (0x18, 8)], [(0, 0x7A), (2, 0xFF05)],
    [(0, 0x7A), (2, 0xFF05), (0x10, 67108865)], by decide +kernel, at_alone _ _ _ rfl rfl rfl, by decide,
    at_alone _ _ _ rfl rfl rfl, by decide, at_alone _ _ _ rfl rfl rfl, by decide,
    at_alone _ _ _ rfl rfl rfl, by decide, by decide, by decide +kernel⟩

/-- ImagesUpdateAndActivate: a stored image that passes checks 1 to 3. -/
theorem witness_stored : (keeping 0x4000 image runDev.twin).storedFormOk = true := by
  have h : (keeping 0x4000 image runDev.twin).storedHeader = image := image_at _
  have i : (keeping 0x4000 image runDev.twin).storedImage = image := by
    unfold Dev.storedImage; rw [h, image_fields.2.1]; exact image_at _
  unfold Dev.storedFormOk
  rw [h, i, image_fields.2.1, image_form]
  rfl

/-- RecoveryTakesAnImage: a device in recovery that port A reaches, with an accepted image at the start of the Ingot, with none, and
with a length above the largest. -/
theorem witness_recovery : ∃ d e : Dev, d = { linked [(F.REC_LEN, 1024)] with
      fuses := keyedFuses, mem := { runDev.mem with bytes := putBytes [] ingotBase image }, sys := { runDev.sys with phase := .recovery } } ∧
    d.updReach .a = true ∧ d.rd F.REC_LEN = 1024 ∧ IngotClean ⟨[], d⟩ ingotBase 1024 ∧ d.peek ingotBase 1024 = image ∧
    d.imageReason image 1024 = 0 ∧ d.rd F.NV_INHIBIT ≠ 1 ∧ e = linked [(F.REC_LEN, 67108865)] ∧ 67108864 < e.rd F.REC_LEN ∧ e.sys.phase ≠ .recovery :=
  ⟨_, _, rfl, by decide, by decide, ⟨by decide, by decide, fun _ _ _ => ⟨List.not_mem_nil, List.not_mem_nil, List.not_mem_nil⟩⟩,
    image_at ingotBase, (reason_of_fuses _
      { runDev with fuses := keyedFuses } (@rfl _ keyedFuses) _ _).trans witness_image.1, by decide,
    rfl, by decide, by decide⟩

/-- SparesFusesAndReports: a core that can be spared, one that is absent and a die without spares; a counter to raise; a key operation
past the last, one that is refused and one that is allowed; an attestation with room and one without. -/
theorem witness_service : ∃ f a v o q : List (Nat × Nat),
    AtEngine (alone f) 0 0 0x7C (desc f) ∧ (desc f).at 0x18 2 = 95 ∧ runDev.present 95 = true ∧
    AtEngine (alone a) 0 0 0x7C (desc a) ∧ runDev.present ((desc a).at 0x18 2) = false ∧
    Tab.get ({ runDev.tier with coreSpares := [(3, 2)] } : Tier).coreSpares (runDev.dieOf 95) 0 = 2 ∧
    AtEngine (alone v) 0 0 0x7D (desc v) ∧ runDev.fuses.svnCounter < (regDev [(F.SVN_RUN, 5)]).rd F.SVN_RUN ∧
    AtEngine (alone o) 0 0 0x7E (desc o) ∧ (desc o).at 0x18 1 = 3 ∧ NearClean (alone q) (desc q).addr 512 ∧
    AtEngine (alone q) 0 0 0x7F (desc q) ∧ (desc q).len = 512 ∧ runDev.fuses.cert = [] ∧
    (∀ k sig, runDev.keyAllowed 0 3 0 k sig = false) :=
  ⟨[(0, 0x7C), (2, 0xFF05), (0x18, 95)], [(0, 0x7C), (2, 0xFF05), (0x18, 96)], [(0, 0x7D), (2, 0xFF05)], [(0, 0x7E), (2, 0xFF05), (0x18, 3)],
    [(0, 0x7F), (2, 0xFF05), (0x10, 512)], at_alone _ _ _ rfl rfl rfl, by decide, by decide, at_alone _ _ _ rfl rfl rfl, by decide, by decide,
    at_alone _ _ _ rfl rfl rfl, by decide, at_alone _ _ _ rfl rfl rfl, by decide, near_clean _ _ _ _ rfl rfl (by decide),
    at_alone _ _ _ rfl rfl rfl, by decide, rfl, fun _ _ => rfl⟩

/-- A public key of two coordinates. -/
def keyOf (x y : Nat) : BitVec 512 := BitVec.ofNat 512 (x + y <<< 256)

/-- Owner slot 0 active, slot 2 too; vendor slot 0's key. -/
def signerFuses (owner vendor : BitVec 512) : Fuses :=
  { runDev.fuses with ownerState := [(0, 1), (2, 1)], ownerKey := [(0, owner)], vendorKey := [(0, vendor)] }

/-- SparesFusesAndReports: each key operation, signed by an active owner slot or a valid vendor slot; the keys and signatures are made outside
the model with the standard's formulas. -/
theorem witness_keys : ∃ (g o k v : BitVec 512) (h0 h1 h2 r0 r1 : Nat),
    g = keyOf 0x6B17D1F2E12C4247F8BCE6E563A440F277037D812DEB33A0F4A13945D898C296 0x4FE342E2FE1A7F9B8EE7EB4A7C0F9E162BCE33576B315ECECBB6406837BF51F5 ∧
    ({ runDev with fuses := signerFuses o v } : Dev).keyAllowed 0 1 0 (leBytes 64 g.toNat) (leBytes 32 r0 ++ leBytes 32 h0) = true ∧
    ({ runDev with fuses := signerFuses k v } : Dev).keyAllowed 1 2 0 (List.replicate 64 0) (leBytes 32 r1 ++ leBytes 32 h1) = true ∧
    ({ runDev with fuses := signerFuses o v } : Dev).keyAllowed 2 1 0 (List.replicate 64 0) (leBytes 32 h2 ++ leBytes 32 h2) = true :=
  ⟨_,
    keyOf 0x69973752dbabb9ed5e1959fcf84ef1e39ecca1c8092cb7e0d152fcc1935f3775 0xefb08eccb9ab77ee62e6d0f44707a3e055ca7095b961fc1858209abc4eaec917,
    keyOf 0x50228d0fd39c39fba31f3bf9d55f8b5db389551c6d11a1d3229887a394fd4153 0xd583c83eb72e512db02b8df6e56c794a08bb8148e2ea64de7057b149eed47ac3,
    keyOf 0x2b03d477483fcec4d50070354c5a8ebbcd17cd7260fc6422eccfc8f5063a3c5a 0xbd0d31cd470b773e9068c1c52734a9adf68a4e6de04ba3dddb2a27ebe5709ec3,
    0x215068bcb1fcda7297b25a86b8a417cd54385a32ca6d4db3ce153da0f982a6f3,
    0xecdb603ff9a4c7fdc61088f3f6435c5fe861ce36c52f096ee5cd7f3c5567dee,
    0x5716cabe3615091c96b817395633c2eadc51fe35a327264641747eb0b88e9a69,
    0x42a0d17963f9b4e52f64b50d71482f9aa870b46594da9b679c2a7b41f3054de6,
    0xecdb603ff9a4c7fdc61088f3f6435c5fe861ce36c52f096ee5cd7f3c5567dee, rfl, by decide +kernel, by decide +kernel, by decide +kernel⟩

/-! ### Ports, references, power and calibration -/

/-- PortsResetSleepAndUnmask: a port that is up, one whose reference is there and that may train, one without a reference, one in D3hot; the
rails off; a vector pending and masked, and one that goes out. -/
theorem witness_ports : ∃ z : Dev, z = { linked [] with portA := { (linked []).portA with d3hot := true } } ∧
    RailsUp ⟨[], runDev⟩ ∧ ¬ RailsUp ⟨[], { runDev with sys := { runDev.sys with phase := .off } }⟩ ∧ ClocksRun ⟨[], runDev⟩ ∧
    runDev.ringPort 0 = .a ∧ (regDev [(F.REF_A_OK, 1)]).refOk .a = true ∧ runDev.refOk .a = false ∧ runDev.rd (F.LINK_SPEED 0) = 0 ∧
    (linked []).rd (F.LINK_SPEED 0) ≠ 0 ∧ (linked []).pcieUp .a = true ∧ runDev.pcieUp .a = false ∧ (z.port .a).d3hot = true ∧
    (runDev.port .a).d3hot = false ∧ (linked []).hostReach .a = true ∧ (runDev.port .a).perst = true ∧ ((linked []).port .a).perst = false :=
  ⟨_, rfl, by unfold RailsUp ClocksRun; decide⟩

/-- A pending vector that stays masked keeps its bit when MSI-X is enabled; an unmasked one goes out (R404). -/
theorem test_msix_enable :
    let q := (after (.msixUnmask .a none) ⟨[], { linked [] with portA := { (linked []).portA with pba := 3, msixOn := false } }⟩).dev.port .a
    (q.pba, q.out) = (2, [.msix 0 0x1000 7]) := by decide +kernel

/-- ReferencesAndMultiples: either reference lost and found, a coast, one that the device waits for, and a core that may be gated. -/
theorem witness_references : (linked [(F.REF_B_OK, 1)]).regReach .a = true ∧ (linked []).rd F.REF_A_OK ≠ 1 ∧
    (linked [(F.REF_B_OK, 1)]).rd F.REF_B_OK = 1 ∧ PciePort.b ≠ (linked [(F.REF_B_OK, 1)]).selected ∧
    (linked [(F.REF_A_OK, 1)]).rd F.REF_A_OK = 1 ∧ (linked [(F.REF_A_OK, 1)]).selected = .a ∧ ClocksRun ⟨[], linked []⟩ ∧
    (linked [(F.COASTING, 1)]).rd F.COASTING = 1 ∧ Dev.reset.sys.phase = .waitRef ∧ Dev.reset.rd F.REF_A_OK ≠ 1 ∧
    ¬ ClocksRun ⟨[], Dev.reset⟩ ∧ (∀ k, k < 4 → runDev.rd (F.MULT_NOW k) ≤ 36) ∧ runDev.present 0 = true ∧
    (runDev.core 0).status ≠ .running ∧ (runDev.core 0).queue = [] ∧ (runDev.core 0).xfers = [] := by
  unfold ClocksRun; decide

/-- The fourth update in a row steps a multiple of 4 up to 5, and a power above the cap steps the cap's limit down to 35 (R463, R464). -/
theorem test_multiples :
    (after .multipleUpdate ⟨[], { runDev with sys := { runDev.sys with stepUp := [(0, 3)] } }⟩).dev.rd (F.MULT_NOW 0) = 5 ∧
    Tab.get (after (.diePowerMeasure 0 500 false) ⟨[], regDev [(F.DIE_PWR_CAP 0, 400)]⟩).dev.sys.pcap 0 36 = 35 := by decide +kernel

/-- A device that waits for a reference, with the signed image in its store. -/
def waiting : Dev := { Dev.reset with fuses := keyedFuses, mem := { Dev.reset.mem with keep := putBytes [] (0x4000 * 4096) image } }

/-- ReferencesAndMultiples: it boots into Run; a device without an image goes to recovery. -/
theorem witness_boot : waiting.storedReason = 0 ∧ waiting.rd F.RECOVER_NEXT = 0 ∧ Dev.reset.storedReason ≠ 0 := by
  have h : waiting.storedHeader = image := image_at _
  have i : waiting.storedImage = image := by unfold Dev.storedImage; rw [h, image_fields.2.1]; exact image_at _
  have b : waiting.storedBad = false := rfl
  have g : waiting.rd F.IMG_INCOMPLETE ≠ 1 := by decide
  refine ⟨?_, by decide, by decide +kernel⟩
  unfold Dev.storedReason
  rw [h, i, image_fields.2.1, b, if_neg (by simp [g])]
  exact (reason_of_fuses _
      { runDev with fuses := keyedFuses } (@rfl _ keyedFuses) _ _).trans witness_image.1

/-- A device in a phase of its power, with register fields set. -/
def inPhase (ph : Phase) (rs : List (Field × Nat)) : Dev := { regDev rs with sys := { runDev.sys with phase := ph } }

/-- PowerStatesComeAndGo: idle in Run with a Retain request, and without; Retain; a Sleep request; each phase; the trip thresholds' ends;
in Sleep with both supplies, and off with and without P3V3_AUX. -/
theorem witness_power : (linked []).regReach .a = true ∧ (linked []).sys.phase ≠ .retain ∧ (inPhase .run [(F.PWR_REQ, 2)]).rd F.PWR_REQ = 2 ∧
    (∀ r, r < 64 → (inPhase .run [(F.PWR_REQ, 2)]).cntP r = (inPhase .run [(F.PWR_REQ, 2)]).cntS r) ∧
    (∀ n, n < (inPhase .run [(F.PWR_REQ, 2)]).coreCount → ((inPhase .run [(F.PWR_REQ, 2)]).core n).status ≠ .running) ∧
    (inPhase .retain []).sys.phase = .retain ∧ ({ (inPhase .run []).sys with sleepReq := true } : Sys).sleepReq = true ∧
    (inPhase .run []).sys.sleepReq = false ∧ RailsUp ⟨[], inPhase .waitRef []⟩ ∧ RailsUp ⟨[], inPhase .recovery []⟩ ∧
    ¬ RailsUp ⟨[], inPhase .sleep []⟩ ∧ ¬ RailsUp ⟨[], inPhase .off []⟩ ∧ (8 : BitVec 8).toNat < 9 ∧ 0x10 ≤ (0x23 : BitVec 8).toNat ∧
    (0x23 : BitVec 8).toNat < 0x24 ∧ 0x30 ≤ (0x43 : BitVec 8).toNat ∧ (0x43 : BitVec 8).toNat < 0x44 ∧ (0x50 : BitVec 8).toNat = 0x50 ∧
    ({ (inPhase .sleep []).sys with p54vOk := true } : Sys).p54vOk = true ∧ (inPhase .sleep []).sys.auxOk = true ∧
    (inPhase .sleep []).sys.auxLatch = false ∧ ({ (inPhase .off []).sys with auxOk := false } : Sys).auxOk = false := by
  unfold RailsUp; decide +kernel

/-- A trip at its threshold removes the rails and asserts THERM_TRIP_N; one degree below it does not (R524). -/
theorem test_trip : (after (.thermalTrip 0 115) ⟨[], runDev⟩).dev.sys.tripN = false ∧ (after (.thermalTrip 0 114) ⟨[], runDev⟩).dev.sys.tripN = true := by
  decide +kernel

/-- SagsAndInhibits: each pin asserted and released, in Run, Retain and Sleep. -/
theorem witness_sag : ClocksRun ⟨[], runDev⟩ ∧ runDev.rd F.PWR_WARN ≠ 1 ∧ (regDev [(F.PWR_WARN, 1)]).rd F.PWR_WARN = 1 ∧
    runDev.rd F.NV_INHIBIT ≠ 1 ∧ (regDev [(F.NV_INHIBIT, 1)]).rd F.NV_INHIBIT = 1 ∧ ClocksRun ⟨[], inPhase .retain []⟩ ∧
    ¬ ClocksRun ⟨[], inPhase .sleep []⟩ := by unfold ClocksRun; decide

/-- CalibrationFollowsTheLoad: an item measured at a load below the hot load and one not; a window of an item due, one of none and an empty
one; a hot run with no core running, one in a sag, one with a core that runs; a load at the bound and below it. -/
theorem witness_calibration : ∃ f z h : List (Nat × Nat), AtEngine (alone f) 0 0 0x78 (desc f) ∧ (desc f).at 0x18 4 = 20 ∧
    (desc f).at 0x1C 1 = 1 ∧ AtEngine (alone z) 0 0 0x78 (desc z) ∧ (desc z).at 0x18 4 = 0 ∧ AtEngine (alone h) 0 0 0x79 (desc h) ∧
    runDev.rd F.PWR_WARN ≠ 1 ∧ (∀ n, n < runDev.coreCount → (runDev.core n).status ≠ .running) ∧
    ((withCore0 live).dev.core 0).status = .running ∧ (230 : BitVec 8).toNat = 230 ∧ (229 : BitVec 8).toNat < 230 ∧
    [(⟨25, -3⟩ : CalMeas)].find? (fun m => m.item.val == 25) = some ⟨25, -3⟩ ∧ runDev.linkUp 17 = false ∧
    (regDev [(F.LINK_STATE 17, 2)]).linkUp (25 - 8) = true ∧ Follows ⟨7, 100, 9, 7, 1, false, false⟩ 255 100 ∧
    Follows ⟨7, 100, 10, 7 * 130 + 10 * 130, 130, false, false⟩ 255 230 ∧ (regDev [(F.RETRIM_PERIOD_S, 0)]).rd F.RETRIM_PERIOD_S = 0 ∧
    runDev.rd F.RETRIM_PERIOD_S ≠ 0 :=
  ⟨[(0, 0x78), (2, 0xFF05), (0x18, 20), (0x1C, 1)], [(0, 0x78), (2, 0xFF05)], [(0, 0x79), (2, 0xFF05)], at_alone _ _ _ rfl rfl rfl, by decide,
    by decide, at_alone _ _ _ rfl rfl rfl, by decide, at_alone _ _ _ rfl rfl rfl, by decide, by decide +kernel, by decide, by decide, by decide,
    by decide, by decide, by decide, ⟨fun _ => ⟨rfl, rfl⟩, fun h => absurd h (by decide)⟩,
    ⟨fun h => absurd h (by decide), fun _ => ⟨rfl, rfl⟩⟩, by decide, by decide⟩

/-- A load of 3,700 W is index 255, and half of it rounds 127.5 up (R477). -/
theorem test_load_index : (loadIndex 3700, loadIndex 1850, loadIndex 65535) = (255, 128, 255) := by decide

/-- A window of 20 µs re-trims one guardband of the 8 items due by FORCE (R482). -/
theorem test_window :
    ((after (.calWindow 0 0 [⟨0, 11⟩] none) (alone [(0, 0x78), (2, 0xFF05), (0x18, 20), (0x1C, 1)])).dev.desc 0 0).bind (fun y => y.outcome.map (fun o => o.2.take 8)) =
      some [1, 0, 7, 0, 20, 0, 0, 0] := by decide +kernel

/-! ### The event recorder and the sideband -/

/-- A record of a severity. -/
def rec' (seq : Word) (sev : Nat) : Rec := ⟨seq, 0, 0, sev, 0, 0, []⟩

/-- A log of `n` records `r` numbered from `lo`. -/
def filled (r : Rec) (n lo : Nat) : Tab (Option Rec) := match n with | 0 => [] | n + 1 => (lo, some r) :: filled r n (lo + 1)

theorem filled_length (r : Rec) (n lo : Nat) : (filled r n lo).length = n := by
  induction n generalizing lo with
  | zero => rfl
  | succ n ih => rw [filled, List.length_cons, ih]

theorem filled_wf (r : Rec) (n lo : Nat) : Tab.wfFrom (filled r n lo) lo none = true := by
  induction n generalizing lo with
  | zero => rfl
  | succ n ih => simp [filled, Tab.wfFrom, ih]

theorem filled_get (r : Rec) (n lo k : Nat) : Tab.get (filled r n lo) k none = if lo ≤ k ∧ k < lo + n then some r else none := by
  induction n generalizing lo with
  | zero => rw [if_neg (by omega)]; rfl
  | succ n ih =>
    rw [filled, Tab.get, ih]
    by_cases h : lo = k
    · rw [if_pos h, if_pos (by omega)]
    · rw [if_neg h]; simp only [show lo + 1 ≤ k ∧ k < lo + 1 + n ↔ lo ≤ k ∧ k < lo + (n + 1) by omega]

/-- A log of `n` records of severity 2, and its newest number. -/
def loggedTo (n : Nat) : Recorder := { runDev.recd with log := filled (rec' 5 2) n 1, newest := BitVec.ofNat 32 (n + 1) }

theorem loggedTo_get (n k : Nat) : Tab.get (loggedTo n).log k none = if 1 ≤ k ∧ k < 1 + n then some (rec' 5 2) else none := filled_get _ _ _ _

/-- RecordsAreAcceptedAndCommitted: a full log gives up its oldest record, number 1, to one of equal severity, and refuses one of a lower. -/
theorem full_log (n : Nat) (hn : n = 1048576) : ∃ full : Recorder, 1048576 ≤ full.log.length ∧ Tab.wf full.log none = true ∧
    (∀ j, Tab.get full.log j none ≠ none → j < 2 ^ 32) ∧ GivenUp full 2 1 (rec' 5 2) ∧
    ∀ j v, Tab.get full.log j none = some v → 1 < v.sev := by
  refine ⟨loggedTo n, ?_, Tab.wfFrom_le _ 0 1 _ (by decide) (filled_wf _ _ _), fun j h => ?_, ⟨?_, Nat.le_refl 2, fun j v hv => ?_⟩,
    fun j v hv => ?_⟩
  · have : (loggedTo n).log.length = n := filled_length _ _ _
    omega
  · rw [loggedTo_get] at h
    split at h
    · omega
    · exact absurd rfl h
  · rw [loggedTo_get, if_pos (by omega)]
  · rw [loggedTo_get] at hv
    split at hv
    · cases hv
      refine ⟨Nat.le_refl _, fun _ => ?_⟩
      rw [show (loggedTo n).newest = BitVec.ofNat 32 (n + 1) from rfl]
      unfold seqAge
      simp only [BitVec.toNat_sub, BitVec.toNat_ofNat]
      omega
    · cases hv
  · rw [loggedTo_get] at hv
    split at hv
    · cases hv; decide
    · cases hv

/-- RecordsAreAcceptedAndCommitted: a die that throttles first, at the threshold; a buffer with room, one with a free slot, one that gives up
a record, one that drops the new one; a first uncommitted record; a full log that gives one up, and one that refuses; hold-offs. -/
theorem witness_records : ∃ (full : Recorder) (b : List (Rec × BufState)),
    ClocksRun ⟨[], runDev⟩ ∧ 100 ≤ (100 : BitVec 8).toNat ∧ 4 < Tab.get runDev.sys.therm 0 36 ∧ runDev.rd F.THERM_THROTTLED ≠ 1 ∧
    runDev.recd.buf.length < 4096 ∧
    List.replicate 4096 (rec' 1 2, BufState.committed) = [] ++ (rec' 1 2, .committed) :: List.replicate 4095 (rec' 1 2, .committed) ∧
    List.replicate 4096 (rec' 1 2, BufState.pending) = [] ++ (rec' 1 2, .pending) :: List.replicate 4095 (rec' 1 2, .pending) ∧
    (∀ e ∈ List.replicate 4096 (rec' 1 3, BufState.pending), e.2 = .pending ∧ 2 < e.1.sev) ∧
    b = [(rec' 1 0, .exempt)] ++ (rec' 2 2, .pending) :: [] ∧ (∀ e ∈ [(rec' 1 0, BufState.exempt)], e.2 ≠ .pending) ∧
    1048576 ≤ full.log.length ∧ Tab.wf full.log none = true ∧ (∀ j, Tab.get full.log j none ≠ none → j < 2 ^ 32) ∧
    GivenUp full 2 1 (rec' 5 2) ∧ 1 ≠ (rec' 2 2).seq.toNat ∧ (∀ j v, Tab.get full.log j none = some v → 1 < v.sev) ∧
    runDev.rd F.NV_INHIBIT ≠ 1 ∧ ({ runDev.recd with holdoff := true, merged := true } : Recorder).merged = true := by
  obtain ⟨full, l, w, k, g, v⟩ := full_log 1048576 rfl
  refine ⟨full, _, .inr (.inl rfl), by decide, by decide, by decide, by decide, rfl, rfl, ?_, rfl, ?_, l, w, k, g, by decide, v, by decide, rfl⟩
  · intro e h; rw [List.eq_of_mem_replicate h]; decide
  · intro e h; rw [List.mem_singleton.1 h]; decide

/-- WindowsAndTheSideband: a window that loads, a sideband that answers, an alert asserted; a cursor at the newest number but one, and at the
last number, whose next is 1 (R503). -/
theorem witness_windows : ∃ x : Recorder, x = { runDev.recd with loading := true, sbLoading := true, newest := 9, buf := [(rec' 9 1, .pending)] } ∧
    (linked []).regReach .a = true ∧ x.loading = true ∧ SidebandOn ⟨[], runDev⟩ ∧ ¬ SidebandOn ⟨[], inPhase .sleep []⟩ ∧
    ({ runDev.sys with alertN := false } : Sys).alertN = false ∧ runDev.sys.alertN = true ∧ runDev.rd F.SB_WIN_READY = 0 ∧
    (regDev [(F.SB_WIN_READY, 1)]).rd F.SB_WIN_READY ≠ 0 ∧ (regDev [(F.SB_CURSOR, 8)]).rd F.SB_CURSOR = 8 ∧ (8 - 1 + 1) % (2 ^ 32 - 1) + 1 = 9 ∧
    (2 ^ 32 - 1 - 1 + 1) % (2 ^ 32 - 1) + 1 = 1 ∧ x.buf.find? (fun e => e.1.seq == BitVec.ofNat 32 9) = some (rec' 9 1, .pending) ∧
    x.buf.find? (fun e => e.1.seq == BitVec.ofNat 32 10) = none :=
  ⟨_, rfl, by unfold SidebandOn Restarting; decide⟩

/-- A read of 32 B from an offset that the sideband set, whose low bits it dropped (R527): the four words from 0x4. -/
theorem test_sideband : (after .sbRead (after (.sbOffset 6 true) ⟨[], runDev⟩)).dev.recd.sbOffset = 36 := by decide +kernel

/-! ### The whole machine and well-formed commands -/

/-- MemoryStaysCanonical and FusesNeverGoBack: the state after reset, with a command waiting, takes a step. -/
theorem witness_step : ∃ s t : State, s.pending ≠ [] ∧ s.dev.mem.wf = true ∧ s.dev.env.wf = true ∧ step s = .next t :=
  ⟨{ State.reset with pending := [.instructionIssue 0] }, _, List.cons_ne_nil _ _, by decide, by decide, rfl⟩

/-- `Instr.wf` turns away an ill-formed command by each of its checks, and takes one at the bound. -/
theorem test_wf_refuses : (([.icacheFill 0 63, .copy 0 0 [(1, 0)], .dispatch 0 0 [(2, 1), (1, 1)], .descriptorFetch 0 (List.replicate 63 0),
      .heartbeat ⟨true, 0, 0, true, false, 0, 0, [], [], [], 0, 0, 0⟩, .bar4Read .a (2 ^ 36) 1, .bar4Write .b (2 ^ 36) [1],
      .bar4Write .b 0 (List.replicate 513 0), .registerWrite .a 2 4 0, .registerWrite .a 0 4 (2 ^ 32), .registerWrite .a 0x4000000 4 0,
      .lowWordRead .a ⟨false, 0⟩ 2, .lowWordRead .a ⟨true, 0x40000⟩ 4, .bgtLsRegion 0 2048 [], .bgtLsRegion 0 0 [1, 1], .bgtIngotRegion 0 [32],
      .scrubRead (.spare 640 0), .scrubRead (.spare 0 (2 ^ 23)), .pcFailed 640 0, .pcFailed 0 3,
      .linkTraining 0 { training with lanes := 5 }, .flitReceive 0 ⟨[], 0, 0⟩] : List Instr).all (fun i => !i.wf)) = true ∧
    (([.icacheFill 0 64, .copy 0 0 [(1, 1), (2, 1)], .descriptorFetch 0 (List.replicate 64 0), .bar4Read .a (2 ^ 36 - 1) 1,
      .bar4Write .b 0 (List.replicate 512 0), .registerWrite .a 8 8 (2 ^ 64 - 1), .lowWordRead .a ⟨false, 0x3FFFFFC⟩ 4,
      .lowWordRead .a ⟨true, 0x3FFF8⟩ 8, .bgtLsRegion 0 2047 [0, 31], .bgtIngotRegion 0 [31], .scrubRead (.spare 639 (2 ^ 23 - 1)),
      .pcFailed 639 2, .linkTraining 0 training, .flitReceive 0 ⟨List.replicate 256 0, 0, 0⟩, .nop 0 0] : List Instr).all Instr.wf) = true := by
  decide +kernel

/-! ### Work that goes on over several steps, and what ends it -/

/-- The mailbox has work under way for the descriptor of count 0 of ring 0. -/
def working (w : SvcWork) (rs : List (Field × Nat)) : Dev := { regDev rs with svc := { runDev.svc with job := some ⟨0, 0, w⟩ } }

/-- ImagesUpdateAndActivate, CalibrationFollowsTheLoad, SagsAndInhibits: an update, a restart and a hot load that are under way, each for a
descriptor that its ring holds, in Run. -/
theorem witness_under_way : ∀ w ∈ [SvcWork.calHot, .update [] 0, .restart 1],
    (ringed (working w []) { desc [] with taken := true }).dev.svc.job = some ⟨0, 0, w⟩ ∧ (working w []).sys.phase = .run ∧
      (ringed (working w []) { desc [] with taken := true }).dev.desc 0 0 = some { desc [] with taken := true } ∧
      ClocksRun ⟨[], working w []⟩ ∧ (working w []).rd F.NV_INHIBIT ≠ 1 ∧ (working w []).rd F.PWR_WARN ≠ 1 := by
  unfold ClocksRun; decide

/-- ReferencesAndMultiples, WindowsAndTheSideband, RecordsAreAcceptedAndCommitted: only a hot load asks for 36, only a restart keeps the
sideband and the commits away. -/
theorem witness_restart : Restarting ⟨[], working (.restart 1) []⟩ ∧ ¬ Restarting ⟨[], working .calHot []⟩ ∧
    ¬ SidebandOn ⟨[], working (.restart 1) []⟩ ∧ (working .calHot []).hotRuns = true ∧ runDev.hotRuns = false := by
  unfold SidebandOn Restarting; decide

/-- During CAL_HOT's load an island steps toward 36 whatever CAL_STALE and CORE_MULT hold (R462). -/
theorem test_hot_target : (working .calHot [(F.CORE_MULT 0, 8)]).multTarget 0 = 36 ∧ (regDev [(F.CORE_MULT 0, 36)]).multTarget 0 = 32 := by decide

/-- A hot load that a sag ends stores nothing and completes NV_INHIBITED (R475, R480). -/
theorem test_hot_sag :
    let t := after (.calHot 0 0 [] [] 255 .sag) (ringed (working .calHot []) { desc [(0, 0x79), (2, 0xFF05)] with taken := true })
    (t.dev.svc.job, (t.dev.desc 0 0).bind (fun y => y.outcome.map (·.1)), t.dev.rd F.CAL_STALE) = (none, some stNvInhibited, 1) := by decide +kernel

/-- A restart that ends reports its components and the version that runs (R492). -/
theorem test_restart_ends :
    let t := after (.fwActivate 0 ⟨0, false⟩) (ringed (working (.restart 1) []) { desc [(0, 0x7B), (2, 0xFF05)] with taken := true })
    (t.dev.svc.job, (t.dev.desc 0 0).bind (fun y => y.outcome.map (fun o => o.2.take 1))) = (none, some [1]) := by decide +kernel

/-- NV_INHIBIT during FW_UPDATE's write ends it NV_INHIBITED and sets NV_ABORTED (R473, R489). -/
theorem test_update_aborted :
    let t := after (.nvInhibitSet .idle) (ringed (working (.update [] 0) []) { desc [(0, 0x7A)] with taken := true })
    (t.dev.svc.job, (t.dev.desc 0 0).bind (fun y => y.outcome.map (·.1)), t.dev.rd F.NV_ABORTED) = (none, some stNvInhibited, 1) := by decide +kernel

/-- ImagesUpdateAndActivate: blocks at each end of an image of one block, and the flash rail's and the block's failures at the first. -/
theorem witness_blocks : (4096 * 0 < image.length ∧ ¬ 4096 * 1 < image.length) ∧ (⟨some 0, none, false⟩ : FlashRun).abortAt = some 0 ∧
    (⟨none, some 0, false⟩ : FlashRun).badAt = some 0 ∧ (⟨none, none, true⟩ : FlashRun).bad = true ∧
    (keeping 0x4000 image runDev.twin).rd F.IMG_INCOMPLETE ≠ 1 := by rw [image_fields.1]; decide

/-- SagsAndInhibits: a commit of records and one of a repair that NV_INHIBIT strikes, and one with nothing to strike. -/
theorem witness_strikes : ({ runDev.tier with pending := [.removed 63] } : Tier).pending ≠ [] ∧ runDev.tier.pending = [] ∧
    (∃ k, NvWrite.records 2 = .records k) ∧ ¬ ∃ k, NvWrite.idle = .records k :=
  ⟨by decide, rfl, ⟨2, rfl⟩, fun h => by obtain ⟨k, h⟩ := h; cases h⟩

/-- TwinCopiesCommitFillAndVerify: a fill under way for the descriptor of count 0 of ring 0, with its first packet read and the rest to come. -/
theorem witness_fill : ∃ (j : FillJob) (d : Dev), d = { paired with twin := { paired.twin with fill := some j, ranges := [(0x10000, 16384)] } } ∧
    d.twin.fill = some j ∧ j.ring = 0 ∧ j.count = 0 ∧ d.rd F.TWIN_STATE = 2 ∧ ApartRanges d.twin.ranges ∧ j.data.length = 8192 * 1 ∧
    CleanRanges (ringed d (desc [])) d.twin.ranges := by
  refine ⟨⟨0, 0, headerBytes 1, List.replicate 8192 0⟩, _, rfl, rfl, rfl, rfl, by decide, ?_, List.length_replicate, fun g h => ?_⟩
  · exact List.pairwise_singleton _ _
  · rw [List.mem_singleton.1 h]; exact ⟨by decide, near_clean _ _ _ _ rfl rfl (by decide)⟩

/-! ### Ports and power, on both sides of each condition -/

/-- PortsResetSleepAndUnmask: a transfer of core 0 whose data waited in D3hot fails with the port, one whose data moved elsewhere does not,
and a descriptor that waited there is told. -/
theorem witness_discarded :
    let q : Dev := { runDev with portA := { Port.reset with waiting := [.write 0x1000 [1] 0x100] } }
    discardedXfer q .a 0 ⟨0, 0, [], 0, 0, some stOk⟩ = ⟨0, 0, [], 0, 0, some stOutOfMap⟩ ∧
    discardedXfer q .a 1 ⟨0, 0, [], 0, 0, some stOk⟩ = ⟨0, 0, [], 0, 0, some stOk⟩ ∧
    noMoreHeld .a true { desc [] with held := [.a] } = { desc [] with lost := true } ∧
    noMoreHeld .a false { desc [] with held := [.b] } = { desc [] with held := [.b] } := by decide

/-- A port whose link goes down takes the data that waited there with it (R383, R385). -/
theorem test_discarded :
    let q : Dev := { regDev [(F.LINK_SPEED 0, 3)] with
      portA := { Port.reset with perst := false, d3hot := true, waiting := [.write 0x1000 [1] 0x100] }
      cores := [(0, { live with xfers := [⟨0, 0, [], 0, 0, some stOk⟩] })] }
    ((after (.pcieLinkDown .a) ⟨[], q⟩).dev.core 0).xfers.map (·.moved) = [some stOutOfMap] := by decide

/-- PortsResetSleepAndUnmask: speeds and widths that R378 lists, at their ends, and the next ones. -/
theorem witness_speeds : ¬ (((0 : BitVec 3) = 1 ∨ (0 : BitVec 3) = 2 ∨ (0 : BitVec 3) = 3) ∧ ((4 : BitVec 4) = 4 ∨ (4 : BitVec 4) = 8)) ∧
    ¬ (((4 : BitVec 3) = 1 ∨ (4 : BitVec 3) = 2 ∨ (4 : BitVec 3) = 3) ∧ ((8 : BitVec 4) = 4 ∨ (8 : BitVec 4) = 8)) ∧
    (linked []).regReach .a = true ∧ (linked []).rd (F.LINK_SPEED 0) ≠ 0 := by decide

/-- PowerStatesComeAndGo: Sleep with P54V gone, with KZ_WAKE_N low since and without, and with P3V3_AUX lost. -/
theorem witness_wake : ∀ low aux, let y : Sys := { (inPhase .sleep []).sys with p54vOk := false, kzLow := low, auxOk := aux }
    y.phase = .sleep ∧ y.p54vOk = false ∧ (y.auxOk = true ↔ aux = true) ∧ y.auxLatch = false := by decide

/-- A wake that waits for P54V brings the rails up with it; without KZ_WAKE_N low it is a power-up (R470). -/
theorem test_wake_waits :
    let y : Dev := { Dev.reset with sys := { Dev.reset.sys with phase := .sleep, p54vOk := false, auxOk := true, auxLatch := false } }
    ((after .kzWakeN ⟨[], y⟩).dev.sys.phase, (after .powerUp (after .kzWakeN ⟨[], y⟩)).dev.sys.phase,
      (after .powerUp ⟨[], y⟩).dev.recd.buf.map (fun e => e.1.payload), (after .powerUp (after .kzWakeN ⟨[], y⟩)).dev.recd.buf.map (fun e => e.1.payload)) =
      (.sleep, .waitRef, [[0]], [[1]]) := by decide +kernel

/-- CalibrationFollowsTheLoad: a window in a sag, and one that a sag strikes in its second item (R475, R482). -/
theorem test_window_sag :
    let w (d : Dev) (a : Option Nat) := ((after (.calWindow 0 0 [] a) (ringed d (desc [(0, 0x78), (2, 0xFF05), (0x18, 1000), (0x1C, 1)]))).dev.desc 0 0).bind
      (fun y => y.outcome.map (fun o => o.2.take 8))
    (w (regDev [(F.PWR_WARN, 1)]) none, w runDev (some 1)) = (some [0, 0, 8, 0, 0, 0, 0, 0], some [1, 0, 7, 0, 20, 0, 0, 0]) := by decide +kernel

/-! ### Descriptors that their checks refuse -/

/-- ChecksComeBeforeEffects: with nothing under way, each target that R397 and R398 refuse, at its bounds: an engine's opcode for another, a
range for an engine, one past the last core, LAYOUT_COPY for 0xFF01 and for core 96. -/
theorem witness_takes_up : TakesUp (.attest 0 0 []) 0 0 0x7F ∧ TakesUp (.fwActivate 0 ⟨0, true⟩) 0 0 0x7B ∧ TakesUp (.twinPair 0 0) 0 0 0x70 ∧
    TakesUp (.stepReport 0 0 []) 0 0 0x34 ∧ TakesUp (.layoutCopy 0 0 []) 0 0 0x40 ∧ runDev.cxe.jobs = [] ∧ runDev.twin.pairing = none ∧
    runDev.twin.fill = none ∧ targetKind 0x70 = .engine 0xFF04 ∧ targetKind 0x34 = .cores ∧ targetKind 0x40 = .layout ∧
    runDev.coreCount < 96 + 1 ∧ ¬ runDev.coreCount < 95 + 1 :=
  ⟨⟨_, rfl⟩, ⟨_, rfl⟩, rfl, ⟨_, rfl⟩, ⟨_, rfl⟩, rfl, rfl, rfl, by decide, by decide, by decide, by decide, by decide⟩

/-- A twin engine's opcode for another engine is BAD_OPCODE, and so is a STEP_REPORT of the engines (R398). -/
theorem test_refused :
    let st (i : Instr) (fs : List (Nat × Nat)) := ((after i (alone fs)).dev.desc 0 0).bind (fun y => y.outcome)
    st (.twinPair 0 0) [(0, 0x70), (2, 0xFF05)] = some (stBadOpcode, noResult) ∧
    st (.stepReport 0 0 []) [(0, 0x34), (2, 0xFF00)] = some (stBadOpcode, noResult) ∧
    st (.layoutCopy 0 0 []) [(0, 0x40), (2, 96)] = some (stEngineAbsent, noResult) := by decide +kernel

/-- FencesWaitAndFlush: a descriptor with its outcome and a last address at the other port, whose flush read fails there. -/
theorem witness_flush : ∃ y : Desc, y.op = 0 ∧ y.xflush = true ∧ y.outcome = some (stOk, noResult) ∧ y.lost = false ∧ y.finished = false ∧
    y.other = some 0x1000 ∧ otherPort (runDev.ringPort 0) = .b ∧ (runDev.port .b).d3hot = false ∧ PciePort.b ∉ y.flushed ∧
    ((after (.crossPortFlush 0 0 .b .ok) (ringed runDev y)).dev.desc 0 0).bind (fun z => z.outcome) = some (stOutOfMap, noResult) :=
  ⟨{ desc [(0, 0x200)] with outcome := some (stOk, noResult), other := some 0x1000 }, by decide +kernel⟩

/-- FailuresTakeTheLowestSpare: a pseudo-channel that has failed and awaits its PC_RETIRE, with a spare on its base die. -/
theorem witness_awaiting : ∃ (d : Dev) (f : List (Nat × Nat)), d = { regDev [(F.PC_STATE 0, 2), (F.PC_LOGICAL 0, 0x3FF)] with
      tier := { runDev.tier with former := [(0, 1)], awaiting := [(0, 1)] } } ∧
    AtEngine (ringed d (desc f)) 0 0 0x53 (desc f) ∧ (desc f).at 0x18 2 = 0 ∧ d.rd (F.PC_STATE 0) = 2 ∧ d.pickSpare 0 = some 63 ∧
    Tab.get d.tier.former 0 0 = 0 + 1 ∧ Tab.get d.tier.awaiting 0 0 = 0 + 1 :=
  ⟨_, [(0, 0x53), (2, 0xFF03)], rfl, at_alone _ _ _ rfl rfl rfl, by decide, by decide, by decide +kernel, rfl, rfl⟩

/-! ### What reaches past a local store, and what waits -/

/-- ReadOutAndRawForms, StagingLeavesLiveBanks, PartialStatistics: each form that would reach one unit past the store, at a core that no
stop has halted. -/
theorem witness_past_the_store : ∃ (c : Core) (x y : MxsF) (z : MxdF) (f g : MemF), c.status = .running ∧ c.halt = none ∧
    x.restore = false ∧ (c.areg x.a.toNat).toNat + 64 * x.imm.toNat + (c.accSet x.acc.toNat).tag.rawBytes = 0x800000 + 64 ∧
    y.restore = true ∧ (c.areg y.a.toNat).toNat + 64 * y.imm.toNat + (c.accSet y.acc.toNat).tag.rawBytes = 0x800000 + 64 ∧
    z.sel = 0 ∧ (c.areg z.a.toNat).toNat + 64 * z.imm.toNat + 128 = 0x800000 + 64 ∧
    c.memAddr f 64 / 64 * 64 + 8256 = 0x800000 + 64 ∧ c.memAddr g 32 / 32 * 32 + 32 * 2 = 0x800000 + 32 ∧
    rowsRead (c.sreg g.vr.toNat) (c.sreg (g.vr.toNat + 1)) = 2 ∧
    (∀ i ∈ [CoreInstr.mxs x, .mxs y, .mxd z], AtHead (withCore0 { c with queue := [entry .mxa i] }) 0 .mxa (entry .mxa i)) ∧
    (∀ i ∈ [CoreInstr.vxm .sftl f, .vxm .rsx g], AtHead (withCore0 { c with queue := [entry .vxm i] }) 0 .vxm (entry .vxm i)) :=
  ⟨{ live with a := [(1, 0x400000)], s := [(1, 1), (2, 2)] }, ⟨0, false, 1, 0xFC01⟩, ⟨0, true, 1, 0xFC01⟩, ⟨0, 0, 1, 0xFFFF⟩,
    mform 0x1FF80 0, ⟨1, 1, 0x1FFFF, 0, false, false, 0, true, 0, 0⟩, rfl, rfl, rfl, by decide, rfl, by decide, rfl, by decide, by decide, by decide, by decide,
    fun _ _ => at_head_of _ _ _ rfl, fun _ _ => at_head_of _ _ _ rfl⟩

/-- FaultAndStop: an immediate CORE_STOP at a core that a fault has halted, with an instruction that never finishes. -/
theorem witness_stop_after_fault : ∃ c : Core, c.status = .running ∧ c.halt = some ⟨1, 12, 8⟩ ∧ c.stopReq = true ∧
    c.queue.filter (fun e => e.ran || e.eng == .dmv) = [] ∧ c.queue ≠ [] :=
  ⟨{ queued .vxm (.vxm .rsm (mform 0 0)) with halt := some ⟨1, 12, 8⟩, stopReq := true }, rfl, rfl, rfl, by decide, by decide⟩

/-- CoresLoadRunAndStop: an immediate CORE_STOP finds one instruction started and one not. -/
theorem test_stop_with_started :
    let c : Core := { live with queue := [⟨0, 0, .vxm, .vxm .rsm (mform 0 0), true, false, 0⟩, ⟨1, 8, .mxa, .mxset 0, false, false, 0⟩] }
    let d := ringed { runDev with cores := [(0, c)] } (desc [(0, 0x33), (0x14, 1)])
    let u := ((after (.coreStop 0 0) d).dev.core 0)
    (u.status, u.queue.length, u.stopReq, u.halt) = (.running, 1, true, some ⟨2, stOk, 0⟩) := by decide +kernel

/-- TransfersMoveTheirBytes: a transfer whose data has moved, while its writes wait at a port in D3hot and once they do not. -/
theorem witness_parked : ∃ (x : Xfer) (d : Dev), x.moved = some stOk ∧ d = { runDev with portA := { Port.reset with
      waiting := [.write 0 [1] 0x100] } } ∧ d.waitingBytes (dmvSq 0 0) ≠ 0 ∧ runDev.waitingBytes (dmvSq 0 0) = 0 ∧ d.waitingBytes (dmvSq 0 1) = 0 :=
  ⟨⟨0, 0, pack 64 [(0, 3)], 0, 0, some stOk⟩, _, rfl, rfl, by decide, by decide, by decide⟩

/-- BackgroundTestsKeepContents: a spare's last word of its last line reads uncorrectable; the spare is unused. -/
theorem witness_spare_scrub : ∃ d : Dev, d = { runDev with mem := { runDev.mem with spareU := [63 * 2 ^ 25 + 4 * (pcLines - 1) + 3] } } ∧
    d.rd (F.PC_STATE 63) = 1 ∧ 63 * 2 ^ 25 + 4 * (pcLines - 1) + 3 ∈ d.mem.spareU ∧ d.rd F.SCRUB_HOURS ≠ 0 := ⟨_, rfl, by decide +kernel⟩

/-- Bar4AndHoldback, RegistersReadAndWrite: a port in D3hot whose link is up; held writes wait in Retain and for a port in D3hot. -/
theorem witness_waiting : ∃ z : Dev, z = { linked [] with portA := { (linked []).portA with d3hot := true } } ∧ z.pcieUp .a = true ∧
    (z.port .a).d3hot = true ∧ z.holdWaits (.host .a) = true ∧ z.holdWaits .memory = false ∧ (linked []).hostReach .a = true ∧
    ({ runDev with sys := { runDev.sys with phase := .retain } } : Dev).holdWaits .memory = true := ⟨_, rfl, by decide⟩

/-- A doorbell page reads T at offset 0 and H at 8 (R389). -/
theorem test_doorbell_read :
    ((after (.lowWordRead .a ⟨true, 8⟩ 8) ⟨[], linked [(F.CQ_HEAD_SEEN 0, 5)]⟩).dev.port .a).out = [.readData [5, 0, 0, 0, 0, 0, 0, 0]] := by
  decide +kernel

/-- PacketLayerServes: answers with the last status that is one and the first that is not, and a device without an ID with a packet in
transit. -/
theorem witness_answers : (15 : Nat) < 16 ∧ (16 : Nat) ≤ 16 ∧ ({ (packet 2 15 0 []) with dst := 8 } : Pkt).addr < 16 ∧
    (packet 2 16 0 []).addr = 16 ∧ (regDev []).myId = 0xFFFF ∧ routed.myId ≠ 0xFFFF := by decide

end Sys2Proof.Tests
end

section
/-! The matrix array: what an MMA at the head of its queue does, from its effect, and the MMA of a zero size (R82, R83). -/
namespace Sys2Proof.Machine
open Sys2Proof

/-- R84's limits keep a zero M, N or K that the scalars name, so some size of the MMA is zero. -/
theorem Core.mmaDims_zero {c : Core} {f : MmaF}
    (h : (c.sreg f.sm.toNat).toNat % 2 ^ 24 = 0 ∨ (c.sreg f.sn.toNat).toNat % 2 ^ 24 = 0 ∨ (c.sreg f.sk.toNat).toNat % 2 ^ 24 = 0) :
    (c.mmaDims f).1 = 0 ∨ (c.mmaDims f).2.1 = 0 ∨ (c.mmaDims f).2.2 = 0 := by
  obtain hm | hn | hk := h
  · exact .inl (Nat.min_eq_zero_iff.mpr (.inl hm))
  · exact .inr (.inl (Nat.min_eq_zero_iff.mpr (.inl hn)))
  · exact .inr (.inr hk)

/-- An MMA with a zero size reads no operand and leaves the block as it is, at no fault and no flag (R83). -/
theorem Dev.mmaEff_of_zero_dim (d : Dev) (n : Nat) (f : MmaF)
    (h : ((d.core n).mmaDims f).1 = 0 ∨ ((d.core n).mmaDims f).2.1 = 0 ∨ ((d.core n).mmaDims f).2.2 = 0) :
    d.mmaEff n f = ⟨d, stOk, 0, true⟩ :=
  if_pos h

/-- An MMA at the head of the MXA queue and released, whose effect has no fault, puts that effect and its mark in the queue. -/
theorem exec_mma_of_ok {n : Fin 96} {f : MmaF} {s : State} {e : QEntry} (hat : AtHead s n .mxa e) (hi : e.instr = .mma f)
    (hok : (s.dev.mmaEff n f).st = stOk) :
    exec (.mma n) s = .next { s with dev := (s.dev.mmaEff n f).dev.setCore n (((s.dev.mmaEff n f).dev.core n).setEntry
      { e with started := true, ran := (s.dev.mmaEff n f).ran, flags := BitVec.ofNat 32 (s.dev.mmaEff n f).flags }) } := by
  obtain ⟨hrun, hhead, hrel⟩ := hat
  refine congrArg (fun d => Host.Outcome.next { s with dev := d })
    (Dev.runHead_runs s.dev n .mxa _ e (fun d _ => d.mmaEff n f) hrun hhead ?_ hrel hok)
  simp only [hi]

/-- Settles O21: a zero size makes the effect of the MMA the block itself, so only its mark in the queue is put. -/
theorem zeroSizedMmaDoesNothing : Obligations.ZeroSizedMmaDoesNothing := by
  intro n f s e hat hi c hz
  have heff : s.dev.mmaEff n f = ⟨s.dev, stOk, 0, true⟩ := s.dev.mmaEff_of_zero_dim n f (Core.mmaDims_zero hz)
  rw [exec_mma_of_ok hat hi (by rw [heff]), heff]
  rfl

end Sys2Proof.Machine
end

section
/-! The sparse tables: what a table lists, and what taking an unlisted number out of a set leaves. -/
namespace Sys2Proof

/-- Taking out a number that is not in a set leaves the set. -/
theorem NatSet.del_of_not_mem {t : NatSet} {k : Nat} (h : k ∉ t) : NatSet.del t k = t :=
  List.filter_eq_self.2 fun _ hj => decide_eq_true (ne_of_mem_of_not_mem hj h)

/-- What a table lists after a write was listed, or is what was written. -/
theorem Tab.mem_put {α : Type} {t : Tab α} {k : Nat} {v : α} {x : Nat × α} (h : x ∈ Tab.put t k v) : x = (k, v) ∨ x ∈ t := by
  induction t with
  | nil => exact .inl (List.mem_singleton.1 h)
  | cons y r ih =>
    rw [Tab.put] at h
    split at h
    · exact (List.mem_cons.1 h).imp_right (List.mem_cons_of_mem _)
    · split at h
      · exact List.mem_cons.1 h
      · rcases List.mem_cons.1 h with rfl | h
        · exact .inr List.mem_cons_self
        · exact (ih h).imp_right (List.mem_cons_of_mem _)

/-- An entry that reads as something other than the default is listed. -/
theorem Tab.mem_of_get_ne {α : Type} {t : Tab α} {k : Nat} {d : α} (h : Tab.get t k d ≠ d) : (k, Tab.get t k d) ∈ t := by
  induction t with
  | nil => exact absurd rfl h
  | cons y r ih =>
    obtain ⟨j, v⟩ := y
    rw [Tab.get] at h ⊢
    split at h
    next hj => subst hj; rw [if_pos rfl]; exact List.mem_cons_self
    next hj => rw [if_neg hj]; exact List.mem_cons_of_mem _ (ih h)

/-- The numbers that a table in the canonical form lists rise. -/
theorem Tab.pairwise_of_wfFrom {α : Type} [DecidableEq α] {t : Tab α} {lo : Nat} {d : α} (h : Tab.wfFrom t lo d = true) :
    (∀ x ∈ t, lo ≤ x.1) ∧ t.Pairwise fun x y => x.1 < y.1 := by
  induction t generalizing lo with
  | nil => exact ⟨nofun, .nil⟩
  | cons y r ih =>
    simp only [Tab.wfFrom, Bool.and_eq_true, decide_eq_true_eq] at h
    obtain ⟨⟨hlo, -⟩, hr⟩ := h
    obtain ⟨hge, hpw⟩ := ih hr
    refine ⟨fun x hx => ?_, List.pairwise_cons.2 ⟨hge, hpw⟩⟩
    rcases List.mem_cons.1 hx with rfl | hx
    · exact hlo
    · have := hge x hx
      omega

end Sys2Proof
end

section
/-! Writes of a local store that is clean and awake: they land whole, and change its bytes and finiteness bits alone (R126, R256). -/
namespace Sys2Proof.Machine
open Sys2Proof

/-- The block with other stored bytes and finiteness bits. -/
def Dev.withBytes (d : Dev) (bytes : List Host.Cell) (fin : NatSet) : Dev := { d with mem := { d.mem with bytes := bytes, finite := fin } }

@[simp] theorem Dev.withBytes_bytes (d : Dev) (bytes : List Host.Cell) (fin : NatSet) : (d.withBytes bytes fin).mem.bytes = bytes := rfl
@[simp] theorem Dev.withBytes_withBytes (d : Dev) (b b' : List Host.Cell) (fin fin' : NatSet) :
    (d.withBytes b fin).withBytes b' fin' = d.withBytes b' fin' := rfl

/-- What `CleanLs` says of the block. -/
def Dev.LsClean (d : Dev) (n : Nat) : Prop :=
  d.present n = true ∧ (d.core n).retained = false ∧ ∀ u, lsAddr n ≤ u → u < lsAddr n + 0x800000 → d.cleanAt u

theorem cleanLs_iff (s : State) (n : Nat) : CleanLs s n ↔ s.dev.LsClean n := .rfl

theorem Dev.LsClean.withBytes {d : Dev} {n : Nat} (h : d.LsClean n) (bytes : List Host.Cell) (fin : NatSet) :
    (d.withBytes bytes fin).LsClean n := h

/-- A write to a clean unit of a local store lands and leaves the marks as they are, whole unit or part of one. -/
theorem Dev.writeUnit_ls_clean (d : Dev) (n u a : Nat) (bs : List Byte) (sq : Nat) (h : d.cleanAt u) :
    d.writeUnit (.ls n) u a bs sq = (d.poke a bs, true) := by
  have hc := d.checkUnit_clean (.ls n) u h
  obtain ⟨hp, hu, hco⟩ := h
  simp [Dev.writeUnit, Dev.lineLost, NatSet.del_of_not_mem hp, NatSet.del_of_not_mem hu, NatSet.del_of_not_mem hco, hp, hc]

/-- One piece of a write to a local store: what `writeSeg` does with each piece in turn. -/
def landPiece (n sq : Nat) (fin : Nat → Bool) (halt : Bool) (x : Res) (u : Nat × Nat × List Byte) : Res :=
  if halt && decide (x.st ≠ stOk) then x
  else
    let y := x.dev.writeUnit (.ls n) u.1 u.2.1 u.2.2 sq
    if y.2 then ⟨y.1.afterWrite (.ls n) u.2.1 u.2.2.length fin, x.st, if x.st = stOk then x.done + u.2.2.length else x.done⟩
    else ⟨y.1, stMemUnc, x.done⟩

/-- A write to a local store that is awake is the pieces of its bytes, one after the other. -/
theorem Dev.writeSeg_ls (d : Dev) (n a : Nat) (bs : List Byte) (sq : Nat) (fin : Nat → Bool) (halt : Bool)
    (h : (d.core n).retained = false) :
    d.writeSeg (.ls n) a bs sq fin halt = (splitUnits 16 a bs (bs.length + 1)).foldl (landPiece n sq fin halt) ⟨d, stOk, 0⟩ := by
  have hwake : d.wakeLs (.ls n) = d := if_neg (by rw [h]; exact Bool.false_ne_true)
  exact congrArg (fun e => (splitUnits 16 a bs (bs.length + 1)).foldl (landPiece n sq fin halt) ⟨e, stOk, 0⟩) hwake

/-- A piece in a clean unit lands. -/
theorem landPiece_clean (d : Dev) (n sq : Nat) (fin : Nat → Bool) (halt : Bool) (k : Nat) (u : Nat × Nat × List Byte) (h : d.cleanAt u.1) :
    ∃ fin', landPiece n sq fin halt ⟨d, stOk, k⟩ u =
      ⟨d.withBytes (putBytes d.mem.bytes u.2.1 u.2.2) fin', stOk, k + u.2.2.length⟩ := by
  simp only [landPiece, d.writeUnit_ls_clean n u.1 u.2.1 u.2.2 sq h]
  exact ⟨_, by simp; rfl⟩

/-- Two byte strings written one behind the other are their append written at once. -/
theorem putBytes_append (t : List Host.Cell) (a : Nat) (xs ys : List Byte) :
    putBytes t a (xs ++ ys) = putBytes (putBytes t a xs) (a + xs.length) ys := by
  induction xs generalizing t a with
  | nil => rfl
  | cons x r ih => rw [List.cons_append, putBytes, ih, putBytes, List.length_cons, Nat.add_assoc, Nat.add_comm 1]

/-- A byte string cut at `m` and written in two is written whole. -/
theorem putBytes_take_drop (t : List Host.Cell) (a m : Nat) (bs : List Byte) :
    putBytes (putBytes t a (bs.take m)) (a + m) (bs.drop m) = putBytes t a bs := by
  rcases Nat.le_total m bs.length with h | h
  · have hcut := putBytes_append t a (bs.take m) (bs.drop m)
    rw [List.take_append_drop, List.length_take_of_le h] at hcut
    exact hcut.symm
  · rw [List.drop_of_length_le h, List.take_of_length_le h, putBytes]

/-- The pieces of a byte string, each in a clean unit, land one behind the other. -/
theorem foldl_landPiece_clean (n sq : Nat) (fin : Nat → Bool) (halt : Bool) (fuel : Nat) (d : Dev) (a : Nat) (bs : List Byte) (k : Nat)
    (hf : bs.length < fuel) (h : ∀ u, a / 16 * 16 ≤ u → u < a + bs.length → d.cleanAt u) :
    ∃ fin', (splitUnits 16 a bs fuel).foldl (landPiece n sq fin halt) ⟨d, stOk, k⟩ =
      ⟨d.withBytes (putBytes d.mem.bytes a bs) fin', stOk, k + bs.length⟩ := by
  induction fuel generalizing d a bs k with
  | zero => exact absurd hf (Nat.not_lt_zero _)
  | succ fuel ih =>
    rw [splitUnits]
    split
    next he =>
      obtain rfl := List.isEmpty_iff.1 he
      exact ⟨d.mem.finite, rfl⟩
    next he =>
      have hpos : 0 < bs.length := List.length_pos_iff.2 fun h0 => he (by simp [h0])
      have htake := List.length_take (i := 16 - a % 16) (l := bs)
      have hdrop := List.length_drop (i := 16 - a % 16) (l := bs)
      obtain ⟨f1, h1⟩ := landPiece_clean d n sq fin halt k (a / 16 * 16, a, bs.take (16 - a % 16)) (h _ (Nat.le_refl _) (by omega))
      obtain ⟨f2, h2⟩ := ih (d.withBytes (putBytes d.mem.bytes a (bs.take (16 - a % 16))) f1) (a + (16 - a % 16)) (bs.drop (16 - a % 16))
        (k + (bs.take (16 - a % 16)).length) (by omega) (fun u hl hu => h u (by omega) (by omega))
      refine ⟨f2, ?_⟩
      dsimp only [List.foldl_cons] at h1 ⊢
      rw [h1, h2, Dev.withBytes_withBytes, Dev.withBytes_bytes, putBytes_take_drop, htake, hdrop]
      exact congrArg (Res.mk _ _) (by omega)

/-- A local store of a present core backs its addresses. -/
theorem Dev.region_ls (d : Dev) (n off : Nat) (hp : d.present n = true) (ho : off < 0x800000) :
    d.region (lsAddr n + off) = some (.ls n, lsAddr n, lsAddr n + 0x800000) := by
  have htop := d.nearTop_le
  have hdiv : (lsAddr n + off - lsBase) / 0x1000000 = n := by unfold lsAddr; omega
  have hmod : (lsAddr n + off - lsBase) % 0x1000000 = off := by unfold lsAddr; omega
  have hnear : ¬ lsAddr n + off < d.nearTop := by unfold lsAddr lsBase; omega
  have hfar : ¬ (farBase ≤ lsAddr n + off ∧ lsAddr n + off < 0x068000000000) := by unfold lsAddr lsBase; omega
  have hingot : ¬ (ingotBase ≤ lsAddr n + off ∧ lsAddr n + off < ingotBase + 0x80000000) := by unfold lsAddr lsBase ingotBase; omega
  have hls : lsBase ≤ lsAddr n + off := by unfold lsAddr; omega
  simp only [Dev.region, if_neg hnear, if_neg hfar, if_neg hingot, hdiv, hmod, if_pos (And.intro hls (And.intro hp ho))]

theorem Dev.lt_of_present {d : Dev} {n : Nat} (h : d.present n = true) : n < 96 := by
  have hn : n < 4 * d.perDie := of_decide_eq_true h
  have hd : d.perDie ≤ 24 := by unfold Dev.perDie; split <;> decide
  omega

/-- A write that one region holds and takes whole is made. -/
theorem Dev.store_of_writeSeg {d d' : Dev} {a k sq b e : Nat} {bs : List Byte} {fin : Nat → Bool} {r : Region} (hbs : bs ≠ [])
    (ha : a < 2 ^ 64) (hr : d.region a = some (r, b, e)) (hn : a + bs.length ≤ e) (hw : d.writeSeg r a bs sq fin = ⟨d', stOk, k⟩) :
    d.store a bs sq fin = ⟨d', stOk, k⟩ := by
  have hemp : bs.isEmpty = false := by simp [hbs]
  have hmin : min bs.length (e - a) = bs.length := by omega
  have hgo : ¬ (stOk = stOutOfMap ∨ stOk = stWait ∨ (false = true ∧ stOk ≠ stOk)) := by decide
  rw [Dev.store, Dev.storeGo, hemp, Nat.mod_eq_of_lt ha, hr]
  dsimp only
  rw [hmin, List.take_length, List.drop_length, hw]
  dsimp only
  rw [if_neg hgo, Dev.storeGo]
  simp

/-- A write inside a clean local store lands whole. -/
theorem Dev.lsStore_clean (d : Dev) (n off : Nat) (bs : List Byte) (fin : Nat → Bool) (h : d.LsClean n) (hin : off + bs.length ≤ lsBytes) :
    ∃ fin', d.lsStore n off bs fin = (d.withBytes (putBytes d.mem.bytes (lsAddr n + off) bs) fin', stOk) := by
  obtain ⟨hp, hawake, hclean⟩ := h
  have hoff : off + bs.length ≤ 0x800000 := hin
  by_cases hz : bs = []
  · subst hz
    exact ⟨d.mem.finite, if_pos hin⟩
  have hpos : 0 < bs.length := List.length_pos_iff.2 hz
  have hn := Dev.lt_of_present hp
  have hbase : lsAddr n % 16 = 0 := by unfold lsAddr lsBase; omega
  have hlt : lsAddr n + off < 2 ^ 64 := by unfold lsAddr lsBase; omega
  obtain ⟨fin', hseg⟩ := foldl_landPiece_clean n 0 fin false (bs.length + 1) d (lsAddr n + off) bs 0 (Nat.lt_succ_self _)
    (fun u hl hu => hclean u (by omega) (by omega))
  rw [← d.writeSeg_ls n (lsAddr n + off) bs 0 fin false hawake] at hseg
  have hstore := Dev.store_of_writeSeg hz hlt (d.region_ls n off hp (by omega)) (by omega) hseg
  exact ⟨fin', by rw [Dev.lsStore, if_pos hin, hstore]⟩

/-- Byte strings written one after the other at their offsets from `b`. -/
def putRuns (b : Nat) (t : List Host.Cell) (rs : List (Nat × List Byte)) : List Host.Cell :=
  rs.foldl (fun t r => putBytes t (b + r.1) r.2) t

/-- Runs inside a clean local store all land. -/
theorem Dev.lsStoreRuns_clean (d : Dev) (n : Nat) (rs : List (Nat × List Byte)) (fin : Nat → Bool) (h : d.LsClean n)
    (hin : ∀ r ∈ rs, r.1 + r.2.length ≤ lsBytes) :
    ∃ fin', d.lsStoreRuns n rs fin = (d.withBytes (putRuns (lsAddr n) d.mem.bytes rs) fin', stOk) := by
  induction rs generalizing d with
  | nil => exact ⟨d.mem.finite, rfl⟩
  | cons r rest ih =>
    obtain ⟨f1, h1⟩ := d.lsStore_clean n r.1 r.2 fin h (hin r List.mem_cons_self)
    obtain ⟨f2, h2⟩ := ih (d.withBytes (putBytes d.mem.bytes (lsAddr n + r.1) r.2) f1) (h.withBytes _ _)
      (fun q hq => hin q (List.mem_cons_of_mem _ hq))
    unfold Dev.lsStoreRuns at h2 ⊢
    exact ⟨f2, by rw [List.foldl_cons]; simp only [h1, if_pos]; exact h2⟩

/-- A byte outside every run reads as before. -/
theorem get_putRuns_out (b : Nat) (t : List Host.Cell) (rs : List (Nat × List Byte)) (a : Nat)
    (h : ∀ r ∈ rs, a < b + r.1 ∨ b + r.1 + r.2.length ≤ a) : Tab.get (putRuns b t rs) a 0 = Tab.get t a 0 := by
  induction rs generalizing t with
  | nil => rfl
  | cons r rest ih =>
    exact (ih _ fun q hq => h q (List.mem_cons_of_mem _ hq)).trans (get_putBytes_out _ _ _ _ (h r List.mem_cons_self))

/-- Bytes apart from every run read as before. -/
theorem getBytes_putRuns_apart (b : Nat) (t : List Host.Cell) (rs : List (Nat × List Byte)) (a k : Nat)
    (h : ∀ r ∈ rs, a + k ≤ b + r.1 ∨ b + r.1 + r.2.length ≤ a) : getBytes (putRuns b t rs) a k = getBytes t a k :=
  List.map_congr_left fun i hi => get_putRuns_out b t rs (a + i) fun r hr => by
    have := List.mem_range.1 hi
    have := h r hr
    omega

/-- Of runs that do not overlap, each reads back. -/
theorem getBytes_putRuns_mem (b : Nat) (t : List Host.Cell) (rs : List (Nat × List Byte))
    (hp : rs.Pairwise fun p q => p.1 + p.2.length ≤ q.1 ∨ q.1 + q.2.length ≤ p.1) (r : Nat × List Byte) (hr : r ∈ rs) :
    getBytes (putRuns b t rs) (b + r.1) r.2.length = r.2 := by
  induction rs generalizing t with
  | nil => exact absurd hr List.not_mem_nil
  | cons q rest ih =>
    obtain ⟨hq, hrest⟩ := List.pairwise_cons.1 hp
    rcases List.mem_cons.1 hr with rfl | hr
    · refine (getBytes_putRuns_apart b _ rest _ _ fun p hp => ?_).trans (getBytes_putBytes _ _ _)
      have := hq p hp
      omega
    · exact ih _ hrest hr

/-- A memory instruction of the vector engine at its head and released, whose effect is on the stored bytes alone, puts that effect and
its mark in the queue. -/
theorem runVxm_stored {n : Fin 96} {o : VxmOp} {f : MemF} {g : Dev → MemF → Eff} {s : State} {e : QEntry} {fl : Nat}
    {bytes : List Host.Cell} {fin : NatSet} (hat : AtHead s n .vxm e) (hi : e.instr = .vxm o f)
    (hg : g s.dev f = ⟨s.dev.withBytes bytes fin, stOk, fl, true⟩) :
    s.act (fun d => d.runVxm n o g) = .next (s.stored n e fl bytes fin) := by
  obtain ⟨hrun, hhead, hrel⟩ := hat
  refine congrArg (fun d => Host.Outcome.next { s with dev := d })
    ((Dev.runHead_runs s.dev n .vxm _ e (fun d _ => g d f) hrun hhead ?_ hrel (by rw [hg])).trans ?_)
  · simp only [hi, if_pos]
  · rw [hg]; rfl

end Sys2Proof.Machine
end

section
/-! SCAT: of the active elements that name one place, the one in the highest lane is written (R144). -/
namespace Sys2Proof.Machine
open Sys2Proof

/-- The values of elements, listed by the place that each names; a later element takes the place of an earlier one. -/
def lastAt (val : Nat → Nat) (t : Tab (Option Nat)) (hs : List (Nat × Nat)) : Tab (Option Nat) :=
  hs.foldl (fun t h => Tab.put t h.2 (some (val h.1))) t

/-- A place that no element names keeps what was listed. -/
theorem get_lastAt_other (val : Nat → Nat) (t : Tab (Option Nat)) (hs : List (Nat × Nat)) (a : Nat) (h : ∀ k ∈ hs, k.2 ≠ a) :
    Tab.get (lastAt val t hs) a none = Tab.get t a none := by
  induction hs generalizing t with
  | nil => rfl
  | cons x r ih =>
    exact (ih _ fun k hk => h k (List.mem_cons_of_mem _ hk)).trans (Tab.get_put_ne _ _ _ _ _ (h x List.mem_cons_self).symm)

/-- Of elements in rising lanes, the highest that names a place is listed there (R144). -/
theorem get_lastAt_highest (val : Nat → Nat) (t : Tab (Option Nat)) (hs : List (Nat × Nat)) (hp : hs.Pairwise fun x y => x.1 < y.1)
    (h : Nat × Nat) (hh : h ∈ hs) (hmax : ∀ k ∈ hs, k.2 = h.2 → k.1 ≤ h.1) : Tab.get (lastAt val t hs) h.2 none = some (val h.1) := by
  induction hs generalizing t with
  | nil => exact absurd hh List.not_mem_nil
  | cons x r ih =>
    obtain ⟨hx, hr⟩ := List.pairwise_cons.1 hp
    rcases List.mem_cons.1 hh with rfl | hh
    · refine (get_lastAt_other val _ r h.2 fun k hk hkh => ?_).trans (Tab.get_put_same _ _ _ _)
      exact absurd (hmax k (List.mem_cons_of_mem _ hk) hkh) (Nat.not_le.2 (hx k hk))
    · exact ih _ hr hh fun k hk => hmax k (List.mem_cons_of_mem _ hk)

/-- Every place listed is one that an element names, or was listed. -/
theorem mem_lastAt {val : Nat → Nat} {t : Tab (Option Nat)} {hs : List (Nat × Nat)} {x : Nat × Option Nat} (hx : x ∈ lastAt val t hs) :
    (∃ h ∈ hs, h.2 = x.1) ∨ x ∈ t := by
  induction hs generalizing t with
  | nil => exact .inr hx
  | cons y r ih =>
    rcases ih hx with ⟨h, hh, he⟩ | hx
    · exact .inl ⟨h, List.mem_cons_of_mem _ hh, he⟩
    · exact (Tab.mem_put hx).imp_left fun he => ⟨y, List.mem_cons_self, by rw [he]⟩

theorem wf_lastAt (val : Nat → Nat) (t : Tab (Option Nat)) (hs : List (Nat × Nat)) (ht : Tab.wfFrom t 0 none = true) :
    Tab.wfFrom (lastAt val t hs) 0 none = true := by
  induction hs generalizing t with
  | nil => exact ht
  | cons y r ih => exact ih _ (Tab.wfFrom_put _ _ _ _ _ ht (Nat.zero_le _) (Option.some_ne_none _))

theorem mem_hitsOf {ts : List (Nat × Option Nat)} {p : Nat × Nat} : p ∈ hitsOf ts ↔ (p.1, some p.2) ∈ ts := by
  simp only [hitsOf, List.mem_filterMap, Option.map_eq_some_iff]
  constructor
  · rintro ⟨⟨a, o⟩, hx, v, rfl, rfl⟩
    exact hx
  · exact fun h => ⟨_, h, p.2, rfl, rfl⟩

/-- Dropping the entries without a second part keeps a list rising. -/
theorem hitsOf_rising {ts : List (Nat × Option Nat)} (h : ts.Pairwise fun x y => x.1 < y.1) :
    (hitsOf ts).Pairwise fun x y => x.1 < y.1 := by
  refine List.pairwise_filterMap.2 (h.imp fun hlt => ?_)
  rintro x hx y hy
  obtain ⟨_, _, rfl⟩ := Option.map_eq_some_iff.1 hx
  obtain ⟨_, _, rfl⟩ := Option.map_eq_some_iff.1 hy
  exact hlt

/-- The targets name their lanes in rising order. -/
theorem Core.targets_rising (c : Core) (f : MemF) (vl : Nat) : (c.targets f vl).Pairwise fun x y => x.1 < y.1 :=
  List.pairwise_map.2 (List.pairwise_lt_range.filter _)

/-- An accessed target is a whole number of elements from the start of the store, as the base's low bits are dropped (R127). -/
theorem Core.dvd_of_mem_hitsOf {c : Core} {f : MemF} {vl : Nat} {h : Nat × Nat} (hh : h ∈ hitsOf (c.targets f vl)) : f.size ∣ h.2 := by
  obtain ⟨i, -, he⟩ := List.mem_map.1 (mem_hitsOf.1 hh)
  obtain ⟨x, -, hx⟩ := Option.map_eq_some_iff.1 (Prod.mk.inj he).2
  rw [← hx]
  exact Nat.dvd_add (Nat.dvd_mul_left _ _) (Nat.dvd_mul_left _ _)

/-- Multiples of a size that differ are a size apart. -/
theorem add_le_of_dvd_of_lt {s a b : Nat} (ha : s ∣ a) (hb : s ∣ b) (hlt : a < b) : a + s ≤ b := by
  have := Nat.le_of_dvd (Nat.sub_pos_of_lt hlt) (Nat.dvd_sub hb ha)
  omega

/-- The targets that a gather or a scatter accesses, each with its element. -/
def Core.hits (c : Core) (f : MemF) : List (Nat × Nat) := hitsOf (c.targets f (c.vlMem f (tyCount f.ty.toNat)))

/-- What SCAT writes: each place named, with the bytes of the highest element that names it (R144). -/
def Core.scatRuns (c : Core) (f : MemF) : List (Nat × List Byte) :=
  (hitsOf (lastAt (c.elem f.vr.toNat f.ty.toNat) [] (c.hits f))).map (fun p => (p.1, leBytes f.size p.2))

/-- Each run of SCAT is one element long, at a place that an active element names. -/
theorem Core.mem_scatRuns {c : Core} {f : MemF} {r : Nat × List Byte} (hr : r ∈ c.scatRuns f) :
    r.2.length = f.size ∧ ∃ h ∈ c.hits f, h.2 = r.1 := by
  obtain ⟨p, hp, rfl⟩ := List.mem_map.1 hr
  exact ⟨leBytes_length _ _, (mem_lastAt (mem_hitsOf.1 hp)).resolve_right List.not_mem_nil⟩

/-- No two runs of SCAT overlap. -/
theorem Core.scatRuns_apart (c : Core) (f : MemF) :
    (c.scatRuns f).Pairwise fun p q => p.1 + p.2.length ≤ q.1 ∨ q.1 + q.2.length ≤ p.1 := by
  have hrise : (c.scatRuns f).Pairwise fun p q => p.1 < q.1 :=
    List.pairwise_map.2 (hitsOf_rising (Tab.pairwise_of_wfFrom (wf_lastAt _ [] _ rfl)).2)
  refine hrise.imp_of_mem fun hp hq hlt => .inl ?_
  obtain ⟨hlen, h, hh, hhp⟩ := Core.mem_scatRuns hp
  obtain ⟨-, k, hk, hkq⟩ := Core.mem_scatRuns hq
  rw [hlen]
  exact add_le_of_dvd_of_lt (hhp ▸ Core.dvd_of_mem_hitsOf hh) (hkq ▸ Core.dvd_of_mem_hitsOf hk) hlt

/-- The highest element that names a place has its run. -/
theorem Core.highest_mem_scatRuns {c : Core} {f : MemF} {h : Nat × Nat} (hh : h ∈ c.hits f)
    (hmax : ∀ k ∈ c.hits f, k.2 = h.2 → k.1 ≤ h.1) :
    (h.2, leBytes f.size (c.elem f.vr.toNat f.ty.toNat h.1)) ∈ c.scatRuns f := by
  have hget := get_lastAt_highest (c.elem f.vr.toNat f.ty.toNat) [] _ (hitsOf_rising (c.targets_rising f _)) h hh hmax
  have hmem := Tab.mem_of_get_ne (hget ▸ Option.some_ne_none _)
  rw [hget] at hmem
  exact List.mem_map.2 ⟨(h.2, c.elem f.vr.toNat f.ty.toNat h.1), mem_hitsOf.2 hmem, rfl⟩

/-- Without a vector length SCAT writes nothing. -/
theorem Core.scatRuns_of_vl_zero {c : Core} {f : MemF} (h : c.vlMem f (tyCount f.ty.toNat) = 0) : c.scatRuns f = [] := by
  rw [Core.scatRuns, Core.hits, h]
  rfl

/-- SCAT of a vector length with its targets inside the store writes its runs one after the other. -/
theorem Dev.scat_of_inside {d : Dev} {n : Nat} {f : MemF} (hvl : (d.core n).vlMem f (tyCount f.ty.toNat) ≠ 0)
    (hin : ∀ p ∈ vxmReach .scat f (d.core n), p.1 + p.2 ≤ 0x800000) :
    d.scat n f =
      let y := d.lsStoreRuns n ((d.core n).scatRuns f) (fun _ => false)
      if y.2 = stOk then ⟨y.1, stOk, (d.core n).tabFlags f ((d.core n).targets f ((d.core n).vlMem f (tyCount f.ty.toNat))), true⟩
      else Eff.fault y.1 y.2 := by
  have hall : allInside (vxmReach .scat f (d.core n)) = true := List.all_eq_true.2 fun p hp => decide_eq_true (hin p hp)
  exact (if_neg hvl).trans (if_pos hall)

/-- SCAT on a clean local store with its targets inside writes its runs and nothing else. -/
theorem Dev.scat_clean (d : Dev) (n : Nat) (f : MemF) (h : d.LsClean n)
    (hin : ∀ p ∈ vxmReach .scat f (d.core n), p.1 + p.2 ≤ 0x800000) :
    ∃ fin fl, d.scat n f = ⟨d.withBytes (putRuns (lsAddr n) d.mem.bytes ((d.core n).scatRuns f)) fin, stOk, fl, true⟩ := by
  by_cases hvl : (d.core n).vlMem f (tyCount f.ty.toNat) = 0
  · rw [Core.scatRuns_of_vl_zero hvl]
    exact ⟨d.mem.finite, 0, if_pos hvl⟩
  · obtain ⟨fin, hrun⟩ := d.lsStoreRuns_clean n ((d.core n).scatRuns f) (fun _ => false) h fun r hr => by
      obtain ⟨hlen, k, hk, hkr⟩ := Core.mem_scatRuns hr
      rw [hlen, ← hkr]
      exact hin _ (List.mem_map.2 ⟨k, hk, rfl⟩)
    exact ⟨fin, _, by rw [Dev.scat_of_inside hvl hin, hrun]; exact if_pos rfl⟩

/-- Settles O19: SCAT's runs do not overlap, and the run at a place is that of the highest element that names it. -/
theorem scatterHighestLaneWins : Obligations.ScatterHighestLaneWins := by
  intro n f s e hat hclean hi hin c ty hits
  obtain ⟨fin, fl, hscat⟩ := s.dev.scat_clean n f ((cleanLs_iff s n).1 hclean) hin
  refine ⟨_, fin, fl, runVxm_stored (g := fun d f => d.scat n f) hat hi hscat, fun h hh hmax => ?_, fun a ha => ?_⟩
  · have hread := getBytes_putRuns_mem (lsAddr n) s.dev.mem.bytes _ (c.scatRuns_apart f) _ (Core.highest_mem_scatRuns hh hmax)
    rw [leBytes_length] at hread
    rw [hread, leNat_leBytes]
  · refine get_putRuns_out _ _ _ _ fun r hr => ?_
    obtain ⟨hlen, h, hh, hhr⟩ := Core.mem_scatRuns hr
    rw [hlen, ← hhr]
    exact ha h hh

end Sys2Proof.Machine
end

section
/-! The set-up registers: what a run of field writes changes and leaves, and the 4 B write of the route table (R535). -/
namespace Sys2Proof.Machine
open Sys2Proof

/-! ### Several fields written one after the other -/

/-- Writes the value `v i` into the field `f i` for each `i` of a list, in order. -/
def Dev.wrAll (d : Dev) (f : Nat → Field) (v : Nat → Nat) (is : List Nat) : Dev := is.foldl (fun e i => e.wr (f i) (v i)) d

/-- Writing fields changes nothing but the registers. -/
theorem Dev.wrAll_eq (d : Dev) (f : Nat → Field) (v : Nat → Nat) (is : List Nat) :
    d.wrAll f v is = { d with regs := (d.wrAll f v is).regs } := by
  induction is generalizing d with
  | nil => rfl
  | cons i is ih => exact ih (d.wr (f i) (v i))

/-- A field at none of the places written reads as before. -/
theorem Dev.rd_wrAll_other (d : Dev) (f : Nat → Field) (v : Nat → Nat) {is : List Nat} {g : Field} (h : ∀ i ∈ is, g.key ≠ (f i).key) :
    (d.wrAll f v is).rd g = d.rd g := by
  induction is generalizing d with
  | nil => rfl
  | cons i is ih =>
    obtain ⟨hi, his⟩ := List.forall_mem_cons.1 h
    exact (ih (d.wr (f i) (v i)) his).trans (d.rd_wr_ne (f i) g (v i) hi)

/-- Of fields at different places, each reads as its value cut to its width. -/
theorem Dev.rd_wrAll_mem (d : Dev) (f : Nat → Field) (v : Nat → Nat) {is : List Nat} {i : Nat} (hi : i ∈ is)
    (h : is.Pairwise fun j k => (f j).key ≠ (f k).key) : (d.wrAll f v is).rd (f i) = v i % 2 ^ (f i).w := by
  induction is generalizing d with
  | nil => exact absurd hi List.not_mem_nil
  | cons j is ih =>
    obtain ⟨hj, his⟩ := List.pairwise_cons.1 h
    rcases List.mem_cons.1 hi with rfl | hi
    · exact ((d.wr (f i) (v i)).rd_wrAll_other f v hj).trans (d.rd_wr_same (f i) (v i))
    · exact ih (d.wr (f j) (v j)) hi his

/-! ### REGISTER_WRITE by a port that is reached -/

/-- Nothing lands before an access where the update and security block is reached at once. -/
theorem Dev.landPort_of_updReach {d : Dev} {p : PciePort} (h : d.updReach p = true) : d.landPort p = d := by
  simp only [Dev.updReach, Bool.and_eq_true, Bool.not_eq_true'] at h
  exact d.landPort_of_free p h.2

/-- Dropping a port's latch leaves the registers. -/
@[simp] theorem Dev.dropLatch_rd (d : Dev) (p : PciePort) (f : Field) : (d.dropLatch p).rd f = d.rd f := by
  rw [Dev.rd, Dev.dropLatch, Dev.setPort_regs, Dev.rd]

/-- Dropping a port's latch leaves the state of the module as a whole, so its phase. -/
@[simp] theorem Dev.dropLatch_sys (d : Dev) (p : PciePort) : (d.dropLatch p).sys = d.sys := d.setPort_sys p _

/-- A 4 B write in BAR0 by a port that is reached, with no reserved bit set, drops the port's latch and writes its one word (R532). -/
theorem exec_registerWrite_word {p : PciePort} {off v : Nat} {s : State} (hr : s.dev.updReach p = true) (hoff : bar0Ok off 4 = true)
    (hv : v < 2 ^ 32) (hres : s.dev.touchesReserved off v = false) :
    exec (.registerWrite p off 4 v) s = .next { s with dev := (s.dev.dropLatch p).writeWord p off v } := by
  have hw : wordsOf off 4 v = [(off, v)] := by simpa [wordsOf] using hv
  change execRegisterWrite p off 4 v s = _
  simp [execRegisterWrite, Dev.landPort_of_updReach hr, hr, hoff, hw, hres, State.act]

/-! ### The route table (R377, R535) -/

/-- Different IDs have their route entries at different places. -/
theorem F.ROUTE_key_inj {a b : Nat} (h : (F.ROUTE a).key = (F.ROUTE b).key) : a = b := by
  simp only [Field.key, F.ROUTE] at h
  omega

/-- The route table holds no reserved bit. -/
theorem Dev.touchesReserved_route (d : Dev) {off : Nat} (v : Nat) (h : 0x30000 ≤ off ∧ off < 0x40000) : d.touchesReserved off v = false := by
  simp [Dev.touchesReserved, h]

/-- Outside recovery a word written in the route table is its four entries. -/
theorem Dev.writeWord_route {d : Dev} (p : PciePort) {off : Nat} (v : Nat) (hph : d.sys.phase ≠ .recovery)
    (h : 0x30000 ≤ off ∧ off < 0x40000) : d.writeWord p off v = d.routeWrite off v := by
  have hm : isMsix off = false := by
    simp only [isMsix, Bool.or_eq_false_iff, decide_eq_false_iff_not]
    omega
  simp [Dev.writeWord, hph, hm, h]

/-- Four route entries written at once are writes of the entries from ID `off - 0x30000` on, each with its byte of the value. -/
theorem Dev.routeWrite_eq_wrAll (d : Dev) (id v : Nat) :
    d.routeWrite (0x30000 + id) v = d.wrAll (fun i => F.ROUTE (id + i)) (fun i => v / 256 ^ i % 256) (List.range 4) := by
  simp only [Dev.routeWrite, Nat.add_sub_cancel_left]
  rfl

/-- A byte of a word as its bits. -/
theorem toNat_extractLsb'_byte (v : Word) (i : Nat) : (v.extractLsb' (8 * i) 8).toNat = v.toNat / 256 ^ i % 256 := by
  rw [BitVec.extractLsb'_toNat, Nat.shiftRight_eq_div_pow, Nat.pow_mul]

/-- Settles O48: the write is one step that puts four entries at different places, each with its byte of the value. -/
theorem routeTableWritesFourEntries : Obligations.RouteTableWritesFourEntries := by
  intro p j v s hr hph hj
  have hoff : 0x30000 ≤ 0x30000 + 4 * j ∧ 0x30000 + 4 * j < 0x40000 := by omega
  have hok : bar0Ok (0x30000 + 4 * j) 4 = true := by
    simp only [bar0Ok, BEq.rfl, Bool.true_or, Bool.true_and, Bool.and_eq_true, beq_iff_eq, decide_eq_true_eq]
    omega
  have hstep := exec_registerWrite_word hr hok v.isLt (s.dev.touchesReserved_route v.toNat hoff)
  rw [Dev.writeWord_route p v.toNat (by simpa using hph) hoff, Dev.routeWrite_eq_wrAll] at hstep
  refine ⟨_, hstep, ?_, fun i hi => ?_, fun g hg => ?_⟩
  · exact congrArg (fun d => { s with dev := d }) (Dev.wrAll_eq ..)
  · have hapart : (List.range 4).Pairwise fun a b => (F.ROUTE (4 * j + a)).key ≠ (F.ROUTE (4 * j + b)).key :=
      List.nodup_range.imp fun hab h => hab (Nat.add_left_cancel (F.ROUTE_key_inj h))
    rw [toNat_extractLsb'_byte]
    exact (Dev.rd_wrAll_mem _ _ _ (List.mem_range.2 hi) hapart).trans (Nat.mod_mod _ _)
  · exact (Dev.rd_wrAll_other _ _ _ fun i hi => hg _ (List.mem_map_of_mem hi)).trans (s.dev.dropLatch_rd p g)

end Sys2Proof.Machine
end
